-- ==== Sys2Proof/Word.lean ====
section
/-! DEFINITION. The word types of the part (R1, R2, R22, R36 of spec/). -/

namespace Sys2Proof

/-- A 64-bit value: a general register, an address, a system register (R36). -/
abbrev Word := BitVec 64

/-- One byte of memory (R2: multi-byte values are little-endian). -/
abbrev Byte := BitVec 8

/-- A register field of an instruction word: g0 to g63 (R22, R36). -/
abbrev RegNo := BitVec 6

end Sys2Proof
end

