-- ==== Sys2Proof/Config.lean ====
section
/-! DEFINITION. What the spec leaves to the implementation or leaves open: opaque constants without a body, so
that no proof can see their values (log entry 6). -/

namespace Sys2Proof.Config

/-- A free choice: the n-th value the part picks where the spec gives no rule for it (R101, R102, R96). -/
opaque freeNat : Nat → Nat

/-- A free word: the n-th value the spec leaves unstated. -/
opaque freeWord : Nat → BitVec 64

/-- A free bit: the n-th yes-or-no choice the spec leaves open (R240, R290). -/
opaque freeBool : Nat → Bool

/-- The clocks beyond one that the n-th step of the part takes: the spec fixes no latency (R405). -/
opaque stepClocks : Nat → Nat

/-- How many of a core's latest issues lie within the previous 7 clocks at the n-th step (R94): the spec fixes no clock of an issue. -/
opaque recentIssues : Nat → Nat

/-- Whether the signature of a configuration record verifies (R397, R398): SLH-DSA is not in the spec. -/
opaque recordSigned : List Byte → Bool

/-- Whether an atelier image verifies (R396, R398). -/
opaque imageSigned : List Byte → Bool

/-- The security version an atelier image states (R396, R401): the spec gives the image no layout. -/
opaque imageVersion : List Byte → Nat

/-- The entry address of an atelier image (R396 step 4). -/
opaque imageEntry : List Byte → Word

/-- The bytes of SHAKE256's output (R398). -/
opaque digestByte : List Byte → Nat → Byte

/-- SHAKE256 with 64 bytes of output (R398). -/
def digest (l : List Byte) : List Byte := (List.range 64).map (digestByte l)

/-- The address at which atelier code starts on the cores of an unassigned bed (R388 step 9). -/
opaque imageBedEntry : List Byte → Word

/-- Whether the PUF responses were corrected with PUFAUX (R399). -/
opaque identityDerived : List Byte → Bool

/-- The bytes of the identity public key that the PUF responses and PUFAUX give (R399). -/
opaque identityKeyByte : List Byte → Nat → Byte

/-- The identity public key (R398, R399): 64 bytes. -/
def identityKey (aux : List Byte) : List Byte := (List.range 64).map (identityKeyByte aux)

/-- The bytes of a signature with the secret key that belongs to a public key (R398). -/
opaque identitySignByte : List Byte → List Byte → Nat → Byte

/-- The identity signature over a report (R398, R400): 49,856 bytes. -/
def identitySign (key report : List Byte) : List Byte := (List.range 49856).map (identitySignByte key report)

/-- Where in a tower's DRAM the atelier reserves the 64 MiB of its anchor table (R184), in units of 64 MiB. -/
opaque anchorPlace : Nat → Nat

/-- The sections of an object image (R54, R374 LOAD): kind (0 text, 1 data, 2 scratch, 3 placed), virtual vault, alignment
and size; the spec gives the image no layout. -/
opaque imageSections : List Byte → List (Nat × Nat × Nat × Nat)

/-- The bytes of a section, relocated for sections at the listed addresses. -/
opaque imageBytes : List Byte → List Nat → Nat → List Byte

/-- The `.global` symbol values for sections at the listed addresses. -/
opaque imageSymbols : List Byte → List Nat → List Byte

/-- The virtual address of an entry in an image whose sections lie at the listed addresses (R374 OPEN ARG3). -/
opaque imageAddress : List Byte → List Nat → BitVec 64 → BitVec 64

/-- The configuration record in serial flash as the part leaves manufacture (R397). -/
opaque factoryRecord : List Byte

/-- The atelier image in flash slot 0 as the part leaves manufacture. -/
opaque factoryImage0 : List Byte

/-- The atelier image in flash slot 1 as the part leaves manufacture. -/
opaque factoryImage1 : List Byte

end Sys2Proof.Config
end

