-- ==== Sys2Proof/Syntax.lean ====
section
/-! DEFINITION. The instructions and events of the part: one constructor of `Instr` per row of
spec/opcode_table.json. A row with a word carries its format's fields (R22, in spec/03_encoding.md); a row without
a word is a step of the part itself, and its arguments name the agent that takes it and whatever choice the spec
leaves to the part or to the outside. -/

namespace Sys2Proof

/-- R format with rd, ra, rb and both trap bits (R22, R25). -/
structure R3 where
  d : RegNo
  a : RegNo
  b : RegNo
  x : Bool
  y : Bool
  deriving DecidableEq, Repr

/-- R format with rd and ra (R24: rb and tb are zero). -/
structure R2 where
  d : RegNo
  a : RegNo
  x : Bool
  deriving DecidableEq, Repr

/-- R format with ra and rb. -/
structure Rab where
  a : RegNo
  b : RegNo
  x : Bool
  y : Bool
  deriving DecidableEq, Repr

/-- R format with ra alone. -/
structure Ra where
  a : RegNo
  x : Bool
  deriving DecidableEq, Repr

/-- R format with rd alone. -/
structure Rd where
  d : RegNo
  deriving DecidableEq, Repr

/-- I format (R22, R23). -/
structure Imm where
  d : RegNo
  a : RegNo
  x : Bool
  i : BitVec 13
  deriving DecidableEq, Repr

/-- I format of SHI: a shift amount (R23, R77). -/
structure Shi where
  d : RegNo
  a : RegNo
  x : Bool
  n : BitVec 6
  deriving DecidableEq, Repr

/-- U and J formats: rd and a 20-bit immediate (R22, R23). -/
structure Up where
  d : RegNo
  i : BitVec 20
  deriving DecidableEq, Repr

/-- B layout of JT: index, base and the unsigned bound12 (R22, R81). -/
structure Jt where
  a : RegNo
  b : RegNo
  x : Bool
  y : Bool
  c : BitVec 12
  deriving DecidableEq, Repr

/-- B format: two sources and disp12 (R22, R23). -/
structure Br where
  a : RegNo
  b : RegNo
  x : Bool
  y : Bool
  i : BitVec 12
  deriving DecidableEq, Repr

/-- M format of a load: tb is zero (R22, R25, R26). -/
structure Ld where
  d : RegNo
  a : RegNo
  x : Bool
  s : BitVec 3
  o : Bool
  i : BitVec 8
  deriving DecidableEq, Repr

/-- M format of a store: d is the data register (R22, R25, R26). -/
structure St where
  d : RegNo
  a : RegNo
  x : Bool
  y : Bool
  s : BitVec 3
  o : Bool
  i : BitVec 8
  deriving DecidableEq, Repr

/-- A format (R22, R26, R171). -/
structure Am where
  d : RegNo
  a : RegNo
  b : RegNo
  s : BitVec 3
  o : Bool
  deriving DecidableEq, Repr

/-- IMASK's count, in the rb field (R32). -/
structure Cnt where
  n : BitVec 6
  deriving DecidableEq, Repr

/-- FENCE's scope (R22, R26). -/
structure Fn where
  s : BitVec 3
  deriving DecidableEq, Repr

/-- X format with three registers (R22). -/
structure X3 where
  d : RegNo
  a : RegNo
  b : RegNo
  deriving DecidableEq, Repr

/-- X format of SEND, with k (R24, R206). -/
structure Snd where
  d : RegNo
  a : RegNo
  b : RegNo
  k : Bool
  deriving DecidableEq, Repr

/-- X format with rd and ra. -/
structure X2 where
  d : RegNo
  a : RegNo
  deriving DecidableEq, Repr

/-- V format with sd, sa, sb (R22, R28, R29). -/
structure V3 where
  d : BitVec 3
  a : BitVec 3
  b : BitVec 3
  f : BitVec 4
  m : Bool
  deriving DecidableEq, Repr

/-- V format with all four streams. -/
structure V4 where
  d : BitVec 3
  a : BitVec 3
  b : BitVec 3
  c : BitVec 3
  f : BitVec 4
  m : Bool
  deriving DecidableEq, Repr

/-- V format with sd and sa. -/
structure V2 where
  d : BitVec 3
  a : BitVec 3
  f : BitVec 4
  m : Bool
  deriving DecidableEq, Repr

/-- V format of VSACC and VXACC: four streams, one format (R247, R248). -/
structure Va where
  d : BitVec 3
  a : BitVec 3
  b : BitVec 3
  c : BitVec 3
  m : Bool
  deriving DecidableEq, Repr

/-- V format of VXCVT: two streams, one format (R249). -/
structure Vx where
  d : BitVec 3
  a : BitVec 3
  m : Bool
  deriving DecidableEq, Repr

/-- F format of STRADV and VSPLAT: register and stream (R250). -/
structure Sg where
  g : RegNo
  s : BitVec 3
  deriving DecidableEq, Repr

/-- SRR: rd and a system register number (R42). -/
structure Srd where
  d : RegNo
  n : BitVec 12
  deriving DecidableEq, Repr

/-- SRW, SRS, SRC: the data register, the number, and ta, which governs rd (R25, R42). -/
structure Swr where
  d : RegNo
  n : BitVec 12
  x : Bool
  deriving DecidableEq, Repr

/-- F format with register, sel and field index (R33). -/
structure Fld where
  g : RegNo
  s : BitVec 3
  i : BitVec 4
  deriving DecidableEq, Repr

/-- F format with sel zero: register and field index (R33). -/
structure Fone where
  g : RegNo
  i : BitVec 4
  deriving DecidableEq, Repr

/-- A request to the atelier service (R373): the secure domain it came in (none for the operator domain), the port,
the header's BASIN, reserved bits, TAG and ARG0 to ARG5, and the body. -/
structure Req where
  domain : Option Nat
  port : Nat
  reply : Nat
  basin : BitVec 16
  reserved : Bool
  tag : Word
  args : List Word
  body : List Byte
  deriving DecidableEq, Repr

/-- A message of a client on an Ultra Ethernet port (R371, R372): the connection, whether it is ordered (ROD), the
memory key, the offset in the window, the bytes to write or the number to read. -/
structure RmaMsg where
  port : Nat
  conn : Nat
  ordered : Bool
  key : Nat
  offset : Nat
  bytes : List Byte
  count : Nat
  deriving DecidableEq, Repr

/-- The instructions and events of spec/opcode_table.json: the words with operands, the word that names no
instruction, the events with arguments, and last the words and events without either. -/
inductive Instr where
  /-- ADD (R67): Writes the 64-bit sum of ra and rb to rd. -/
  | add (o : R3)
  /-- SUB (R67): Writes the 64-bit difference of ra and rb to rd. -/
  | sub (o : R3)
  /-- AND (R67): Writes the bitwise and of ra and rb to rd. -/
  | and (o : R3)
  /-- OR (R67): Writes the bitwise or of ra and rb to rd. -/
  | or (o : R3)
  /-- XOR (R67): Writes the bitwise exclusive or of ra and rb to rd. -/
  | xor (o : R3)
  /-- ANDN (R67): Writes ra and not rb to rd. -/
  | andn (o : R3)
  /-- ORN (R67): Writes ra or not rb to rd. -/
  | orn (o : R3)
  /-- XNOR (R67): Writes the complement of ra xor rb to rd. -/
  | xnor (o : R3)
  /-- SLL (R68): Shifts ra left by rb[5:0]. -/
  | sll (o : R3)
  /-- SRL (R68): Shifts ra right logically by rb[5:0]. -/
  | srl (o : R3)
  /-- SRA (R68): Shifts ra right arithmetically by rb[5:0]. -/
  | sra (o : R3)
  /-- ROL (R68): Rotates ra left by rb[5:0]. -/
  | rol (o : R3)
  /-- ROR (R68): Rotates ra right by rb[5:0]. -/
  | ror (o : R3)
  /-- SLT (R69): Writes 1 if ra is less than rb signed, else 0. -/
  | slt (o : R3)
  /-- SLTU (R69): Writes 1 if ra is less than rb unsigned, else 0. -/
  | sltu (o : R3)
  /-- MIN (R69): Writes the signed minimum of ra and rb. -/
  | min (o : R3)
  /-- MAX (R69): Writes the signed maximum of ra and rb. -/
  | max (o : R3)
  /-- MINU (R69): Writes the unsigned minimum of ra and rb. -/
  | minu (o : R3)
  /-- MAXU (R69): Writes the unsigned maximum of ra and rb. -/
  | maxu (o : R3)
  /-- MUL (R70): Writes the low 64 bits of the product of ra and rb. -/
  | mul (o : R3)
  /-- MULH (R70): Writes the high 64 bits of the signed product. -/
  | mulh (o : R3)
  /-- MULHU (R70): Writes the high 64 bits of the unsigned product. -/
  | mulhu (o : R3)
  /-- MULHSU (R70): Writes the high 64 bits of the signed-by-unsigned product. -/
  | mulhsu (o : R3)
  /-- DIV (R71): Issues a signed long-latency division and leaves rd pending for the quotient. -/
  | div (o : R3)
  /-- DIVU (R71): Issues an unsigned long-latency division and leaves rd pending. -/
  | divu (o : R3)
  /-- REM (R71): Issues a signed long-latency remainder and leaves rd pending. -/
  | rem (o : R3)
  /-- REMU (R71): Issues an unsigned long-latency remainder and leaves rd pending. -/
  | remu (o : R3)
  /-- ADDW (R72): Adds the low 32 bits and sign-extends the result. -/
  | addw (o : R3)
  /-- SUBW (R72): Subtracts the low 32 bits and sign-extends the result. -/
  | subw (o : R3)
  /-- MULW (R72): Multiplies the low 32 bits and sign-extends the result. -/
  | mulw (o : R3)
  /-- SLLW (R72): Shifts the low 32 bits left and sign-extends. -/
  | sllw (o : R3)
  /-- SRLW (R72): Shifts the low 32 bits right logically and sign-extends. -/
  | srlw (o : R3)
  /-- SRAW (R72): Shifts the low 32 bits right arithmetically and sign-extends. -/
  | sraw (o : R3)
  /-- CLZ (R73): Counts leading zero bits of ra. -/
  | clz (o : R2)
  /-- CTZ (R73): Counts trailing zero bits of ra. -/
  | ctz (o : R2)
  /-- POPC (R73): Counts one bits of ra. -/
  | popc (o : R2)
  /-- BREV (R73): Reverses the bit order of ra. -/
  | brev (o : R2)
  /-- BSWAP (R73): Reverses the byte order of ra. -/
  | bswap (o : R2)
  /-- SEXTB (R73): Sign-extends ra[7:0]. -/
  | sextb (o : R2)
  /-- SEXTH (R73): Sign-extends ra[15:0]. -/
  | sexth (o : R2)
  /-- SEXTW (R73): Sign-extends ra[31:0]. -/
  | sextw (o : R2)
  /-- ZEXTW (R73): Zero-extends ra[31:0]. -/
  | zextw (o : R2)
  /-- CSEL (R74): Writes rb to rd when ra is non-zero and otherwise rewrites rd untagged. -/
  | csel (o : R3)
  /-- HMOV (R75): Copies ra to rd together with its tag. -/
  | hmov (o : R2)
  /-- FADD (R83): Adds two fp32 values with one rounding and sets flags. -/
  | fadd (o : R3)
  /-- FSUB (R83): Subtracts two fp32 values with one rounding and sets flags. -/
  | fsub (o : R3)
  /-- FMUL (R83): Multiplies two fp32 values with one rounding and sets flags. -/
  | fmul (o : R3)
  /-- FDIV (R83): Issues a long-latency fp32 division leaving rd pending. -/
  | fdiv (o : R3)
  /-- FSQRT (R83): Issues a long-latency fp32 square root leaving rd pending. -/
  | fsqrt (o : R2)
  /-- FMA (R84): Computes ra times rb plus old rd with a single rounding. -/
  | fma (o : R3)
  /-- FMIN (R85): Writes the smaller fp32 input with NaN rules. -/
  | fmin (o : R3)
  /-- FMAX (R85): Writes the larger fp32 input with NaN rules. -/
  | fmax (o : R3)
  /-- FEQ (R86): Writes 1 if the fp32 inputs are equal. -/
  | feq (o : R3)
  /-- FLT (R86): Writes 1 if the first fp32 input is less than the second. -/
  | flt (o : R3)
  /-- FLE (R86): Writes 1 if the first fp32 input is at most the second. -/
  | fle (o : R3)
  /-- FCLASS (R87): Writes a one-hot class mask of the fp32 input. -/
  | fclass (o : R2)
  /-- FTOI (R88): Converts fp32 to a signed 64-bit integer, truncating. -/
  | ftoi (o : R2)
  /-- FTOIU (R88): Converts fp32 to an unsigned 64-bit integer, truncating. -/
  | ftoiu (o : R2)
  /-- ITOF (R89): Converts a signed integer to fp32. -/
  | itof (o : R2)
  /-- ITOFU (R89): Converts an unsigned integer to fp32. -/
  | itofu (o : R2)
  /-- FTOBF (R90): Rounds fp32 to bf16. -/
  | ftobf (o : R2)
  /-- BFTOF (R90): Converts bf16 to fp32 exactly. -/
  | bftof (o : R2)
  /-- FTOH (R90): Rounds fp32 to fp16. -/
  | ftoh (o : R2)
  /-- HTOF (R90): Converts fp16 to fp32 exactly. -/
  | htof (o : R2)
  /-- FNEG (R91): Inverts the sign bit of an fp32 value. -/
  | fneg (o : R2)
  /-- FABS (R91): Clears the sign bit of an fp32 value. -/
  | fabs (o : R2)
  /-- ADDI (R76): Adds a sign-extended immediate to ra. -/
  | addi (o : Imm)
  /-- ANDI (R76): Ands ra with a sign-extended immediate. -/
  | andi (o : Imm)
  /-- ORI (R76): Ors ra with a sign-extended immediate. -/
  | ori (o : Imm)
  /-- XORI (R76): Exclusive-ors ra with a sign-extended immediate. -/
  | xori (o : Imm)
  /-- SLTI (R76): Writes 1 if ra is less than the immediate signed. -/
  | slti (o : Imm)
  /-- SLTIU (R76): Writes 1 if ra is less than the sign-extended immediate unsigned. -/
  | sltiu (o : Imm)
  /-- ADDIW (R76): Adds an immediate and sign-extends the low 32 bits. -/
  | addiw (o : Imm)
  /-- SLLI (R77): Shifts ra left by an immediate amount. -/
  | slli (o : Shi)
  /-- SRLI (R77): Shifts ra right logically by an immediate amount. -/
  | srli (o : Shi)
  /-- SRAI (R77): Shifts ra right arithmetically by an immediate amount. -/
  | srai (o : Shi)
  /-- ROLI (R77): Rotates ra left by an immediate amount. -/
  | roli (o : Shi)
  /-- LUI (R78): Writes the sign-extended upper immediate to rd. -/
  | lui (o : Up)
  /-- AUIPC (R78): Writes the PC plus the sign-extended upper immediate to rd. -/
  | auipc (o : Up)
  /-- JAL (R79): Writes PC+4 to rd and jumps by a scaled displacement. -/
  | jal (o : Up)
  /-- JALR (R80): Jumps to ra plus an immediate and writes PC+4 to rd. -/
  | jalr (o : Imm)
  /-- JT (R81): Bounded table jump that reads one table entry or falls through. -/
  | jt (o : Jt)
  /-- BEQ (R82): Branches when ra equals rb. -/
  | beq (o : Br)
  /-- BNE (R82): Branches when ra differs from rb. -/
  | bne (o : Br)
  /-- BLT (R82): Branches when ra is less than rb signed. -/
  | blt (o : Br)
  /-- BGE (R82): Branches when ra is at least rb signed. -/
  | bge (o : Br)
  /-- BLTU (R82): Branches when ra is less than rb unsigned. -/
  | bltu (o : Br)
  /-- BGEU (R82): Branches when ra is at least rb unsigned. -/
  | bgeu (o : Br)
  /-- LB (R148): Loads a sign-extended byte. -/
  | lb (o : Ld)
  /-- LBU (R148): Loads a zero-extended byte. -/
  | lbu (o : Ld)
  /-- LH (R148): Loads a sign-extended half-word. -/
  | lh (o : Ld)
  /-- LHU (R148): Loads a zero-extended half-word. -/
  | lhu (o : Ld)
  /-- LW (R148): Loads a sign-extended word. -/
  | lw (o : Ld)
  /-- LWU (R148): Loads a zero-extended word. -/
  | lwu (o : Ld)
  /-- LD (R148): Loads an 8-byte value, with its tag from own scratchpad. -/
  | ld (o : Ld)
  /-- LQ (R148): Loads 16 bytes into an even register pair. -/
  | lq (o : Ld)
  /-- SB (R148): Stores a byte. -/
  | sb (o : St)
  /-- SH (R148): Stores a half-word. -/
  | sh (o : St)
  /-- SW (R148): Stores a word. -/
  | sw (o : St)
  /-- SD (R148): Stores 8 bytes, carrying the tag into own scratchpad. -/
  | sd (o : St)
  /-- SQ (R148): Stores an even register pair as 16 bytes. -/
  | sq (o : St)
  /-- AMOW_SWAP (R172): Atomically swaps a 4-byte word. -/
  | amowSwap (o : Am)
  /-- AMOW_ADD (R172): Atomically adds to a 4-byte word. -/
  | amowAdd (o : Am)
  /-- AMOW_AND (R172): Atomically ands a 4-byte word. -/
  | amowAnd (o : Am)
  /-- AMOW_OR (R172): Atomically ors a 4-byte word. -/
  | amowOr (o : Am)
  /-- AMOW_XOR (R172): Atomically exclusive-ors a 4-byte word. -/
  | amowXor (o : Am)
  /-- AMOW_MIN (R172): Atomically keeps the signed minimum of a 4-byte word. -/
  | amowMin (o : Am)
  /-- AMOW_MAX (R172): Atomically keeps the signed maximum of a 4-byte word. -/
  | amowMax (o : Am)
  /-- AMOW_MINU (R172): Atomically keeps the unsigned minimum of a 4-byte word. -/
  | amowMinu (o : Am)
  /-- AMOW_MAXU (R172): Atomically keeps the unsigned maximum of a 4-byte word. -/
  | amowMaxu (o : Am)
  /-- AMOW_CAS (R172): Atomically compares a 4-byte word with rd and swaps on match. -/
  | amowCas (o : Am)
  /-- AMOW_ADDBND (R172): Atomically adds to a 4-byte word only within the bound in rd. -/
  | amowAddbnd (o : Am)
  /-- AMOW_FADD (R172): Atomically adds an fp32 value with RNE to a 4-byte word. -/
  | amowFadd (o : Am)
  /-- AMOD_SWAP (R172): Atomically swaps an 8-byte word. -/
  | amodSwap (o : Am)
  /-- AMOD_ADD (R172): Atomically adds to an 8-byte word. -/
  | amodAdd (o : Am)
  /-- AMOD_AND (R172): Atomically ands an 8-byte word. -/
  | amodAnd (o : Am)
  /-- AMOD_OR (R172): Atomically ors an 8-byte word. -/
  | amodOr (o : Am)
  /-- AMOD_XOR (R172): Atomically exclusive-ors an 8-byte word. -/
  | amodXor (o : Am)
  /-- AMOD_MIN (R172): Atomically keeps the signed minimum of an 8-byte word. -/
  | amodMin (o : Am)
  /-- AMOD_MAX (R172): Atomically keeps the signed maximum of an 8-byte word. -/
  | amodMax (o : Am)
  /-- AMOD_MINU (R172): Atomically keeps the unsigned minimum of an 8-byte word. -/
  | amodMinu (o : Am)
  /-- AMOD_MAXU (R172): Atomically keeps the unsigned maximum of an 8-byte word. -/
  | amodMaxu (o : Am)
  /-- AMOD_CAS (R172): Atomically compares an 8-byte word with rd and swaps on match. -/
  | amodCas (o : Am)
  /-- AMOD_ADDBND (R172): Atomically adds to an 8-byte word only within the bound in rd. -/
  | amodAddbnd (o : Am)
  /-- TAKE (R174): Takes a full scratchpad word leaving it empty, or parks on the deferred list. -/
  | take (o : R2)
  /-- PUT (R175): Puts a value into a scratchpad word or hands it to the oldest taker, as a release. -/
  | put (o : Rab)
  /-- TRYTAKE (R176): Takes a full word without parking and reports success in a register pair. -/
  | trytake (o : R2)
  /-- FEGET (R177): Reads the full/empty bit of a scratchpad word. -/
  | feget (o : R2)
  /-- FESET (R177): Sets the full/empty bit of a scratchpad word, acting as a PUT when takers wait. -/
  | feset (o : Rab)
  /-- FESET_REGISTER (R177): Makes register rd plain empty after any pending fill lands. -/
  | fesetRegister (o : Rd)
  /-- WAIT (R178): Parks until masked EVL bits are set, then returns and clears them. -/
  | wait (o : R2)
  /-- WAITA (R179): Parks until a memory word equals rb, reading with dev acquire. -/
  | waita (o : R3)
  /-- WAITNA (R179): Parks until a memory word differs from rb, reading with dev acquire. -/
  | waitna (o : R3)
  /-- IMASK (R180): Sets the arrival-interrupt mask count. -/
  | imask (o : Cnt)
  /-- FENCE_ACQ (R170): Makes the most recent load an acquire at the scope. -/
  | fenceAcq (o : Fn)
  /-- FENCE_REL (R170): Sets a release point for every later store at the scope. -/
  | fenceRel (o : Fn)
  /-- FENCE_AR (R170): Acts as FENCE.ACQ then FENCE.REL at the scope. -/
  | fenceAr (o : Fn)
  /-- FENCE_SC (R170): Acts as FENCE.AR and parks until earlier stores are visible, in one total order. -/
  | fenceSc (o : Fn)
  /-- TID (R114): Writes the identity of the executing thread. -/
  | tid (o : Rd)
  /-- START (R117): Starts a context from a launch record or its HELD image, START-owned. -/
  | start (o : R3)
  /-- REAP (R118): Frees a DONE or HELD context, parking for a START-owned thread to end. -/
  | reap (o : R2)
  /-- CTXPUT (R119): Writes an item of a context image, making a FREE context HELD. -/
  | ctxput (o : R3)
  /-- CTXGET (R119): Reads an item of a HELD or DONE context image, or the context state. -/
  | ctxget (o : R2)
  /-- FORK (R120): Pushes a continuation record and runs a child, or calls inline when the deque is full. -/
  | fork (o : R2)
  /-- RETF (R121): Ends a child: returns inline, resumes the parent, or decrements the join count and exits. -/
  | retf (o : Ra)
  /-- FWAIT (R122): Parks until the join count reads zero, with dev acquire. -/
  | fwait (o : Ra)
  /-- ENQ (R123): Places a launch record on a die ready queue, returning OK, FULL or BADREC. -/
  | enq (o : R2)
  /-- JOIN (R124): Joins a group record, updating SIZE, ONECORE and TWRS atomically. -/
  | join (o : R2)
  /-- LEAVE (R124): Leaves the group, decrementing SIZE and applying the release test. -/
  | leave (o : Rd)
  /-- BAR (R125): Arrives at the group barrier and parks until the release. -/
  | bar (o : Rd)
  /-- BARA (R125): Arrives at the group barrier and returns the target sense. -/
  | bara (o : Rd)
  /-- BARW (R125): Parks until the group record's SENSE equals the given value. -/
  | barw (o : Ra)
  /-- GLAZE (R342): Checks a glaze descriptor, takes a grid-table entry, zeroes the scoreboard and launches the grid. -/
  | glaze (o : R3)
  /-- GLSTAT (R343): Reads the state and group counts of a grid at its holding tower. -/
  | glstat (o : R2)
  /-- GLCANCEL (R344): Cancels a grid, dropping groups not running. -/
  | glcancel (o : R2)
  /-- CHNEW (R205): Creates a channel of the given depth and returns both end handles. -/
  | chnew (o : X3)
  /-- SEND (R206): Sends one word on a send end, consuming a credit, with k marking the packet end. -/
  | send (o : Snd)
  /-- RECV (R207): Reserves the next sequence number and leaves a register pair pending for the word. -/
  | recv (o : X2)
  /-- RPOLL (R208): Reports the words present and unreserved on a receive end. -/
  | rpoll (o : X2)
  /-- CHCLOSE (R209): Closes an end under the closure rules. -/
  | chclose (o : X2)
  /-- CHARM (R210): Writes an end's subscription word, latching events already due. -/
  | charm (o : X3)
  /-- CHDISARM (R210): Clears enable bits of an end's subscription word. -/
  | chdisarm (o : X3)
  /-- CHSTAT (R211): Reads an end's state word at its anchor. -/
  | chstat (o : X2)
  /-- VADD (R242): Adds vectors element-wise. -/
  | vadd (o : V3)
  /-- VSUB (R242): Subtracts vectors element-wise. -/
  | vsub (o : V3)
  /-- VMUL (R242): Multiplies vectors element-wise. -/
  | vmul (o : V3)
  /-- VFMA (R242): Fused multiply-adds vectors element-wise. -/
  | vfma (o : V4)
  /-- VDIV (R242): Divides vectors element-wise. -/
  | vdiv (o : V3)
  /-- VMIN (R242): Takes element-wise minima. -/
  | vmin (o : V3)
  /-- VMAX (R242): Takes element-wise maxima. -/
  | vmax (o : V3)
  /-- VABS (R242): Takes element-wise absolute values. -/
  | vabs (o : V2)
  /-- VNEG (R242): Negates elements. -/
  | vneg (o : V2)
  /-- VSQRT (R242): Takes element-wise square roots. -/
  | vsqrt (o : V2)
  /-- VRCP (R242): Takes correctly rounded element-wise reciprocals. -/
  | vrcp (o : V2)
  /-- VEXP2 (R242): Takes correctly rounded element-wise powers of two. -/
  | vexp2 (o : V2)
  /-- VADDS (R242): Adds integer elements with saturation. -/
  | vadds (o : V3)
  /-- VSUBS (R242): Subtracts integer elements with saturation. -/
  | vsubs (o : V3)
  /-- VMULHI (R242): Writes the high half of integer element products. -/
  | vmulhi (o : V3)
  /-- VSHL (R242): Shifts integer elements left. -/
  | vshl (o : V3)
  /-- VSHR (R242): Shifts integer elements right logically. -/
  | vshr (o : V3)
  /-- VSRA (R242): Shifts integer elements right arithmetically. -/
  | vsra (o : V3)
  /-- VAND (R242): Ands vectors bitwise. -/
  | vand (o : V3)
  /-- VOR (R242): Ors vectors bitwise. -/
  | vor (o : V3)
  /-- VXOR (R242): Exclusive-ors vectors bitwise. -/
  | vxor (o : V3)
  /-- VCMPEQ (R243): Writes a mask of element equality. -/
  | vcmpeq (o : V3)
  /-- VCMPLT (R243): Writes a mask of element less-than. -/
  | vcmplt (o : V3)
  /-- VCMPLE (R243): Writes a mask of element less-or-equal. -/
  | vcmple (o : V3)
  /-- VSEL (R243): Selects elements from two vectors by a mask stream. -/
  | vsel (o : V4)
  /-- VCVT (R245): Converts elements from the source stream's format to fmt. -/
  | vcvt (o : V2)
  /-- VPACK (R245): Narrows two source vectors into one destination vector. -/
  | vpack (o : V3)
  /-- VUNPACK (R245): Widens half of a source vector per step. -/
  | vunpack (o : V2)
  /-- VRADD (R246): Reduces a run by addition in the lane order. -/
  | vradd (o : V2)
  /-- VRMAX (R246): Reduces a run to its maximum. -/
  | vrmax (o : V2)
  /-- VRMIN (R246): Reduces a run to its minimum. -/
  | vrmin (o : V2)
  /-- VSACC (R247): Adds scaled i32 values into fp32 accumulators with one RNE rounding. -/
  | vsacc (o : Va)
  /-- VXACC (R248): Adds exact terms c times 2^e into x128 accumulators with saturation. -/
  | vxacc (o : Va)
  /-- VXCVT (R249): Converts x128 values to fp32 with RNE. -/
  | vxcvt (o : Vx)
  /-- VCOPY (R244): Copies elements unchanged. -/
  | vcopy (o : V2)
  /-- VPERM (R244): Permutes elements of one vector by indices from another. -/
  | vperm (o : V3)
  /-- STRREW (R251): Rewinds a stream to position 0. -/
  | strrew (o : Fn)
  /-- STRADV (R252): Advances a stream by n vectors without delivering them. -/
  | stradv (o : Sg)
  /-- VSPLAT (R253): Fills the rest of a stream's run with a register value as a vector instruction. -/
  | vsplat (o : Sg)
  /-- TBIND (R272): Binds the tile engine, parking until it is free. -/
  | tbind (o : Rd)
  /-- TFREE (R273): Releases the tile engine once its queue is empty. -/
  | tfree (o : Rd)
  /-- TMMA (R274): Queues K K-steps into an accumulator, leaving rd pending for the reply. -/
  | tmma (o : R3)
  /-- TZERO (R275): Sets an accumulator to the semiring identity. -/
  | tzero (o : Ra)
  /-- TLOAD (R276): Loads an accumulator from a 4 KiB scratchpad image. -/
  | tload (o : Rab)
  /-- TSTORE (R276): Stores an accumulator to a 4 KiB scratchpad image. -/
  | tstore (o : Rab)
  /-- TWAIT (R277): Parks until an accumulator is FULL and returns the engine status. -/
  | twait (o : R2)
  /-- TPEEK (R278): Writes an accumulator's value at a K-step boundary to scratchpad. -/
  | tpeek (o : R3)
  /-- RINGPUSH (R279): Advances a ring's tail by n slots as a release. -/
  | ringpush (o : R3)
  /-- RINGPOP (R279): Advances a ring's head by n slots as a release. -/
  | ringpop (o : R3)
  /-- CPGO (R295): Starts a copy from the staged descriptor and returns its ticket. -/
  | cpgo (o : R3)
  /-- CPSTAT (R296): Reports the state of a live copy by ticket. -/
  | cpstat (o : R2)
  /-- CPABORT (R297): Stops a live copy and parks until it has stopped. -/
  | cpabort (o : R2)
  /-- L2PF (R151): Records a prefetch range hint and completes at issue. -/
  | l2pf (o : Rab)
  /-- L2DISC (R152): Invalidates every copy of each line of a range without write-back. -/
  | l2disc (o : R3)
  /-- L2ZERO (R152): Makes each line of a range a zero line. -/
  | l2zero (o : R3)
  /-- CFLUSH (R152): Writes dirty lines of a range back to DRAM. -/
  | cflush (o : R3)
  /-- TLBINV (R153): Removes translations device-wide and parks until no access uses them. -/
  | tlbinv (o : R3)
  /-- SRR (R317): Reads a system register. -/
  | srr (o : Srd)
  /-- SRW (R305): Writes a system register under its write rules. -/
  | srw (o : Swr)
  /-- SRS (R305): Sets bits of a system register. -/
  | srs (o : Swr)
  /-- SRC (R305): Clears bits of a system register. -/
  | src (o : Swr)
  /-- REPART (R95): Changes the core's register-count mode when contexts are idle, returning a status. -/
  | repart (o : R2)
  /-- CARVE (R319): Requests a new L1 size, at once or at a group's next release. -/
  | carve (o : R3)
  /-- PREEMPT (R320): Saves a target context or stops a grid, parking for the answer. -/
  | preempt (o : R3)
  /-- RESUME (R321): Resumes a frame, grid, stopped thread or paused copy. -/
  | resume (o : R3)
  /-- STRSET (R254): Writes a stream field, refusing bad values and rewinding on non-pos writes. -/
  | strset (o : Fld)
  /-- STRGET (R254): Reads a stream field. -/
  | strget (o : Fld)
  /-- TSET (R280): Writes a tile-engine setting, binder only. -/
  | tset (o : Fone)
  /-- TGET (R280): Reads a tile-engine setting, status or step count. -/
  | tget (o : Fone)
  /-- RINGSET (R281): Writes a ring field unless the ring is in use. -/
  | ringset (o : Fld)
  /-- RINGGET (R281): Reads a ring field. -/
  | ringget (o : Fld)
  /-- CPSET (R298): Writes a field of the staged copy descriptor. -/
  | cpset (o : Fone)
  /-- CPGET (R298): Reads a field of the staged copy descriptor. -/
  | cpget (o : Fone)
  /-- ILLEGAL_WORD (R30): A fetched word that names no instruction (major opcode 0x00, 0x30–0x3F, an unlisted function code or a non-zero must-be-zero field) raises ILL. -/
  | illegalWord (w : BitVec 32)
  /-- FETCH_WORD_ARRIVAL (R20): A missed instruction word arrives and the parked thread may issue it. -/
  | fetchWordArrival (core : Nat) (ctx : Nat)
  /-- PARKED_REEXECUTE (R21): A park reason clears and the parked instruction re-executes from step 1. -/
  | parkedReexecute (core : Nat) (ctx : Nat)
  /-- LONG_LATENCY_FILL (R65): A divide or square-root result fills its pending register and ORs its flags. -/
  | longLatencyFill (core : Nat) (ctx : Nat)
  /-- LOAD_DATA_ARRIVAL (R148): Data for a parked load arrives and fills rd. -/
  | loadDataArrival (core : Nat) (ctx : Nat) (fromL1 : Bool)
  /-- YIELD_HOLD_EXPIRY (R116): The 16-clock hold-back of a YIELD ends and the context becomes eligible. -/
  | yieldHoldExpiry (core : Nat) (ctx : Nat)
  /-- ENGINE_DEFERRED_TRAP (R231): After an uncorrectable error in an engine read, the thread takes ENGINE at its next boundary. -/
  | engineDeferredTrap (core : Nat) (ctx : Nat)
  /-- ARRIVAL_INTERRUPT_ENTRY (R200): A due arrival interrupt is taken at a boundary, switching to the shadow bank and IVEC. -/
  | arrivalInterruptEntry (core : Nat) (ctx : Nat)
  /-- DISPATCH_FILL (R96): The dispatcher fills a FREE context from the deque, die ready queue, a theft or a steal request. -/
  | dispatchFill (core : Nat) (bank0 : Nat) (bank1 : Nat) (victim : Nat)
  /-- DISPATCH_RETRY_EXPIRY (R96): The 256-clock retry interval of an idle dispatcher expires. -/
  | dispatchRetryExpiry (core : Nat)
  /-- STEAL_REQUEST_RECEIVE (R96): A tower answers a steal request with one record or none. -/
  | stealRequestReceive (core : Nat) (victim : Nat)
  /-- STEAL_ANSWER_RECEIVE (R96): A steal answer arrives and its record starts or goes to the die ready queue. -/
  | stealAnswerReceive (core : Nat)
  /-- BARRIER_ARRIVAL_AT_HOME (R109): A core's arrival atomic is applied at the group record and may release the phase. -/
  | barrierArrivalAtHome (n : Nat)
  /-- BARRIER_WAKE (R112): A performed release wakes the members waiting for that phase. -/
  | barrierWake (core : Nat) (ctx : Nat)
  /-- FWAIT_WAKE (R122): A join count performed as zero wakes a parked FWAIT. -/
  | fwaitWake (core : Nat) (ctx : Nat)
  /-- WRITE_BUFFER_DRAIN (R134): The oldest entry of a write-buffer bank drains to its slice. -/
  | writeBufferDrain (core : Nat) (bank : Nat)
  /-- OUTBOUND_DELIVERY (R135): The outbound buffer delivers a queued store to its destination tower. -/
  | outboundDelivery (tower : Nat) (dest : Nat)
  /-- PAGE_WALK (R141): A walker completes a page-table walk and fills the translation or faults. -/
  | pageWalk (core : Nat) (ctx : Nat)
  /-- PREFETCH_PROGRESS (R151): A prefetch range brings its next line into the tower with a read token. -/
  | prefetchProgress (core : Nat)
  /-- ESCALATION_DRAIN_REQUEST (R406): A releasing tower drains a core's write buffer and the outbound buffer up to a release mark. -/
  | escalationDrainRequest (n : Nat)
  /-- ESCALATION_ANSWER (R406): The drain answer arrives and the acquiring thread's acquire completes. -/
  | escalationAnswer (n : Nat)
  /-- ATOMIC_AT_HOME (R166): An atomic is applied indivisibly at its home or owner atomic unit. -/
  | atomicAtHome (n : Nat)
  /-- ATOMIC_REPLY_FILL (R172): An atomic's reply fills its pending rd. -/
  | atomicReplyFill (n : Nat)
  /-- FE_OP_AT_OWNER (R168): A TAKE, PUT, TRYTAKE or FESET is performed at the owner core's unit. -/
  | feOpAtOwner (n : Nat)
  /-- FE_RESULT_FILL (R168): The second leg fills the register that receives a full/empty result or hand-off. -/
  | feResultFill (n : Nat)
  /-- TAKE_RETRY_EXPIRY (R168): A TAKE that found the deferred list full re-executes after 64 clocks. -/
  | takeRetryExpiry (core : Nat) (ctx : Nat)
  /-- WAITA_REREAD (R179): A write to a watched line triggers a re-read of a WAITA or WAITNA word. -/
  | waitaReread (core : Nat) (ctx : Nat)
  /-- WAIT_WAKE (R178): A latched event satisfies a parked WAIT. -/
  | waitWake (core : Nat) (ctx : Nat)
  /-- CHANNEL_WORD_DELIVERY (R189): A sent or forwarded word lands in its slot of the receive buffer. -/
  | channelWordDelivery (chan : Nat) (n : Nat)
  /-- RECV_FILL (R207): A present word or closed status fills a pending RECV pair. -/
  | recvFill (chan : Nat)
  /-- CREDIT_BATCH_RECEIVE (R187): A batch of credits reaches the send end's core or the anchor. -/
  | creditBatchReceive (chan : Nat)
  /-- CHNEW_REPLY (R205): The anchor's answer fills the CHNEW register pair. -/
  | chnewReply (core : Nat) (ctx : Nat)
  /-- CHSTAT_REPLY (R211): The state word read at the anchor fills the CHSTAT destination. -/
  | chstatReply (core : Nat) (ctx : Nat)
  /-- MOVE_REQUEST (R191): The anchor records a receive end's new core and sends a forward order. -/
  | moveRequest (chan : Nat)
  /-- FORWARD_ORDER (R191): The old core starts forwarding buffered words and frees its slot blocks. -/
  | forwardOrder (chan : Nat)
  /-- RETARGET (R191): The send end's core switches to the new receive core and answers its send counter. -/
  | retarget (chan : Nat)
  /-- RETARGET_ANSWER (R191): The anchor passes the send counter to the old core for ending forwarding. -/
  | retargetAnswer (chan : Nat)
  /-- RELOCATION_COMPLETE (R191): The anchor marks a relocation complete once the forwarding entry is freed. -/
  | relocationComplete (chan : Nat)
  /-- SEND_STATE_FLUSH (R192): A carried send end's state is flushed to its anchor. -/
  | sendStateFlush (chan : Nat)
  /-- SEND_STATE_FETCH_REPLY (R192): The send end's state arrives at the new holder's core and its relocation completes. -/
  | sendStateFetchReply (chan : Nat)
  /-- CLOSURE_AT_ANCHOR (R194): A closure reaches the anchor and takes effect with discards and closed fills. -/
  | closureAtAnchor (n : Nat)
  /-- DEADLOCK_PROBE_START (R201): A thread parked on a channel wait for the probe interval starts a probe. -/
  | deadlockProbeStart (core : Nat) (ctx : Nat)
  /-- PROBE_HOP (R201): A probe reaches a core and is forwarded, dropped or found to return to its origin. -/
  | probeHop (n : Nat)
  /-- PEER_UNREACHABLE (R202): The transport reports a peer unreachable and its channels close locally. -/
  | peerUnreachable (peer : Nat)
  /-- VECTOR_EXECUTION_START (R230): The vector unit begins the next accepted instruction. -/
  | vectorExecutionStart (core : Nat)
  /-- VECTOR_COMPLETION (R230): A vector instruction's last write is performed, its ring advances made and its flags ORed. -/
  | vectorCompletion (core : Nat)
  /-- KSTEP_LOAD_START (R262): A K-step begins loading once its rings hold enough occupied slots. -/
  | kstepLoadStart (core : Nat)
  /-- KSTEP_COMPLETE (R262): A K-step's computation ends and its slots are popped. -/
  | kstepComplete (core : Nat)
  /-- TMMA_RETIRE (R263): A TMMA's last K-step completes, the accumulator becomes FULL and the reply fills. -/
  | tmmaRetire (core : Nat)
  /-- COPY_RUN (R287): The copy engine works the next copy in acceptance order. -/
  | copyRun (core : Nat)
  /-- COPY_COMPLETION (R291): A copy makes its payload visible, its ring advances and its completion store. -/
  | copyCompletion (core : Nat) (ticket : Nat)
  /-- FAULT_RECORD_DEFERRED_POST (R307): A waiting record is posted once GET advances. -/
  | faultRecordDeferredPost (n : Nat)
  /-- CONTEXT_SAVE (R311): A thread's frame is written to the save area and the context becomes FREE. -/
  | contextSave (n : Nat)
  /-- PACKET_WAIT_EXPIRY (R309): A save's 10 µs wait for an open packet ends, withdrawing or forcing the save. -/
  | packetWaitExpiry (n : Nat)
  /-- DEFERRED_SAVE_RETRY (R311): A freed frame lets a deferred save be retried. -/
  | deferredSaveRetry (n : Nat)
  /-- CONTEXT_RESTORE (R312): A frame is read into a context, deque records pushed, group rejoined and ends relocated. -/
  | contextRestore (core : Nat) (n : Nat)
  /-- GROUP_OFFER_TIMEOUT (R333): After 200 ns a wavefront group is offered to cores other than its predecessor's. -/
  | groupOfferTimeout (tower : Nat) (slot : Nat) (group : Nat)
  /-- GROUP_RETIREMENT (R331): A group's last member exits, its scoreboard bit is set and successors are tested. -/
  | groupRetirement (tower : Nat) (slot : Nat) (group : Nat)
  /-- GRID_COMPLETION_STORE (R337): After draining its sets, an ended grid stores its completion value at sys scope. -/
  | gridCompletionStore (tower : Nat) (slot : Nat)
  /-- TREQ_RECEIVE (R354): A holder answers a transient token request. -/
  | treqReceive (n : Nat)
  /-- TOK_RECEIVE (R351): Tokens, with data or zero flag, reach a requester, home or controller. -/
  | tokReceive (n : Nat)
  /-- DMARK_RECEIVE (R348): The controller sets HD for a line the home has first written. -/
  | dmarkReceive (n : Nat)
  /-- TREQ_TIMEOUT (R354): A transient request fails after 1,000 ns, leading to a second TREQ or a PREQ. -/
  | treqTimeout (tower : Nat) (line : Nat)
  /-- PREQ_RECEIVE (R356): A weir places a persistent request in an entry or its FIFO. -/
  | preqReceive (n : Nat)
  /-- PACT_RECEIVE (R356): A recipient activates a persistent request and sends its tokens. -/
  | pactReceive (n : Nat)
  /-- PDEACT_RECEIVE (R356): A recipient deactivates a persistent request. -/
  | pdeactReceive (n : Nat)
  /-- PACK_RECEIVE (R356): The weir counts an acknowledgement of PACT or PDEACT. -/
  | packReceive (n : Nat)
  /-- PDONE_RECEIVE (R356): The weir learns the requester is done and sends PDEACT. -/
  | pdoneReceive (n : Nat)
  /-- CENSUS_RECEIVE (R367): A recipient of a census sends all its tokens of the line to the census maker. -/
  | censusReceive (n : Nat)
  /-- CENSUS_SCAN (R367): The background scan reaches DRAM lines that still need a census. -/
  | censusScan (tower : Nat) (line : Nat)
  /-- FLIT_RESEND (R352): A flit received with a CRC error is resent from the retry buffer. -/
  | flitResend (tower : Nat) (link : Nat) (bad : Bool)
  /-- LINK_FAILURE (R352): A link fails after 16 failed resends and traffic is rerouted. -/
  | linkFailure (tower : Nat) (link : Nat)
  /-- CHECKPOINT_INTERVAL_EXPIRY (R362): A guarded tower's checkpoint interval expires. -/
  | checkpointIntervalExpiry (tower : Nat)
  /-- CHECKPOINT_STORED (R360): The buddy commits a checkpoint, held messages are released and a record is posted. -/
  | checkpointStored (tower : Nat) (outcome : Nat)
  /-- BEFORE_IMAGE_COPY (R361): A page's content at the cut is copied to the undo region before its first change. -/
  | beforeImageCopy (tower : Nat) (page : Nat)
  /-- TOWER_RESET_TRIGGER (R365): Isolation, an internal error or a request resets a tower. -/
  | towerResetTrigger (tower : Nat) (trigger : Nat)
  /-- RMA_WRITE (R372): An RMA write through a window is performed as sys-scope stores ending with a release. -/
  | rmaWrite (m : RmaMsg)
  /-- RMA_WRITE_ACK (R372): An acknowledgement is sent once every unit of a message is performed. -/
  | rmaWriteAck (n : Nat)
  /-- RMA_READ (R372): An RMA read is performed as sys-scope loads, the first an acquire. -/
  | rmaRead (m : RmaMsg)
  /-- UNSUPPORTED_REQUEST (R371): A request using an omitted transport part receives an unsupported-operation error. -/
  | unsupportedRequest (m : RmaMsg)
  /-- OPEN (R374): Opens a basin with beds, way mask, fault queue and virtual tower map. -/
  | openReq (q : Req)
  /-- CLOSE (R374): Resets a basin and frees every bed and resource. -/
  | closeReq (q : Req)
  /-- RESET (R374): Performs a function-level reset of a basin and restarts its runtime. -/
  | resetReq (q : Req)
  /-- REGISTER (R374): Creates an RMA window and returns its memory key. -/
  | registerReq (q : Req)
  /-- DEREGISTER (R374): Refuses a memory key from then on. -/
  | deregisterReq (q : Req)
  /-- MAPQ (R374): Maps or restarts a user queue on an easel. -/
  | mapqReq (q : Req)
  /-- FREEQ (R374): Unmaps and frees a user queue. -/
  | freeqReq (q : Req)
  /-- MAP (R374): Allocates or unmaps pages in a basin's page table. -/
  | mapReq (q : Req)
  /-- LOAD (R374): Loads an object image and returns its global symbols. -/
  | loadReq (q : Req)
  /-- LAUNCH (R374): Places one launch record as an easel would. -/
  | launchReq (q : Req)
  /-- GUARD (R374): Sets guarded mode on a basin's towers. -/
  | guardReq (q : Req)
  /-- CHECKPOINT (R374): Requests a checkpoint of each guarded tower of the basin. -/
  | checkpointReq (q : Req)
  /-- ATTEST (R400): Returns an attestation report signed with the identity key. -/
  | attestReq (q : Req)
  /-- PEER (R374): Binds a peer device for cross-device ends. -/
  | peerReq (q : Req)
  /-- TARGET (R374): Sets a basin's completion target, bed limits and age quantum. -/
  | targetReq (q : Req)
  /-- UPDATE (R401): Writes a verified atelier image or configuration record to flash. -/
  | updateReq (q : Req)
  /-- EASEL_TAIL_NOTIFY (R379): A performed TAIL store reaches the queue's easel, stopping the queue on a bad tail. -/
  | easelTailNotify (easel : Nat)
  /-- EASEL_DISPATCH (R379): The winning easel reads record HEAD and places, launches or drops it. -/
  | easelDispatch (die : Nat)
  /-- EASEL_HOLDBACK_EXPIRY (R379): An easel held back after FULL may compete again after 256 slots. -/
  | easelHoldbackExpiry (easel : Nat)
  /-- QUEUE_REMAP (R383): A TAIL store to an unmapped queue makes the atelier remap it. -/
  | queueRemap (que : Nat)
  /-- BED_MOVE_GRACE_EXPIRY (R388): A bed move's 1 ms grace ends and remaining contexts are saved. -/
  | bedMoveGraceExpiry (tower : Nat) (bed : Nat)
  /-- BED_MOVE_FINISH (R388): Once the bed is empty, frames are spilled, records placed, the bed cleaned and the recipient started. -/
  | bedMoveFinish (tower : Nat) (bed : Nat)
  /-- GUARDCTL_WRITE (R392): Sets or clears guarded mode and its interval for a tower. -/
  | guardctlWrite (tower : Nat) (v : Word)
  /-- CKPTREQ_WRITE (R392): A write of 1 requests a checkpoint of a guarded tower. -/
  | ckptreqWrite (tower : Nat) (v : Word)
  /-- RESETREQ_WRITE (R392): A write of the key value requests a tower reset. -/
  | resetreqWrite (tower : Nat) (v : Word)
  /-- BEDCTL_WRITE (R392): Starts a move of a bed to a basin or cleans an unassigned bed. -/
  | bedctlWrite (tower : Nat) (bed : Nat) (v : Word)
  /-- PTROOT_WRITE (R393): Writes a basin's page-table root unless the basin is open. -/
  | ptrootWrite (basin : Nat) (v : Word)
  /-- VTMAP_WRITE (R393): Writes a basin's virtual tower map unless open or invalid. -/
  | vtmapWrite (basin : Nat) (v : Word)
  /-- WAYMASK_WRITE (R386): Changes a basin's way mask from the next allocation. -/
  | waymaskWrite (basin : Nat) (v : Word)
  /-- QUANTUM_WRITE (R393): Sets a basin's age quantum, ignoring out-of-range values. -/
  | quantumWrite (basin : Nat) (v : Word)
  /-- ECTL_WRITE (R394): Maps or stops an easel on its queue. -/
  | ectlWrite (easel : Nat) (v : Word)
  /-- DEVICE_REGISTER_WRITE (R391): Writes a device register with no behaviour of its own. -/
  | deviceRegisterWrite (addr : Nat) (size : Nat) (v : Word)
  /-- VOLTAGE_DERATE (R402): An input voltage in a derating band caps the module at typical power. -/
  | voltageDerate (mv : Nat)
  /-- VOLTAGE_POWER_OFF (R402): An input voltage outside 45–57 V powers the module off. -/
  | voltagePowerOff (mv : Nat)
  /-- THERMAL_HOLD (R403): A compute die above 105 °C makes the atelier hold issue. -/
  | thermalHold (tower : Nat) (celsius : Nat)
  /-- THERMAL_RELEASE (R403): A held die that reads 100 °C resumes issue. -/
  | thermalRelease (tower : Nat) (celsius : Nat)
  /-- REMOTE_WINDOW_ACCESS (R129): A load or store from another core through a remote or physical scratchpad window arrives at the owner core and is performed on its second port. -/
  | remoteWindowAccess (n : Nat)
  /-- QUEUE_IDLE_EXPIRY (R383): A mapped queue with HEAD = TAIL reaches 100 µs without a TAIL store while another queue waits for an easel, so its easel is taken and the waiting queue remapped. -/
  | queueIdleExpiry (que : Nat)
  /-- INPUT_VOLTAGE_NORMAL (R402): The DC input returns from a derating band into 48–54 V and the atelier lifts the cap at typical power. -/
  | inputVoltageNormal (mv : Nat)
  /-- IUNMASK (R180): Clears the arrival-interrupt mask count. -/
  | iunmask
  /-- IRET (R181): Returns from an arrival-interrupt handler to IEPC and restores the main register bank. -/
  | iret
  /-- EXIT (R115): Ends the thread after draining, closing its ends, leaving its group and freeing the tile engine. -/
  | exit
  /-- YIELD (R116): Makes the context ineligible for issue for 16 clocks. -/
  | yield
  /-- TRAP (R315): Raises SYSCALL. -/
  | trap
  /-- ERET (R316): Returns from a trap to EPC in the mode in PMODE. -/
  | eret
  /-- BREAK (R315): Raises BREAK. -/
  | breakI
  /-- HALT (R322): Stops the executing context until resumed or restored. -/
  | halt
  /-- PARTITION_EVALUATION (R387): Every 100 µs the partition controller may start one bed move per tower. -/
  | partitionEvaluation
  /-- POWER_ON_BOOT (R396): At power-on the boot ROM verifies the record and image, sets CAPS and starts the atelier cores. -/
  | powerOnBoot
  deriving DecidableEq, Repr

end Sys2Proof
end

