-- ==== Sys2Proof/Machine/State.lean ====
section
/-! DEFINITION. The state of the whole part as plain data (R4 to R11), the faults and refusals a step can end in,
and the state at power-on. Sparse collections are sorted lists of number and value (FMap); what a list does not name
stands at its default. -/

namespace Sys2Proof.Machine

/-- A sparse collection by number, sorted, each number at most once. -/
abbrev FMap (α : Type) := List (Nat × α)

/-- The value at number k, or d where none is listed. -/
def fget {α : Type} (d : α) : FMap α → Nat → α
  | [], _ => d
  | (j, v) :: r, k => if j = k then v else fget d r k

/-- Write the value at number k, keeping the order. -/
def fset {α : Type} : FMap α → Nat → α → FMap α
  | [], k, v => [(k, v)]
  | (j, w) :: r, k, v => if k < j then (k, v) :: (j, w) :: r else if k = j then (k, v) :: r else (j, w) :: fset r k v

/-- Remove number k. -/
def fdel {α : Type} : FMap α → Nat → FMap α
  | [], _ => []
  | (j, w) :: r, k => if j = k then r else (j, w) :: fdel r k

/-- The value listed at number k, if any. -/
def flook {α : Type} : FMap α → Nat → Option α
  | [], _ => none
  | (j, v) :: r, k => if j = k then some v else flook r k

/-! ### Contexts -/

/-- The mode of a thread (R299). -/
inductive Mode where
  | u | s | m
  deriving DecidableEq, Repr

/-- The number of a mode (R303 MODE): 0 U, 1 S, 3 M. -/
def Mode.code : Mode → Nat
  | .u => 0
  | .s => 1
  | .m => 3

/-- The mode of a number; 2 is never written (R304). -/
def Mode.ofCode : Nat → Mode
  | 0 => .u
  | 1 => .s
  | _ => .m

/-- The state of a context (R93). -/
inductive Phase where
  | free | held | run | done
  deriving DecidableEq, Repr

/-- The state of a general register (R39). -/
inductive RegSt where
  | full | pending | empty
  deriving DecidableEq, Repr

/-- What a register filled by RECV or TAKE still has to acquire before it is read (R163, R406): the releasing core
its release mark, and whether the edge is of sys scope whatever the cores (R203). -/
structure Acq where
  core : Nat
  mark : Nat
  sys : Bool
  deriving DecidableEq, Repr

/-- A general register: value, full/empty state, tag (R36 to R40), and the acquire its next reader makes (R163). -/
structure GReg where
  val : Word
  st : RegSt
  tag : Bool
  acq : Option Acq
  deriving DecidableEq, Repr

/-- A register that reads 0, full, untagged. -/
def GReg.zero : GReg := ⟨0, .full, false, none⟩

/-- A stream descriptor (R232): base, mode, the extents, the strides and the position. -/
structure Stream where
  base : Word
  mode : Word
  ext : Vector Nat 5
  stride : Vector Word 5
  pos : Nat
  deriving DecidableEq, Repr

/-- What an access is, for the permission check of R145. -/
inductive Access where
  | fetch | load | store | atomic
  deriving DecidableEq, Repr

/-- A load in progress (R148): where it reads, how wide, how it extends, and what it writes. The tags travel only for
LD and LQ on the core's own scratchpad (R132). JT's entry read is a load whose result is the jump (R81). -/
structure LoadOp where
  addr : Nat
  vault : Bool
  size : Nat
  signed : Bool
  rd : RegNo
  pair : Bool
  scope : Nat
  acquire : Bool
  table : Option Word
  deriving DecidableEq, Repr

/-- Why a context does not issue (R1 park, step 7 of R21). -/
inductive Park where
  /-- Empty sources, as (shadow bank, register) pairs (step 7 of R21). -/
  | regs (l : List (Bool × Nat))
  /-- Pending destinations, likewise. -/
  | dests (l : List (Bool × Nat))
  /-- Waiting for the word at the PC (R20). -/
  | fetch
  /-- A translation of this address for this access is being walked (R141, R144); the cause a page fault takes. -/
  | walk (va : Word) (acc : Access) (cause : Nat)
  /-- A load whose data has not arrived (R148). -/
  | load (op : LoadOp)
  /-- A load or store through a window, performed at its owner core (R129); the operation's number. -/
  | remote (id : Nat)
  /-- A load that overlaps another context's die, dev or sys bytes in the write buffer (R158). -/
  | overlap (addr size : Nat)
  /-- The write-buffer bank is full (R134). -/
  | bankFull (bank : Nat)
  /-- Vector instructions are outstanding (R148). -/
  | vectorDrain
  /-- Scoped atomics of the thread have not replied (R160). -/
  | scopedOrder
  /-- Stores up to a mark are not yet visible at a scope (R161). -/
  | drain (scope mark : Nat)
  /-- A store to this line is to drain before an atomic or a line operation (R166, R152). -/
  | lineDrain (line : Nat)
  /-- An acquire waits for the escalation with this number (R406). -/
  | escalation (id : Nat)
  /-- An atomic with ord waits for its reply (R172); the operation's number. -/
  | atomic (id : Nat)
  /-- A full/empty operation is on its way (R168); the operation's number. -/
  | feOp (id : Nat)
  /-- A TAKE in the deferred list of an owner core (R168). -/
  | takeDeferred (owner off : Nat)
  /-- A TAKE that found the deferred list of an owner core full (R168). -/
  | takeRetry (owner off : Nat)
  /-- A PUT to a full word (R168): physical address of the word. -/
  | putFull (addr : Nat)
  /-- WAIT (R178): the event mask. -/
  | wait (mask : Word)
  /-- WAITA (eq) or WAITNA (R179): the word, the value, the destination. -/
  | waita (addr : Nat) (eq : Bool) (value : Word)
  /-- FPCTL is busy (R66, R216). -/
  | fpctl
  /-- EXIT waits for outstanding work (R115). -/
  | exitDrain
  /-- Context 0 after EXIT (R115). -/
  | exitZero
  /-- REAP of a running START-owned context (R118). -/
  | reap (k : Nat)
  /-- FWAIT (R122): physical address of the count. -/
  | fwait (addr : Nat)
  /-- BAR, BARW, BARA or LEAVE waits for a phase (R109, R124, R125): the record, the sense awaited, and whether it
  waits in BAR or BARW (R111). -/
  | barrier (record : Nat) (sense bar : Bool)
  /-- A SEND without a credit (R206). -/
  | credit (chan : Nat)
  /-- A ninth RECV on an end (R207). -/
  | recvFull (chan : Nat)
  /-- A send end whose state has not arrived (R192). -/
  | relocation (chan : Nat)
  /-- TBIND waits for the engine (R255). -/
  | tile
  /-- TMMA waits for room in the queue (full), TFREE and EXIT for the queue to empty (R263, R273, R274). -/
  | tileQueue (full : Bool)
  /-- An accumulator that is not FULL (R264). -/
  | accumulator (n : Nat)
  /-- TPEEK waits for the next K-step of an EMPTY accumulator (R278): the offset of the image, and rd. -/
  | peek (n off : Nat) (rd : RegNo)
  /-- A vector instruction waits for room in the queue, for ring slots or for order (R229, R237). -/
  | vector
  /-- CPGO waits for a slot or for the copy engine (R295). -/
  | copyQueue
  /-- CPABORT waits for a copy to stop (R297); the ticket and rd. -/
  | copy (ticket : Nat) (rd : RegNo)
  /-- PREEMPT or RESUME waits for the answer (R320, R321); the request's number. -/
  | answer (id : Nat)
  /-- TLBINV waits for every access made before it, up to a mark and a time (R153). -/
  | tlbinv (mark time : Nat)
  /-- A line operation waits for the line's tokens at its home slice (R152, R353). -/
  | lineTokens (line home : Nat)
  /-- The restore of a frame (R312): its identity. -/
  | restore (id : Nat)
  deriving DecidableEq, Repr

/-- Why a RUN context issues nothing until something from outside ends the stop. -/
inductive Stop where
  /-- An S-mode page fault that was posted (R300). -/
  | fault
  /-- HALT (R322). -/
  | halted
  /-- A double trap whose thread is being saved (R301): cause and TVAL. -/
  | double (cause : Nat) (tval : Word)
  /-- Context 0 halted by a double trap (R301). -/
  | dead
  /-- Issue is stopped for a save in progress (R309). -/
  | saving
  /-- The core's software has not been started (R396) or its tower is under reset (R365). -/
  | unborn
  deriving DecidableEq, Repr

/-- A long-latency result on its way (R65): the register it fills (none for g0), the bank, value and flags; for GLSTAT, the
value that names its grid and the basin (R343). -/
structure Fill where
  shadow : Bool
  reg : Nat
  val : Word
  flags : BitVec 6
  fp : Bool
  grid : Option (Word × Nat)
  deriving DecidableEq, Repr

/-- Membership of a group (R108): the record's address as JOIN named it, its physical address and the placement of its page
(R137), whether the member has arrived and whether its core has sent the arrival, the sense that its phase's release produces,
and the PC of a BAR that has arrived and waits (R309). -/
structure Member where
  va : Word
  record : Nat
  vault : Bool
  arrived : Bool
  sent : Bool
  target : Bool
  bar : Option Word
  deriving DecidableEq, Repr

/-- A trap the part has deferred to a boundary (R231, R268, R310): cause, TVAL, EPC. -/
structure Deferred where
  cause : Nat
  tval : Word
  epc : Word
  deriving DecidableEq, Repr

/-- A release point of a fence (R161, R170): the scope and the mark of the stores before it; or of a barrier arrival (R110), which
is a release itself and holds every later store at its own scope (`whole`). -/
structure FencePoint where
  scope : Nat
  mark : Nat
  whole : Bool
  deriving DecidableEq, Repr

/-- A hardware context (R93, R303 context registers). `inval` is the time at which a TLBINV removed its translations (R153);
`acqs` are the acquires a started thread's first instruction makes (R163); `counted` says that its end is a completion of its
basin (R387); `void` are the pending registers that a REPART has given up: their fill leaves 0 (R39, R95). -/
structure Ctx where
  phase : Phase
  owned : Bool
  pc : Word
  mode : Mode
  regs : Vector GReg 64
  shadow : Vector GReg 8
  evl : Word
  ivec : Word
  iepc : Word
  fpctl : Word
  pmode : BitVec 2
  th : Bool
  ih : Bool
  icount : BitVec 6
  cause : BitVec 8
  epc : Word
  tval : Word
  scratch : Word
  streams : Vector Stream 8
  desc : Vector Word 11
  park : Option Park
  stop : Option Stop
  yieldHold : Bool
  fetched : Option (Word × BitVec 32)
  fills : List Fill
  group : Option Member
  grid : Option (Nat × Nat)
  deferred : List Deferred
  relMark : Option Nat
  fences : List FencePoint
  lastLoad : Option Nat
  parkTime : Nat
  range : Option (Nat × RegNo)
  inval : Option Nat
  acqs : List Acq
  counted : Bool
  void : List Nat
  deriving DecidableEq, Repr

/-! ### The core's memory structures -/

/-- A buffered byte of a store (R134, R158): its offset in the line, value, scope, global context, stamp, and the basin of
the core that stored it (64 on an unassigned bed), in whose ways it allocates (R386). -/
structure WByte where
  off : Nat
  val : Byte
  scope : Nat
  gctx : Nat
  stamp : Nat
  basin : Nat
  deriving DecidableEq, Repr

/-- An entry of a write buffer or of an outbound buffer: one 128-byte line and its buffered bytes, newest last, and the
stamp of its issue as a message (R362), 0 in a write buffer. -/
structure WEntry where
  line : Nat
  home : Nat
  slice : Nat
  bytes : List WByte
  sent : Nat
  deriving DecidableEq, Repr

/-- A translation held by a TLB or a translation cache (R142, R144): basin, base address and size (log2) of the
page, its physical base and the entry's U, X, W, R and PL bits. -/
structure Xlat where
  basin : Nat
  vbase : Nat
  bits : Nat
  pbase : Nat
  user : Bool
  exec : Bool
  write : Bool
  read : Bool
  vault : Bool
  deriving DecidableEq, Repr

/-- A prefetch range (R151): the next line, the lines left, the context it was issued by (mode and basin). -/
structure Prefetch where
  va : Word
  left : Nat
  mode : Mode
  basin : Nat
  deriving DecidableEq, Repr

/-- A parked taker of a full/empty word (R168): the word's offset, the taker and its destination. -/
structure Taker where
  off : Nat
  core : Nat
  ctx : Nat
  rd : RegNo
  deriving DecidableEq, Repr

/-- A ring of a core (R282): base, slot size, slot count, and head and tail with their phase bits (R283). -/
structure Ring where
  base : Nat
  size : Nat
  slots : Nat
  head : Nat
  tail : Nat
  deriving DecidableEq, Repr

/-- A reserved advance of a ring pointer (R285): the vector instruction or copy that reserved it, the ring, a push or a
pop, whether a vector instruction made it, and whether it may be made. -/
structure Resv where
  owner : Nat
  ring : Nat
  push : Bool
  vec : Bool
  ready : Bool
  deriving DecidableEq, Repr

/-- A stream as a vector instruction took it at issue (R236, R237): its number, its fields, and the ring slots it walks from slot0
on when it is ring-bound. -/
structure VOp where
  n : BitVec 3
  st : Stream
  base : Nat
  size : Nat
  slots : Nat
  slot0 : Nat
  deriving DecidableEq, Repr

/-- A vector instruction that its core has accepted (R229): its number and context, the function code (64 for VSPLAT),
the formats of its result and its sources, the rounding mode at issue (R216), the mask stream, its streams, VSPLAT's
value, the steps in all and made so far, whether it has begun, its flags, the lanes of a reduction, and the units its
last steps wrote with their bytes before (R240). -/
structure VJob where
  id : Nat
  ctx : Nat
  op : Nat
  fmt : Nat
  sfmt : Nat
  rm : BitVec 2
  mask : Option VOp
  dst : VOp
  srcs : List VOp
  shared : Bool
  splat : Word
  total : Nat
  step : Nat
  started : Bool
  flags : BitVec 6
  lanes : List Nat
  recent : List (Nat × Nat × List Byte)
  deriving DecidableEq, Repr

/-- The tile engine's settings (R256). -/
structure TileSet where
  mode : Nat
  semi : Nat
  pa : Nat
  pb : Nat
  ra : Nat
  rb : Nat
  deriving DecidableEq, Repr

/-- A queued TMMA (R263, R274): accumulator, K, its copy of the settings, the K-steps completed, and the reply register
(none for g0), and the stamp of its acceptance. -/
structure Tmma where
  acc : Nat
  k : Nat
  set : TileSet
  done : Nat
  core : Nat
  ctx : Nat
  shadow : Bool
  rd : RegNo
  mark : Nat
  deriving DecidableEq, Repr

/-- The tile engine of a core (R255): its binder, settings, accumulators by number (an unlisted one is all zeros), OV
bits, queue, the K-steps loaded and not yet complete with their settings, A and B bytes, the K-steps completed of each accumulator's
chain (R278), and the contexts that wait for the engine, in order. -/
structure Tile where
  binder : Option Nat
  set : TileSet
  accs : FMap (List (BitVec 32))
  ov : BitVec 4
  queue : List Tmma
  loads : List (TileSet × List Byte × List Byte)
  chain : FMap Nat
  waiters : List Nat
  deriving DecidableEq, Repr

/-- A copy (R287 to R293): its number, ticket, issuing context, mode and basin, the descriptor, the base addresses of a popped
and a pushed slot, the completion word and value, the release mark of its fork (R164), the stamp of the last bytes that it read
(R161), or sent to another tower while its own is guarded (R362), the bytes written, whether it has begun, is to stop (R297),
has stopped, has made its ring advances, and the fault it is paused on. -/
structure Copy where
  id : Nat
  ticket : Nat
  ctx : Nat
  mode : Mode
  basin : Nat
  desc : Vector Word 11
  srcBase : Word
  dstBase : Word
  word : Option (Word × Word)
  mark : Nat
  sent : Nat
  n : Nat
  running : Bool
  abort : Bool
  finished : Bool
  advanced : Bool
  paused : Option (Nat × Word)
  deriving DecidableEq, Repr

/-- A record of the fork-join deque (R104): the resume PC, g2, g3, the mode and basin (64 in M mode) of the thread, the
context that pushed it, the unstealable mark, and the push's release (R120). -/
structure DqRec where
  pc : Word
  g2 : Word
  g3 : Word
  mode : Mode
  basin : Nat
  ctx : Nat
  pinned : Bool
  acq : Acq
  deriving DecidableEq, Repr

/-- What a record of a die ready queue starts (R98, R106, R321): a launch record's thread, a continuation, or a saved
thread. -/
inductive Work where
  | launch (pc : Word) (args : List (Word × Bool))
  | cont (r : DqRec)
  | frame (id : Nat)
  deriving DecidableEq, Repr

/-- A record of a die ready queue (R101, R102): the mode its thread starts in, its basin (64 for M-mode code), PRIO and the time
it was placed, the core of an EXACT record, the cores that a plain hint names by tower, the permitted towers by physical number,
and the acquires that its thread makes (R123). -/
structure ReadyRec where
  work : Work
  mode : Mode
  basin : Nat
  prio : Nat
  stamp : Nat
  exact : Option Nat
  hints : List Nat
  towers : Nat
  acqs : List Acq
  deriving DecidableEq, Repr

/-- A live frame (R310, R408): the scratchpad offset that its handle names, its physical address and size, whether it holds 64
registers, the protected parts as (offset, length) pairs from the frame's start, whether it has been spilled to DRAM (R388) and
the words that are tagged there, the core number of its save handle (R320), whether a restore record or a restore has taken it
(R321), the basin (64 in M mode), the mode, START ownership and open packet of its header, whether it must restore on its own
core, the acquires that saved registers still owe (R163), the acquires of the restore, the glaze group, the group membership,
the unstealable deque records and the tile state of its thread, whether its end is a completion (R387), and the traps that it
takes at its restore (R268). -/
structure Frame where
  id : Nat
  off : Nat
  base : Nat
  size : Nat
  wide : Bool
  prot : List (Nat × Nat)
  spilled : Bool
  tags : List Nat
  vcore : Nat
  placed : Bool
  basin : Nat
  mode : Mode
  owned : Bool
  openPkt : Bool
  ownCore : Bool
  owed : List (Bool × Nat × Acq)
  edge : List Acq
  grid : Option (Nat × Nat)
  member : Option Member
  dq : List DqRec
  tile : Option Tile
  counted : Bool
  deferred : List Deferred
  deriving DecidableEq, Repr

/-- A steal request of a core (R96): the tower asked, whether it has answered, and the record of the answer. -/
structure Steal where
  tower : Nat
  answered : Bool
  found : Option ReadyRec
  deriving DecidableEq, Repr

/-- A core (R9, R303 core registers). `recent` lists the last seven contexts that issued, the newest first (R94). The
scratchpad's bytes lie in the one memory; the words that are empty and the words that are tagged are listed by offset (R131),
and so are the words whose value a PUT left (R174). -/
structure Core where
  wide : Bool
  lastIssue : Nat
  recent : List Nat
  ctxs : FMap Ctx
  units : Nat
  tvec : Word
  savebase : Word
  savesize : Word
  probeint : Word
  tenant : Word
  ptbase : Word
  spEmpty : List Nat
  spTag : List Nat
  spRel : FMap Acq
  takers : List Taker
  wbuf : List WEntry
  l1 : FMap (List Byte)
  tlb : List Xlat
  prefetch : List Prefetch
  vjobs : List VJob
  frames : List Frame
  rings : FMap Ring
  resv : List Resv
  tile : Tile
  copies : List Copy
  ticket : Nat
  deque : List DqRec
  stolen : List ReadyRec
  asleep : Bool
  steal : Option Steal
  stealTurn : Nat
  deriving DecidableEq, Repr

/-- The state of a glaze group (R329). -/
inductive GroupSt where
  | blocked | ready | running | suspended | retired | dropped
  deriving DecidableEq, Repr

/-- A glaze group that has left its first state (R329): the core it runs or ran on, the contexts of the members that have
not ended and the frames of saved ones, the edges it makes for its successors (R335, R336), the time of its release or
retirement, and whether it may be offered to every core (R333). -/
structure GGroup where
  st : GroupSt
  core : Nat
  live : List Nat
  frames : List Nat
  edges : List Acq
  stamp : Nat
  wide : Bool
  deriving DecidableEq, Repr

/-- The state of a grid that is not ENDED (R328). -/
inductive GridSt where
  | waiting | running | stopped | cancelling
  deriving DecidableEq, Repr

/-- A grid (R323 to R340): its descriptor with PRED resolved, the physical addresses of its scoreboard lines with the placement
of their pages, its state, whether it is to stop when its predecessor ends, whether it has been cancelled, the groups that have
left their first state, the edges of its launch and of its predecessor's end, those of the RESUMEs that let it go on (R339), the
time of its start, and the PREEMPTs that wait for it with whether a group kept an open packet (R338). -/
structure Grid where
  basin : Nat
  reuse : Nat
  mode : Mode
  pc : Word
  argp : Word
  x : Nat
  y : Nat
  z : Nat
  towers : Nat
  prio : Nat
  anyOrder : Bool
  deps : List (Int × Int × Int)
  gsize : Nat
  board : List (Nat × Bool)
  doneAt : Word
  value : Word
  pred : Option (Nat × Nat)
  st : GridSt
  halt : Bool
  cancelled : Bool
  groups : FMap GGroup
  edges : List Acq
  resumes : List Acq
  stamp : Nat
  waiters : List (Nat × Nat × RegNo)
  openPkt : Bool
  deriving DecidableEq, Repr

/-- A tower's base die (R10): outbound buffers, translation cache, the banks of the die ready queue with the counted pops
and the round pointer (R102), the grid table with its reuse counts (R326, R327), and the OWNER of each bed in BEDCTL (R392). -/
structure Tower where
  outbound : List WEntry
  tcache : List Xlat
  banks : FMap (List ReadyRec)
  pops : Nat
  round : Nat
  grids : FMap Grid
  gridReuse : FMap Nat
  owners : FMap Word
  deriving DecidableEq, Repr

/-- What the home keeps for a group record (R109, R110): the releases of the arrivals counted in the present phase, those
of the last release, the scope of its acquire, and whether the group was quiescent when its last arrival was counted (R111). -/
structure Barrier where
  now : List Acq
  last : List Acq
  scope : Nat
  quiet : Bool
  deriving DecidableEq, Repr

/-- An arrival atomic on its way to a record's home (R109): the record with the placement of its page, the count, the sender with
its basin, and the release. -/
structure Arrival where
  record : Nat
  vault : Bool
  n : Nat
  core : Nat
  basin : Nat
  acq : Acq
  deriving DecidableEq, Repr

/-- A load or store on its way to another core's scratchpad, or to a device register (R129, R139, R391), and what a load found
at its owner core. -/
structure RemoteOp where
  id : Nat
  core : Nat
  ctx : Nat
  basin : Nat
  addr : Nat
  size : Nat
  store : Option (List Byte)
  load : Option LoadOp
  stamp : Nat
  data : Option (List Byte)
  deriving DecidableEq, Repr

/-- An atomic in flight (R166, R172): its issuer with the basin and the tower through whose slices it goes, where, which
operation, the operands, and where its reply goes. `via` names the atomic that a switch has combined it into, and the operand of
what precedes it there (R167). -/
structure AtomOp where
  id : Nat
  core : Nat
  ctx : Nat
  basin : Nat
  tower : Nat
  shadow : Bool
  addr : Nat
  vault : Bool
  wide : Bool
  aop : Nat
  b : Word
  c : Word
  rd : RegNo
  scope : Nat
  ord : Bool
  reply : Option Word
  stamp : Nat
  via : Option (Nat × Word)
  deriving DecidableEq, Repr

/-- A basin (R393): its device registers, its beds as (tower, bed) pairs in the order of their assignment (R385), its completions
in the running and in the last ten periods of 100 µs, newest first (R387), the steps of TARGET (completions per ms, minimum
and maximum beds per tower), its runtime entry, the `.scratch` images of its cores' scratchpads with
their offsets (R54), and the running digest of its object images (R400). -/
structure Basin where
  fqhdr : Word
  ptroot : Word
  waymask : Word
  quantum : Word
  vtmap : Word
  isOpen : Bool
  resetting : Bool
  beds : List (Nat × Nat)
  ended : List Nat
  target : Nat
  minBeds : Nat
  maxBeds : Nat
  entry : Word
  scratch : List (Nat × List Byte)
  objects : List Byte
  deriving DecidableEq, Repr

/-- A fault record (R308): the queue it goes to (a basin, or 64 for the atelier's), its fields, and the number of the
context or copy it waits for when the queue has no room (R307), if it may wait. -/
structure FaultRec where
  queue : Nat
  kind : Nat
  cause : Nat
  ticket : Nat
  source : Nat
  epc : Word
  tval : Word
  extra : Word
  parts : List Word
  waitKey : Option Nat
  deriving DecidableEq, Repr

/-- A save in progress (R309, R407): the context, who asked (1 a PREEMPT of kind CONTEXT, 2 a grid's pre-emption, 3 a
bed move, 4 a double trap), the PREEMPT it answers with its rd, whether it waits for frame room, whether its packet wait
has ended, whether an attempt has found no room, the grid and group that a grid's pre-emption saves, and whether a frame of the area
has been freed since the save was deferred (R311). -/
structure SaveReq where
  id : Nat
  core : Nat
  ctx : Nat
  why : Nat
  answer : Option (Nat × Nat × RegNo)
  deferred : Bool
  waited : Bool
  tried : Bool
  group : Option (Nat × Nat)
  freed : Bool
  deriving DecidableEq, Repr

/-- What a full/empty operation does (R168, R174 to R177). -/
inductive FeKind where
  | take | put | trytake | feget
  | feset (full : Bool)
  deriving DecidableEq, Repr

/-- What a full/empty operation brings back: the value of rd and of the pair's second register, their tag, and what
the taker acquires. -/
structure FeRes where
  v0 : Word
  v1 : Word
  tag0 : Bool
  tag1 : Bool
  acq : Option Acq
  deriving DecidableEq, Repr

/-- A bed move in progress (R388): the tower and bed, the recipient as BEDCTL names it, whether the grace period is
over, and whether step 3 and step 5 have been made. -/
structure BedMove where
  tower : Nat
  bed : Nat
  owner : Word
  graced : Bool
  shed : Bool
  moved : Bool
  deriving DecidableEq, Repr

/-- A full/empty operation in flight (R168): its issuer, the word, the operand with its tag and release mark, rd, and
the result once the owner core's unit has performed it, with the stamp of that. -/
structure FeOp where
  id : Nat
  core : Nat
  ctx : Nat
  kind : FeKind
  owner : Nat
  off : Nat
  val : Word
  tag : Bool
  mark : Nat
  rd : RegNo
  res : Option FeRes
  doneAt : Nat
  deriving DecidableEq, Repr

/-- An escalation of a carrier's acquire (R406): who acquires, the releasing core and its release mark, and whether
the releasing tower has drained. -/
structure Esc where
  id : Nat
  core : Nat
  ctx : Nat
  rel : Nat
  mark : Nat
  drained : Bool
  deriving DecidableEq, Repr

/-! ### Line tokens (R345 to R359) -/

/-- What a slice tag holds of its line (R136, R347). -/
inductive TagForm where
  | data | zero | tokenOnly
  deriving DecidableEq, Repr

/-- A slice's tag for a line (R347): form, tokens, whether the owner token is among them, the home's RSET (R348), the
way it lies in, when it was last used (R136), and the line's home slice, whose index is the slice's own on its tower. -/
structure SliceTag where
  form : TagForm
  tok : Nat
  owner : Bool
  rset : Nat
  way : Nat
  used : Nat
  home : Nat
  deriving DecidableEq, Repr

/-- The controller's state of a line (R348). -/
structure CtlTok where
  tok : Nat
  own : Bool
  zero : Bool
  hd : Bool
  rset : Nat
  deriving DecidableEq, Repr

/-- A slice's outstanding request for tokens (R353, R354): read or write, the first or second TREQ or the persistent
request, the accessing basin, in whose ways it allocates (R386), the line's home slice, and the zero flag of data that has come
ahead of every token (R356). -/
structure TokReq where
  write : Bool
  stage : Nat
  basin : Nat
  home : Nat
  ahead : Option Bool
  deriving DecidableEq, Repr

/-- Where an entry of a weir stands (R356). -/
inductive WeirSt where
  | placed | activating | active | deactivating
  deriving DecidableEq, Repr

/-- An entry of a weir for one line (R356): the line's home slice, requester, kind, state and the acknowledgements still to come. -/
structure WeirEntry where
  home : Nat
  requester : Nat
  write : Bool
  st : WeirSt
  acks : Nat
  deriving DecidableEq, Repr

/-- A persistent request that waits in a slice's FIFO (R356): the line's home slice, requester, kind, and when it came. -/
structure WeirWait where
  home : Nat
  requester : Nat
  write : Bool
  came : Nat
  deriving DecidableEq, Repr

/-- The token state of a line: the controller, the slices by tower, the requests by tower, the recipients at which a
persistent request is active (8 is the controller), the weir's entries and its FIFO for the line, the towers under a
reset for which the line is still to be censused, and the census the controller is making: the tower, and the replies
still to come (R367). -/
structure LineTok where
  ctl : CtlTok
  slices : FMap SliceTag
  reqs : FMap TokReq
  active : List (Nat × Nat × Bool)
  weir : List WeirEntry
  fifo : List WeirWait
  due : List Nat
  maker : Option (Nat × Nat)
  deriving DecidableEq, Repr

/-- The coherence messages (R351), each about a line. -/
inductive TokBody where
  | treq (write : Bool) (requester : Nat)
  | tok (count : Nat) (owner zero data : Bool) (rset : Nat)
  | dmark
  | preq (write : Bool) (requester : Nat)
  | pact (write : Bool) (requester : Nat)
  | pdeact (write : Bool) (requester : Nat)
  | pack
  | pdone
  | census (byHome : Bool)
  | reply (count : Nat)
  | data (zero : Bool)
  deriving DecidableEq, Repr

/-- A message in flight between towers (R350): its logical link and sequence number, the stamp of its issue (R362),
whether it is for the line's controller or for a slice, the home slice of the line, and the body. -/
structure TokMsg where
  src : Nat
  dst : Nat
  toCtl : Bool
  seq : Nat
  stamp : Nat
  line : Nat
  home : Nat
  body : TokBody
  deriving DecidableEq, Repr

/-! ### Channels (R182 to R202) -/

/-- Who holds an end (R190): a thread by core and context (a saved one by its frame's core number), a carrier, or
nobody once it has been closed. -/
inductive Holder where
  | thread (core ctx : Nat)
  | carrier
  | gone
  deriving DecidableEq, Repr

/-- An end of a channel (R182, R184, R197, R199): its slot and the slot's reuse count, its rights, its holder and core,
its subscription, DL, whether its closure has taken effect at the anchor, whether the closure event of its peer has
been latched, and the event lines latched while it was in transit. -/
structure ChEnd where
  slot : Nat
  reuse : Nat
  rights : Nat
  holder : Holder
  core : Nat
  sub : Word
  dl : Bool
  closed : Bool
  clDone : Bool
  pend : Word
  deriving DecidableEq, Repr

/-- A word of a channel (R189): sequence number, value with its tag, end bit, the release it carries (R203) and the
buffer it is on its way to. -/
structure ChWord where
  seq : Nat
  val : Word
  tag : Bool
  last : Bool
  acq : Acq
  dest : Nat
  deriving DecidableEq, Repr

/-- A receive buffer (R186, R191): its number, its core, how far the relocation out of it has come (0 none, 2 forward
order on its way, 3 forwarding, 4 retarget answered, 5 answer passed to the old core), the send counter of that
answer, the words present, whose values and tags lie in the slots, and its blocks of the core's pool, the header block
first. -/
structure ChBuf where
  id : Nat
  core : Nat
  phase : Nat
  ret : Nat
  words : List ChWord
  blocks : List Nat
  deriving DecidableEq, Repr

/-- An outstanding RECV (R207): the sequence number it reserved and the pair it fills. -/
structure ChRecv where
  seq : Nat
  core : Nat
  ctx : Nat
  shadow : Bool
  rd : RegNo
  deriving DecidableEq, Repr

/-- A channel (R184 to R197): its anchor's tower, depth and tenant, both ends, the counters of R189, the send end's credits,
open packet count and where its state is (0 on its core, 1 on its way to the anchor, 2 at the anchor), whether it is MOVING, the
buffer the sender sends to, the buffers oldest first, the moves still to be applied with their cores (and the blocks of the new
buffer, none until it is allocated), the words and credit batches in flight (a batch with the stamp of its issue), the credits
not yet batched, the outstanding RECVs, the closing sequence number and what went with it, the discard count, whether the
arrival event and the arrival interrupt of the next word have been taken, and the peer devices that hold the receive end and the
send end (R202), by their addresses. -/
structure Chan where
  tower : Nat
  depth : Nat
  tenant : Nat
  snd : ChEnd
  rcv : ChEnd
  sendCtr : Nat
  recvCtr : Nat
  credits : Nat
  openPkt : Nat
  sendState : Nat
  sndMoving : Bool
  dest : Nat
  bufs : List ChBuf
  moves : List (Nat × List Nat)
  flight : List ChWord
  batch : Nat
  creditFlight : List (Nat × Nat)
  recvs : List ChRecv
  closeSeq : Option Nat
  closeCred : Nat
  closeAcq : Option Acq
  disc : Nat
  evDone : Bool
  intDone : Bool
  peer : Option Nat
  sndPeer : Option Nat
  deriving DecidableEq, Repr

/-- A closure on its way to an anchor (R194): the end, the edge it carries (R203), and the register that takes the
number of discarded words (R209). -/
structure Closure where
  chan : Nat
  rcv : Bool
  acq : Option Acq
  core : Nat
  ctx : Nat
  shadow : Bool
  rd : RegNo
  deriving DecidableEq, Repr

/-- An answer of an anchor on its way (R205, R211): CHNEW's pair, or the handle that CHSTAT reads. -/
structure ChReply where
  core : Nat
  ctx : Nat
  shadow : Bool
  rd : RegNo
  isNew : Bool
  v0 : Word
  v1 : Word
  deriving DecidableEq, Repr

/-- A deadlock probe (R201): its origin, the ends waited on so far as (core, context, channel, receive end), and the
thread it is on its way to. -/
structure Probe where
  core : Nat
  ctx : Nat
  path : List (Nat × Nat × Nat × Bool)
  toCore : Nat
  toCtx : Nat
  deriving DecidableEq, Repr

/-! ### Guarded towers (R360 to R370) -/

/-- What another tower's replay log holds for a guarded tower (R362): a message that the tower has applied above its last
cut. -/
inductive Replay where
  | tok (m : TokMsg)
  | store (src : Nat) (e : WEntry)
  | word (chan : Nat) (w : ChWord)
  | credit (chan n stamp : Nat)
  | closure (m : Closure)
  | reply (a : AtomOp)
  | result (o : FeOp)
  | remote (r : RemoteOp)
  | arrival (a : Arrival)
  deriving DecidableEq, Repr

/-- A before-image of a 64 KiB page (R361): its bytes in DRAM, the controller's state of its lines, and whether the lines without
a state of their own carry the zero mark. -/
structure PageImage where
  cells : List Host.Cell
  ctl : FMap CtlTok
  zero : Bool
  deriving DecidableEq, Repr

/-- A checkpoint (R360): its number, the stamp of its cut, and what it captured: the tower's cores with their contexts,
its scratchpads, its base die (queues, grids, outbound buffers), the lines' token state with weirs and requests, the bytes of
the lines its home slices own with their images in DRAM, the channels, and the operations of its threads. -/
structure Ckpt where
  no : Nat
  stamp : Nat
  cores : FMap Core
  base : Tower
  spads : List Host.Cell
  lines : FMap LineTok
  owned : FMap (List Byte × Option (List Byte))
  chans : FMap Chan
  atoms : List AtomOp
  feOps : List FeOp
  remotes : List RemoteOp
  escs : List Esc
  saves : List SaveReq
  closures : List Closure
  replies : List ChReply
  deriving DecidableEq, Repr

/-- What guarded mode, resets and links keep for a tower (R352, R360 to R366, R392): guarded or not, INTERVAL as written,
the stamp up to which its messages have left the hold queue, whether issue is stopped for a cut, the time of the last cut,
the number of checkpoints taken, the stored and the pending one, the before-images and the replay log since each cut, whether
a reset has been requested, per link the flits resent, the consecutive bad resends and the failure, and ECCCNT. -/
structure Guard where
  on : Bool
  interval : Nat
  covered : Nat
  stopping : Bool
  cutAt : Nat
  count : Nat
  stored : Option Ckpt
  pending : Option Ckpt
  undo : FMap PageImage
  undoNew : FMap PageImage
  log : List Replay
  logNew : List Replay
  resetDue : Bool
  retry : FMap Nat
  bad : FMap Nat
  down : List Nat
  ecc : Word
  deriving DecidableEq, Repr

/-! ### Clients, queues and the module (R371 to R403) -/

/-- An acknowledgement still to be sent (R372): its port and connection, and the number that the queued units of its message
bear. -/
structure RmaAck where
  port : Nat
  conn : Nat
  msg : Nat
  deriving DecidableEq, Repr

/-- What the part has sent to a client (R371 to R375, R388): an acknowledgement or an error of an RMA message (0 the
unsupported-operation error, 1 the access error), the data of a read, a reply of the atelier service with its status and
results, and the notice of a bed that is taken. -/
inductive HostMsg where
  | ack (port conn : Nat)
  | error (port conn code : Nat)
  | data (port conn : Nat) (bytes : List Byte)
  | reply (port endpoint code : Nat) (basin : BitVec 16) (tag : Word) (status : Nat) (results : List Word) (body : List Byte)
  | notice (basin tower bed : Nat)
  | peerWord (peer chan : Nat) (val : Word) (tag last : Bool)
  | peerCredit (peer chan n : Nat)
  | peerClosed (peer chan : Nat)
  deriving DecidableEq, Repr

/-- A window that REGISTER has created (R372). -/
structure Window where
  key : Nat
  basin : Nat
  va : Nat
  len : Nat
  read : Bool
  write : Bool
  deriving DecidableEq, Repr

/-- A range of DRAM that the atelier has given out: its base, its size as a power of two, the basin it belongs to, and the
virtual address at which the basin maps it, if it does. -/
structure Alloc where
  base : Nat
  bits : Nat
  basin : Nat
  va : Option Nat
  deriving DecidableEq, Repr

/-- A user queue (R376 to R383): its basin, the virtual addresses of header and ring, SLOTS, BASEPRI, STATE, tower and easel,
HEAD, the TAIL last acted on, DROPPED, LASTBAD, the physical address of TAIL, the time of the last store to it, s(e) of R380,
and the dispatch slots for which it is still held back. -/
structure UQueue where
  basin : Nat
  hdr : Word
  ring : Word
  slots : Nat
  pri : Nat
  st : Nat
  tower : Nat
  easel : Option Nat
  head : Word
  tail : Word
  dropped : Nat
  lastBad : Word
  tailPa : Nat
  tailAt : Nat
  since : Nat
  held : Nat
  deriving DecidableEq, Repr

/-- An easel's registers (R394), and the queue it serves. -/
structure Easel where
  eqhdr : Word
  basin : Nat
  pri : Nat
  que : Option Nat
  deriving DecidableEq, Repr

/-- The serial flash (R396, R401): the configuration record with its signature, and the two image slots. -/
structure Flash where
  record : List Byte
  image0 : List Byte
  image1 : List Byte
  deriving DecidableEq, Repr

/-- Who finds an uncorrectable error (R146): nobody that can be told (a drain, an eviction, a copy, an operation at its home),
the access of a thread, a vector instruction of a thread (R231), the tile engine of a core (R268), or a read of a core's L1. -/
inductive Finder where
  | nobody
  | thread (core ctx : Nat)
  | vector (core ctx : Nat)
  | tile (core : Nat)
  | l1 (core : Nat)
  deriving DecidableEq, Repr

/-- A move chosen by the outside (log entry 3): an event of the part, the next issue of a core, an uncorrectable error found
at a physical address, a corrected error of a tower's DRAM or SRAM (R146), two atomics that a switch combines (R167), or what a peer
device sends for a channel (R202, log entry 73): a word, with the depth and rights of a receive end that it carries, a batch of
credits, or the closure of the end that it holds. -/
inductive Move where
  | event (i : Instr)
  | issue (core : Nat)
  | upset (pa : Nat) (by_ : Finder)
  | corrected (tower : Nat) (dram : Bool)
  | combine (first second : Nat)
  | peerWord (peer chan : Nat) (val : Word) (last : Bool) (carried : Option (Nat × Nat))
  | peerCredit (peer chan n : Nat)
  | peerClosed (peer chan : Nat)
  deriving DecidableEq, Repr

/-- The whole part. `cur` is the core and context the present step executes; `agenda` holds the moves the outside has chosen to
come next, oldest first; `turn` says whether the next move of the machine's own is an event; `serial` stamps stores and records;
`freeCtr` counts free values; `clock` counts steps; `outbox` holds what has been sent to clients and `acks` the acknowledgements
still to be sent; `zeroed` the ranges of lines, as first line and number, whose zero marks a first touch has set where `lines`
names no line (R143); `winners` the last easel to win per die and effective priority (R380); `running` the image slot that runs;
`identity` the identity key that the boot has derived (R399); `derated` and `hot` hold issue (R402, R403). -/
structure State where
  cur : Nat × Nat
  agenda : List Move
  turn : Bool
  serial : Nat
  freeCtr : Nat
  clock : Nat
  powered : Bool
  booted : Bool
  caps : Word
  ids : Word
  mem : List Host.Cell
  stale : FMap (List Byte)
  cores : FMap Core
  towers : FMap Tower
  remotes : List RemoteOp
  atoms : List AtomOp
  feOps : List FeOp
  lines : FMap LineTok
  zeroed : List (Nat × Nat)
  msgs : List TokMsg
  linkSeq : FMap Nat
  escs : List Esc
  basins : FMap Basin
  afqhdr : Word
  afqlost : Nat
  faultWait : List FaultRec
  saves : List SaveReq
  chans : FMap Chan
  slotReuse : FMap Nat
  closures : List Closure
  chReplies : List ChReply
  probes : List Probe
  barriers : FMap Barrier
  arrivals : List Arrival
  bedMoves : List BedMove
  guards : FMap Guard
  outbox : List HostMsg
  acks : List RmaAck
  windows : List Window
  allocs : List Alloc
  queues : FMap UQueue
  easels : FMap Easel
  winners : FMap Nat
  peers : List (Nat × Word × Word)
  flash : Flash
  running : Option Nat
  identity : Option (List Byte)
  derated : Bool
  hot : List Nat
  deriving DecidableEq, Repr

/-- The reasons a step can stop with a fault. No instruction of the part stops a run: whatever the spec calls a
fault is a trap, a posted record or a parked thread, and so a next state. -/
inductive Fault where
  /-- Raised by `step` while the module is powered off (R402) and the outside has chosen no move: nothing in the part
  can happen. Safe: only a power-on, a move from outside, can follow. -/
  | poweredOff
  deriving DecidableEq, Repr

/-- The reasons a step can be refused. -/
inductive Refusal where
  /-- Raised by an arm of `exec` for an instruction that has no meaning yet. Safe: the run stops. -/
  | notModelled (mnemonic : String)
  deriving DecidableEq, Repr

/-- A stream at its zeroed values (R232). -/
def Stream.zero : Stream := ⟨0, 0, Vector.replicate 5 1, Vector.replicate 5 0, 0⟩

/-- The staged descriptor at its reset values (R288): cnt1 and cnt2 are 1. -/
def descReset : Vector Word 11 := #v[0, 0, 0, 0, 0, 1, 0, 0, 1, 0, 0]

/-- A context without a thread (R93 FREE), in the state R100 gives a thread at its start. -/
def Ctx.fresh : Ctx where
  phase := .free
  owned := false
  pc := 0
  mode := .u
  regs := Vector.replicate 64 GReg.zero
  shadow := Vector.replicate 8 GReg.zero
  evl := 0
  ivec := 0
  iepc := 0
  fpctl := 0
  pmode := 0
  th := false
  ih := false
  icount := 0
  cause := 0
  epc := 0
  tval := 0
  scratch := 0
  streams := Vector.replicate 8 Stream.zero
  desc := descReset
  park := none
  stop := none
  yieldHold := false
  fetched := none
  fills := []
  group := none
  grid := none
  deferred := []
  relMark := none
  fences := []
  lastLoad := none
  parkTime := 0
  range := none
  inval := none
  acqs := []
  counted := false
  void := []

/-- Context 0 at power-on: always RUN (R93), M-mode code (R8), with nothing to run before boot (R396). -/
def Ctx.zero : Ctx := { Ctx.fresh with phase := .run, mode := .m, stop := some .unborn }

/-- The settings that TBIND sets (R256). -/
def TileSet.fresh : TileSet := ⟨0, 0, 8, 8, 0, 1⟩

/-- The tile engine after reset (R255). -/
def Tile.fresh : Tile := ⟨none, TileSet.fresh, [], 0, [], [], [], []⟩

/-- A core after reset (R126, R303). -/
def Core.fresh : Core where
  wide := false
  lastIssue := 15
  recent := []
  ctxs := []
  units := 12
  tvec := 0
  savebase := 0x80000
  savesize := 0x40000
  probeint := 100
  tenant := 0x40
  ptbase := 0
  spEmpty := []
  spTag := []
  spRel := []
  takers := []
  wbuf := []
  l1 := []
  tlb := []
  prefetch := []
  vjobs := []
  frames := []
  rings := []
  resv := []
  tile := Tile.fresh
  copies := []
  ticket := 0
  deque := []
  stolen := []
  asleep := false
  steal := none
  stealTurn := 0

/-- A tower after reset. -/
def Tower.fresh : Tower where
  outbound := []
  tcache := []
  banks := []
  pops := 0
  round := 0
  grids := []
  gridReuse := []
  owners := []

/-- A basin after reset (R393). -/
def Basin.fresh : Basin where
  fqhdr := 0
  ptroot := 0
  waymask := 0xFFFF
  quantum := 10
  vtmap := 0xFFFFFFFF
  isOpen := false
  resetting := false
  beds := []
  ended := []
  target := 0
  minBeds := 0
  maxBeds := 16
  entry := 0
  scratch := []
  objects := List.replicate 64 0

/-- A line that no slice has a tag for: the controller holds all eight tokens (R348). -/
def LineTok.fresh : LineTok := ⟨⟨8, true, false, false, 0⟩, [], [], [], [], [], [], none⟩

/-- Such a line with its zero mark set (R138). -/
def LineTok.marked : LineTok := ⟨⟨8, true, true, false, 0⟩, [], [], [], [], [], [], none⟩

/-- A tower that is not guarded, with every link up. -/
def Guard.fresh : Guard := ⟨false, 0, 0, false, 0, 0, none, none, [], [], [], [], false, [], [], [], 0⟩

/-- An easel after reset (R394). -/
def Easel.fresh : Easel := ⟨0, 0, 0, none⟩

/-- The part at power-on, before the boot ROM has run (R396). -/
def State.reset : State where
  cur := (2048, 0)
  agenda := []
  turn := false
  serial := 1
  freeCtr := 0
  clock := 0
  powered := true
  booted := false
  caps := 0xFF00000000
  ids := 0
  mem := []
  stale := []
  cores := []
  towers := []
  remotes := []
  atoms := []
  feOps := []
  lines := []
  zeroed := []
  msgs := []
  linkSeq := []
  escs := []
  basins := []
  afqhdr := 0
  afqlost := 0
  faultWait := []
  saves := []
  chans := []
  slotReuse := []
  closures := []
  chReplies := []
  probes := []
  barriers := []
  arrivals := []
  bedMoves := []
  guards := []
  outbox := []
  acks := []
  windows := []
  allocs := []
  queues := []
  easels := []
  winners := []
  peers := []
  flash := ⟨Config.factoryRecord, Config.factoryImage0, Config.factoryImage1⟩
  running := none
  identity := none
  derated := false
  hot := []

end Sys2Proof.Machine
end

