-- ==== Sys2Proof/Machine/Mem.lean ====
section
/-! DEFINITION. The one memory of the part by physical address (R139 of spec/09_memory_hierarchy.md): DRAM and the
scratchpad windows. A byte that no cell lists reads 0 (log entry 2). Cells stand in strictly rising address order and
none of them holds 0, so equal memories are equal lists. -/

namespace Sys2Proof.Machine

/-- What a byte that no cell lists reads as (log entry 2). -/
def unlisted : Byte := 0

/-- Every address is above lo, addresses rise strictly, and no cell holds what an unlisted byte reads as. -/
def Memory.wfAbove : Nat → List Host.Cell → Bool
  | _, [] => true
  | lo, (a, v) :: r => decide (lo ≤ a) && (v != unlisted) && Memory.wfAbove (a + 1) r

/-- The canonical form of a memory. -/
def Memory.wf (m : List Host.Cell) : Bool := Memory.wfAbove 0 m

/-- The byte at an address. -/
def readByte : List Host.Cell → Nat → Byte
  | [], _ => unlisted
  | (j, v) :: r, a => if j = a then v else if a < j then unlisted else readByte r a

/-- Write one byte, keeping the canonical form. -/
def writeByte : List Host.Cell → Nat → Byte → List Host.Cell
  | [], a, v => if v = unlisted then [] else [(a, v)]
  | (j, w) :: r, a, v =>
    if a < j then (if v = unlisted then (j, w) :: r else (a, v) :: (j, w) :: r)
    else if a = j then (if v = unlisted then r else (a, v) :: r)
    else (j, w) :: writeByte r a v

/-- Write bytes at rising addresses. -/
def writeBytes (m : List Host.Cell) (a : Nat) : List Byte → List Host.Cell
  | [] => m
  | b :: r => writeBytes (writeByte m a b) (a + 1) r

/-- n bytes from an address up. -/
def readBytes (m : List Host.Cell) (a : Nat) : Nat → List Byte
  | 0 => []
  | n + 1 => readByte m a :: readBytes m (a + 1) n

/-- Every byte of lo … lo + n − 1 becomes 0: the cells of the range are dropped. -/
def clearRange (m : List Host.Cell) (lo n : Nat) : List Host.Cell :=
  m.filter fun c => decide (c.1 < lo) || decide (lo + n ≤ c.1)

/-- The little-endian number of bytes (R2). -/
def leNat : List Byte → Nat
  | [] => 0
  | b :: r => b.toNat + 256 * leNat r

/-- n bytes of a number, little-endian (R2). -/
def leBytes : Nat → Nat → List Byte
  | 0, _ => []
  | n + 1, v => BitVec.ofNat 8 v :: leBytes n (v / 256)

/-- A 64-bit value of bytes. -/
def leWord (l : List Byte) : Word := BitVec.ofNat 64 (leNat l)

/-- The 8-byte unit at an address (R1). -/
def read64 (m : List Host.Cell) (a : Nat) : Word := leWord (readBytes m a 8)

/-- Write an 8-byte unit. -/
def write64 (m : List Host.Cell) (a : Nat) (v : Word) : List Host.Cell := writeBytes m a (leBytes 8 v.toNat)

/-! ### The physical address space (R139) -/

/-- The first address of the scratchpad windows of tower cores. -/
def spBase : Nat := 0x080000000000
/-- The first address of the scratchpad windows of atelier cores. -/
def spBaseAtelier : Nat := 0x080800000000
/-- The first address of the device registers. -/
def devBase : Nat := 0x0F0000000000

/-- The scratchpad window of a core by global number (R7, R139). -/
def windowOf (g : Nat) : Nat :=
  if g < 2048 then spBase + (g / 256) * 0x100000000 + (g % 256) * 0x400000
  else spBaseAtelier + (g - 2048) * 0x400000

/-- The tower of a tower core (R7). -/
def towerOf (g : Nat) : Nat := g / 256

/-- The core is an atelier core (R6, R7). -/
def isAtelier (g : Nat) : Bool := decide (2048 ≤ g)

/-- The tower is present in CAPS (R16, R19). -/
def towerPresent (s : State) (t : Nat) : Bool := decide (t < 8) && s.caps.getLsbD t

/-- The number of towers present (R13). -/
def towersPresent (s : State) : Nat := ((List.range 8).filter (towerPresent s)).length

/-- The line number of an address: PA[47:7] (R136). -/
def lineOf (pa : Nat) : Nat := pa / 128

/-- The home slice of a line by global number (R137): interleaved by the hash of the line number, or in the vault's
tower. -/
def homeSlice (s : State) (vault : Bool) (pa : Nat) : Nat :=
  if vault then (pa / 2 ^ 35 % 8) * 256 + 4 * (pa / 2 ^ 29 % 64) + pa / 128 % 4
  else
    let l := pa / 128
    let x := (l % 2048) ^^^ (l / 2 ^ 11 % 2048) ^^^ (l / 2 ^ 22 % 2048) ^^^ (l / 2 ^ 33 % 256)
    x % (256 * max 1 (towersPresent s))

/-- What a physical address names (R139). -/
inductive Place where
  | dram
  | spad (core off : Nat)
  | device
  | none
  deriving DecidableEq, Repr

/-- A core by number, with every unlisted core as after reset. -/
def State.core (s : State) (g : Nat) : Core := fget Core.fresh s.cores g

/-- Write a core. -/
def State.setCore (s : State) (g : Nat) (c : Core) : State := { s with cores := fset s.cores g c }

/-- A tower by number. -/
def State.tower (s : State) (t : Nat) : Tower := fget Tower.fresh s.towers t

/-- A basin by number. -/
def State.basin (s : State) (b : Nat) : Basin := fget Basin.fresh s.basins b

/-- Write a basin. -/
def State.setBasin (s : State) (b : Nat) (x : Basin) : State := { s with basins := fset s.basins b x }

/-- The way mask of a basin, or every way outside the basins (R386). -/
def basinMask (s : State) (b : Nat) : Nat := if b < 64 then (s.basin b).waymask.toNat % 2 ^ 16 else 0xFFFF

/-- Write a tower. -/
def State.setTower (s : State) (t : Nat) (w : Tower) : State := { s with towers := fset s.towers t w }

/-- What a physical address names: an unbacked window offset, an absent tower and every other range name nothing
(R19, R139). -/
def placeOf (s : State) (pa : Nat) : Place :=
  if pa < 0x004000000000 then
    (if towerPresent s (pa / 2 ^ 35) then .dram else .none)
  else if spBase ≤ pa ∧ pa < spBase + 8 * 0x100000000 then
    let r := pa - spBase
    let t := r / 0x100000000
    let c := r % 0x100000000 / 0x400000
    let o := r % 0x400000
    if c < 256 ∧ towerPresent s t = true ∧ o < (s.core (t * 256 + c)).units * 65536 then .spad (t * 256 + c) o
    else .none
  else if spBaseAtelier ≤ pa ∧ pa < spBaseAtelier + 16 * 0x400000 then
    let a := (pa - spBaseAtelier) / 0x400000
    let o := (pa - spBaseAtelier) % 0x400000
    if o < (s.core (2048 + a)).units * 65536 then .spad (2048 + a) o else .none
  else if devBase ≤ pa ∧ pa < 0x100000000000 then .device
  else .none

/-! ### Line tokens (R345 to R348) -/

/-- The token state of a line that `lines` does not name. -/
def State.unnamed (s : State) (l : Nat) : LineTok :=
  if s.zeroed.any fun p => decide (p.1 ≤ l) && decide (l < p.1 + p.2) then LineTok.marked else LineTok.fresh

/-- The token state of a line. -/
def State.line (s : State) (l : Nat) : LineTok := fget (s.unnamed l) s.lines l

/-- Write the token state of a line. -/
def State.setLine (s : State) (l : Nat) (t : LineTok) : State := { s with lines := fset s.lines l t }

/-- The tower whose DRAM controller holds a line (R139). -/
def ctlTower (l : Nat) : Nat := l * 128 / 2 ^ 35

/-- The tower of the slice that now holds the owner token, if a slice holds it. -/
def LineTok.ownerSlice (t : LineTok) : Option Nat := (t.slices.find? fun p => p.2.owner).map Prod.fst

/-- A slice of tower t may read the line (R346): it has a token and valid data. -/
def LineTok.readable (x : LineTok) (t : Nat) : Bool :=
  match flook x.slices t with
  | some g => decide (1 ≤ g.tok) && decide (g.form ≠ .tokenOnly)
  | none => false

/-- The home slice, on tower t, may write the line (R346): all eight tokens and valid data. -/
def LineTok.writable (x : LineTok) (t : Nat) : Bool :=
  match flook x.slices t with
  | some g => decide (g.tok = 8) && decide (g.form ≠ .tokenOnly)
  | none => false

/-- The persistent request active at a recipient for the line, if any (R356). -/
def LineTok.activeAt (x : LineTok) (who : Nat) : Option (Nat × Bool) :=
  (x.active.find? fun p => decide (p.1 = who)).map Prod.snd

/-- The line is a zero line for a slice that misses it (R138): its owner slice holds it as one, or its zero mark is set. -/
def LineTok.isZero (x : LineTok) : Bool :=
  match x.slices.find? fun p => p.2.owner with
  | some p => decide (p.2.form = .zero)
  | none => x.ctl.zero

/-! ### Guarded towers (R360 to R362) -/

/-- What guarded mode keeps for a tower. -/
def State.guard (s : State) (t : Nat) : Guard := fget Guard.fresh s.guards t

/-- Write it. -/
def State.setGuard (s : State) (t : Nat) (x : Guard) : State := { s with guards := fset s.guards t x }

/-- A message that core g's tower issues to tower d with a stamp waits in the hold queue (R362). -/
def heldBack (s : State) (t d stamp : Nat) : Bool :=
  decide (t < 8) && decide (t ≠ d) && (s.guard t).on && decide ((s.guard t).covered < stamp)

/-- The hold of a message of a core: an atelier core belongs to no tower, and holds nothing back. -/
def heldCore (s : State) (g d stamp : Nat) : Bool := if g < 2048 then heldBack s (g / 256) d stamp else false

/-- Keep a message that a guarded tower has applied, while the cuts to come do not cover it (R362). -/
def keepReplay (s : State) (t : Nat) (r : Replay) : State :=
  let x := s.guard t
  if x.on then
    s.setGuard t (if x.pending.isSome then { x with logNew := x.logNew ++ [r] } else { x with log := x.log ++ [r] })
  else s

/-- A page's bytes as DRAM holds them: newer bytes of lines whose owner token a slice holds are left out. -/
def pageCells (s : State) (page : Nat) : List Host.Cell :=
  (s.stale.filter fun p => decide (p.1 / 512 = page)).foldl (fun m p => writeBytes m (128 * p.1) p.2)
    (s.mem.filter fun c => decide (c.1 / 65536 = page))

/-- The page has changed since no cut that lacks its before-image (R361): nothing has to be copied. -/
def pageSaved (s : State) (page : Nat) : Bool :=
  let x := s.guard (page * 65536 / 2 ^ 35)
  if x.pending.isSome then (flook x.undoNew page).isSome
  else decide (x.stored = none) || (flook x.undo page).isSome

/-- Copy a page's before-image to the undo region (R361). An image at a later cut serves an earlier one that has none. -/
def takeImage (s : State) (page : Nat) : State :=
  if pageSaved s page then s
  else
    let t := page * 65536 / 2 ^ 35
    let x := s.guard t
    let i : PageImage := ⟨pageCells s page, (s.lines.filter fun p => decide (p.1 / 512 = page)).map fun p => (p.1, p.2.ctl),
      s.zeroed.any fun p => decide (p.1 ≤ page * 512) && decide (page * 512 < p.1 + p.2)⟩
    s.setGuard t { x with
      undo := if (flook x.undo page).isSome then x.undo else fset x.undo page i
      undoNew := if x.pending.isSome then fset x.undoNew page i else x.undoNew }

/-- Copy the before-images of pages, where a checkpoint needs any (R361). -/
def takeImages (s : State) (lo n : Nat) : State :=
  if s.guards.all fun p => p.2.stored.isNone && p.2.pending.isNone then s
  else (List.range n).foldl (fun s i => takeImage s (lo + i)) s

end Sys2Proof.Machine
end

