-- ==== Sys2Proof/Machine/Lines.lean ====
section
/-! DEFINITION. The L2 slices and their tags (R136, R138, R347, R355 of spec/09_memory_hierarchy.md and
spec/27_tokens_and_dies.md), the coherence messages as they are sent (R350, R351), a store performed by an agent that waits
for no token (log entry 13), and the points at which stores are visible (R158, R161). -/

namespace Sys2Proof.Machine

/-! ### Messages -/

/-- The next sequence number of a logical link (R350). -/
def nextSeq (s : State) (a b : Nat) : Nat := fget 0 s.linkSeq (a * 8 + b)

/-- Send a coherence message. -/
def sendTok (s : State) (src dst : Nat) (toCtl : Bool) (line home : Nat) (b : TokBody) : State :=
  { s with
    msgs := s.msgs ++ [⟨src, dst, toCtl, nextSeq s src dst, s.serial, line, home, b⟩]
    linkSeq := fset s.linkSeq (src * 8 + dst) ((nextSeq s src dst + 1) % 2 ^ 32) }

/-- The present towers. -/
def presentTowers (s : State) : List Nat := (List.range 8).filter (towerPresent s)

/-! ### Tags -/

/-- The set of a line within its slice (R136). -/
def setOf (l : Nat) : Nat := (l % 512) ^^^ (l / 512 % 512)

/-- The lines other than l that have a tag in the same set of the slice of tower t to which l goes: the slice with the index of
l's home (R136, R137). -/
def setMates (s : State) (t l home : Nat) : List (Nat × SliceTag) :=
  s.lines.filterMap fun p =>
    if p.1 ≠ l ∧ setOf p.1 = setOf l then
      (match flook p.2.slices t with
       | some g => if g.home % 256 = home % 256 then some (p.1, g) else none
       | none => none)
    else none

/-- Evict a line from a slice (R355): all its tokens go to the controller; the home slice's go with the data if it is dirty, or
with the zero flag of a zero line. -/
def evictTag (s : State) (t l : Nat) : State :=
  let x := s.line l
  match flook x.slices t with
  | none => s
  | some g =>
    let dirty := (flook s.stale l).isSome
    sendTok (s.setLine l { x with slices := fdel x.slices t }) t (ctlTower l) true l g.home
      (.tok g.tok g.owner (g.owner && decide (g.form = .zero)) (g.owner && decide (g.form = .data) && dirty) g.rset)

/-- The least recently used of some tags. -/
def lru : List (Nat × SliceTag) → Option (Nat × SliceTag)
  | [] => none
  | p :: r =>
    match lru r with
    | none => some p
    | some q => if p.2.used ≤ q.2.used then some p else some q

/-- A way in a mask. -/
def inMask (mask w : Nat) : Bool := decide (mask / 2 ^ w % 2 = 1)

/-- A data frame for line l in its set of tower t's slice (R136, R138): with all eight in use, the least recently used data line
of the mask's ways is evicted first; where those ways hold none, of the other ways (log entry 64). -/
def takeFrame (s : State) (t l home mask : Nat) : State :=
  let data := (setMates s t l home).filter fun p => decide (p.2.form = .data)
  if data.length < 8 then s
  else
    match (lru (data.filter fun p => inMask mask p.2.way)).or (lru data) with
    | some v => evictTag s t v.1
    | none => s

/-- A way of the mask for line l in tower t's slice (R136), with a data frame when the line comes with data: a free way, or
that of the least recently used line of the mask's ways; none for an empty mask (R359). -/
def allocWay (s : State) (t l home mask : Nat) (frame : Bool) : Option (Nat × State) :=
  let mates := setMates s t l home
  let framed (q : State) : State := if frame then takeFrame q t l home mask else q
  match (List.range 16).find? fun w => inMask mask w && !(mates.any fun p => decide (p.2.way = w)) with
  | some w => some (w, framed s)
  | none => (lru (mates.filter fun p => inMask mask p.2.way)).map fun v => (v.2.way, framed (evictTag s t v.1))

/-- A tag is used (R136: replacement is least recently used). -/
def touchTag (s : State) (t l : Nat) : State :=
  let x := s.line l
  match flook x.slices t with
  | some g => s.setLine l { x with slices := fset x.slices t { g with used := s.clock } }
  | none => s

/-- The home slice writes a line whose HD is 0: DMARK goes to the controller (R348). -/
def markDirty (s : State) (l home : Nat) : State :=
  let x := s.line l
  if x.ctl.hd || s.msgs.any (fun m => decide (m.line = l) && decide (m.body = .dmark)) then s else sendTok s (home / 256) (ctlTower l) true l home .dmark

/-! ### Accesses that wait for no token (log entry 13) -/

/-- The message carries tokens or data of the line, or asks for them in a census. -/
def TokMsg.carries (m : TokMsg) (l : Nat) : Bool :=
  decide (m.line = l) && (match m.body with
    | .tok _ _ _ _ _ => true
    | .reply _ => true
    | .data _ => true
    | .census _ => true
    | _ => false)

/-- What a recipient at which a persistent request is active sends the requester (R356 step 2): the controller or a slice
sends every non-owner token; the owner holder sends the data too, and for a write the owner token as well. An owner holder that has
no token to send it with sends the data by itself (log entry 66). RSET notes the requester (R348). -/
def giveActive (s : State) (who l home : Nat) (write : Bool) (q : Nat) : State :=
  let x := s.line l
  if who = 8 then
    let c := x.ctl
    let n := if c.own && !write then c.tok - 1 else c.tok
    let s1 := s.setLine l { x with ctl := { c with tok := c.tok - n, own := c.own && !write, rset := c.rset ||| 2 ^ q } }
    if n = 0 then (if c.own then sendTok s1 (ctlTower l) q false l home (.data c.zero) else s1)
    else
      sendTok s1 (ctlTower l) q false l home
        (.tok n (c.own && write) (c.own && c.zero) (c.own && !c.zero) (if c.own && write then c.rset else 0))
  else if who = q then s
  else
    match flook x.slices who with
    | none => s
    | some g =>
      let n := if g.owner && !write then g.tok - 1 else g.tok
      let rest : SliceTag := { g with tok := g.tok - n, owner := g.owner && !write, rset := g.rset ||| 2 ^ q }
      let s1 := s.setLine l { x with slices := if rest.tok = 0 then fdel x.slices who else fset x.slices who rest }
      if n = 0 then sendTok s1 who q false l home (.data (decide (g.form = .zero)))
      else
        sendTok s1 who q false l home
          (.tok n (g.owner && write) (g.owner && decide (g.form = .zero)) (g.owner && decide (g.form = .data))
            (if g.owner && write then g.rset else 0))

/-- Tokens that have reached a recipient go on to the requester that is active there (R356 step 2). -/
def passActive (s : State) (who l home : Nat) : State :=
  match (s.line l).activeAt who with
  | some (q, w) => giveActive s who l home w q
  | none => s

/-- All eight tokens of a line are gathered at its controller, which keeps them, and its newest data is in DRAM (R359). -/
def gatherCtl (s : State) (l : Nat) : State :=
  let x := s.line l
  if x.ctl.tok = 8 ∧ x.slices = [] then s
  else
    let s1 := takeImage s (l / 512)
    let zero := x.ctl.zero && (flook s.stale l).isNone || x.slices.any fun p => p.2.owner && decide (p.2.form = .zero)
    { s1.setLine l { s1.line l with ctl := ⟨8, true, zero, false, 0⟩, slices := [], due := [], maker := none } with
      msgs := s1.msgs.filter fun m => !m.carries l, stale := fdel s1.stale l }

/-- All eight tokens of a line are gathered at its home slice (R346), as a data line in a frame or as a zero line; where the mask
gives the slice no way, at the controller. A census that the line is due comes with it (R367, log entry 13). -/
def gatherHome (s : State) (l home mask : Nat) (zero : Bool) : State :=
  let t := home / 256
  if (s.line l).writable t then s
  else
    let s1 := takeImage s (l / 512)
    match (match flook (s.line l).slices t with
      | some g => some (g.way, if zero then s1 else takeFrame s1 t l home mask)
      | none => allocWay s1 t l home mask (!zero)) with
    | none => gatherCtl s l
    | some (w, s2) =>
      let x := s2.line l
      { s2.setLine l { x with
          ctl := { x.ctl with tok := 0, own := false, rset := x.ctl.rset ||| 2 ^ t }
          slices := [(t, ⟨if zero then .zero else .data, 8, true, 0, w, s2.clock, home⟩)], due := [], maker := none } with
        msgs := s2.msgs.filter fun m => !m.carries l }

/-- A holder's non-owner token given to the slice of tower t, if the controller or another slice has one: RSET notes it (R348). -/
def LineTok.spare (x : LineTok) (t : Nat) : Option LineTok :=
  let c := { x.ctl with rset := x.ctl.rset ||| 2 ^ t }
  if 2 ≤ x.ctl.tok ∨ (x.ctl.tok = 1 ∧ x.ctl.own = false) then some { x with ctl := { c with tok := x.ctl.tok - 1 } }
  else
    match x.slices.find? fun p => decide (p.1 ≠ t) && (decide (2 ≤ p.2.tok) || !p.2.owner) with
    | some p => some { x with
        ctl := c
        slices := if p.2.tok = 1 then fdel x.slices p.1
          else fset x.slices p.1 { p.2 with tok := p.2.tok - 1, rset := if p.2.owner then p.2.rset ||| 2 ^ t else p.2.rset } }
    | none => none

/-- The message can give a non-owner token of a line. -/
def TokMsg.givesToken (m : TokMsg) (l : Nat) : Bool :=
  decide (m.line = l) && (match m.body with
    | .tok n o _ _ _ => decide (2 ≤ n) || !o
    | _ => false)

/-- The message without one of its non-owner tokens; none when that was its only one. -/
def TokMsg.without (m : TokMsg) : Option TokMsg :=
  match m.body with
  | .tok n o z d r => if n ≤ 1 then none else some { m with body := .tok (n - 1) o z d r }
  | _ => some m

/-- A non-owner token of a line for the slice of tower t: a holder's, or else that of a message on its way. -/
def spareToken (s : State) (t l : Nat) : Option State :=
  match (s.line l).spare t with
  | some x => some ((takeImage s (l / 512)).setLine l x)
  | none =>
    match s.msgs.findIdx? fun m => m.givesToken l with
    | none => none
    | some i =>
      let x := s.line l
      let s1 := (takeImage s (l / 512)).setLine l { x with ctl := { x.ctl with rset := x.ctl.rset ||| 2 ^ t } }
      match s.msgs[i]?.bind TokMsg.without with
      | some m => some { s1 with msgs := s1.msgs.set i m }
      | none => some { s1 with msgs := s1.msgs.eraseIdx i }

/-- The slice of tower t holds a token and valid data of a line, for a read that waits for none (R346, log entry 13): where it has
none, one comes from another holder. A miss to a zero line makes a zero line, without a frame (R138). -/
def readThrough (s : State) (t l home mask : Nat) : State :=
  let x := s.line l
  let zero := x.isZero
  let form : TagForm := if zero then .zero else .data
  if x.readable t then touchTag s t l
  else
    match flook x.slices t with
    | some g =>
      let s1 := if zero then s else takeFrame s t l home mask
      s1.setLine l { s1.line l with slices := fset (s1.line l).slices t { g with form := form, used := s.clock } }
    | none =>
      if mask % 2 ^ 16 = 0 then s
      else
        match (spareToken s t l).bind fun s1 => allocWay s1 t l home mask (!zero) with
        | some (w, s1) => s1.setLine l { s1.line l with slices := fset (s1.line l).slices t ⟨form, 1, false, 0, w, s.clock, home⟩ }
        | none => s

/-- The line's bytes as DRAM will keep them if its newer data is discarded (R152 L2DISC, log entry 8): the image is
taken when a slice first writes a clean line; data the controller itself writes is in DRAM at once. -/
def keepImage (s : State) (pa : Nat) : FMap (List Byte) :=
  let l := lineOf pa
  let x := s.line l
  if x.slices.any fun p => x.writable p.1 then
    match flook s.stale l with
    | some _ => s.stale
    | none => fset s.stale l (readBytes s.mem (128 * l) 128)
  else fdel s.stale l

/-- A store reaches the TAIL of the user queues whose header it writes (R377): its time counts for their ageing, and for an empty
queue it is the time from which the record at HEAD ages (R380, R383). -/
def noteTail (s : State) (pa n : Nat) : State :=
  let meetsTail (u : UQueue) : Bool := decide (u.tailPa < pa + n) && decide (pa < u.tailPa + 8)
  if (s.queues.any fun p => meetsTail p.2) = true then
    { s with queues := s.queues.map fun p =>
      if meetsTail p.2 then (p.1, { p.2 with tailAt := s.clock, since := if read64 s.mem p.2.tailPa = p.2.head then s.clock else p.2.since })
      else p }
  else s

/-- Bytes within one line are written at its home or by its controller, whose tokens have been settled (R158). -/
def writeLine (s : State) (pa : Nat) (bs : List Byte) : State :=
  let s' := noteTail (if (s.line (lineOf pa)).slices = [] then takeImage s (pa / 65536) else s) pa bs.length
  { s' with stale := keepImage s' pa, mem := writeBytes s'.mem pa bs }

/-- The home slice of a line for an agent that knows no placement: the slice that holds the owner token, or else that of
interleaved placement (log entry 65). -/
def homeOf (s : State) (l : Nat) : Nat :=
  match (s.line l).slices.find? fun p => p.2.owner with
  | some p => p.2.home
  | none => homeSlice s false (128 * l)

/-- Gather a line for a write that waits for no token: at the home slice, which says that the line is dirty, or for an empty
mask at the controller (R348, R359). -/
def gatherFor (s : State) (l home mask : Nat) : State :=
  if mask % 2 ^ 16 = 0 then
    let s1 := gatherCtl (takeImage s (l / 512)) l
    s1.setLine l { s1.line l with ctl := { (s1.line l).ctl with zero := false } }
  else
    let s1 := gatherHome s l home mask false
    match flook (s1.line l).slices (home / 256) with
    | some g =>
      let s2 := if g.form = .data then s1 else takeFrame s1 (home / 256) l home mask
      markDirty (s2.setLine l { s2.line l with
        slices := fset (s2.line l).slices (home / 256) { g with form := .data, used := s.clock } }) l home
    | none => s1

/-- Bytes are stored by an agent that waits for no token (log entry 13), line by line; a persistent request that is active for a
line then has its tokens (R356). -/
def performFor (s : State) (home : State → Nat → Nat) (mask pa : Nat) (bs : List Byte) : Nat → State
  | 0 => s
  | n + 1 =>
    let k := 128 - pa % 128
    let l := lineOf pa
    let h := home s l
    let s1 := writeLine (gatherFor s l h mask) pa (bs.take k)
    let s2 := passActive (passActive s1 (h / 256) l h) 8 l h
    if bs.length ≤ k then s2 else performFor s2 home mask (pa + k) (bs.drop k) n

/-- Whose access it is, in whose ways it allocates (R386), and the placement of its page (R137): none for an agent that knows
no placement (log entry 65). -/
structure Via where
  basin : Nat
  vault : Option Bool
  deriving DecidableEq, Repr

/-- The home slice of a line for an access. -/
def Via.home (v : Via) (s : State) (l : Nat) : Nat :=
  match v.vault with
  | some b => homeSlice s b (128 * l)
  | none => homeOf s l

/-- A store is performed: at its home for DRAM-backed memory, in the word for scratchpad (R158). -/
def performVia (s : State) (v : Via) (pa : Nat) (bs : List Byte) : State :=
  if pa < 0x004000000000 then performFor s v.home (basinMask s v.basin) pa bs (bs.length / 128 + 2)
  else { s with mem := writeBytes s.mem pa bs }

/-- A store that the part makes for no basin, at a physical address. -/
def perform (s : State) (pa : Nat) (bs : List Byte) : State := performVia s ⟨64, none⟩ pa bs

/-- An 8-byte store is performed. -/
def perform64 (s : State) (pa : Nat) (v : Word) : State := perform s pa (leBytes 8 v.toNat)

/-- An 8-byte store is performed for an access. -/
def perform64Via (s : State) (v : Via) (pa : Nat) (x : Word) : State := performVia s v pa (leBytes 8 x.toNat)

/-- The narrowest scope that encloses two cores (R154): 1 core, 2 die, 3 dev. -/
def scopeOf (g h : Nat) : Nat :=
  if g = h then 1 else if isAtelier g || isAtelier h then 3 else if towerOf g = towerOf h then 2 else 3

/-- A buffered byte of core g, stamped up to the mark, that a scope does not yet see from a write buffer (R158). -/
def bufHides (scope mark : Nat) (b : WByte) : Bool := decide (b.stamp ≤ mark) && (decide (2 ≤ scope) || decide (2 ≤ b.scope))

/-- A byte in a tower's outbound buffer, stamped up to the mark, that a scope does not yet see (R158): dev and sys
bytes are seen only when performed, and every byte is hidden from the other towers. -/
def outHides (scope mark : Nat) (b : WByte) : Bool := decide (b.stamp ≤ mark) && (decide (3 ≤ scope) || decide (3 ≤ b.scope))

/-- The tower through whose slices a core reaches memory: its own, or the tower an atelier core is attached to
(R345). -/
def sliceTower (s : State) (g : Nat) : Nat :=
  if isAtelier g then (g - 2048) % max 1 (towersPresent s) else towerOf g

/-- Every store that core g's threads made or read up to a mark is visible at a scope (R158, R161; log entry 10). -/
def visibleAt (s : State) (scope g mark : Nat) : Bool :=
  !((s.core g).wbuf.any fun e => e.bytes.any (bufHides scope mark)) &&
  !((s.tower (sliceTower s g)).outbound.any fun e => e.bytes.any (outHides scope mark)) &&
  !(s.remotes.any fun r => decide (r.core = g) && r.store.isSome && decide (r.stamp ≤ mark)) &&
  !(s.atoms.any fun a => decide (a.core = g) && a.reply.isNone && decide (a.stamp ≤ mark))

/-- L1 is flash-invalidated (R133, R161). -/
def flashL1 (s : State) (g : Nat) : State := s.setCore g { s.core g with l1 := [] }

/-- A new stamp or operation number. -/
def State.bump (s : State) : State := { s with serial := s.serial + 1 }

/-- A free choice below n (log entry 6): the n-th unconstrained value, and the state that has used it. -/
def freeBelow (s : State) (n : Nat) : Nat × State :=
  (Config.freeNat s.freeCtr % max 1 n, { s with freeCtr := s.freeCtr + 1 })

end Sys2Proof.Machine
end

