-- ==== Sys2Proof/WellFormed.lean ====
section
/-! DEFINITION. The decode conditions of step 2 of R21 that the fields of a word must meet: R26 to R29, R32, R33,
R41, R42 of spec/03_encoding.md, R177 of spec/11_ordering_rules.md, R242 to R249 of spec/17_vector_and_streams.md. -/

namespace Sys2Proof

/-- Why a word names no instruction: each raises ILL (R21 steps 1 and 2). -/
inductive Illegal where
  /-- Major opcode 0x00 or 0x30 to 0x3F (R30). -/
  | opcode
  /-- An unlisted function code, or a non-zero field that must be zero (R24, R31, R32). -/
  | unlisted
  /-- A scope that R26 forbids, or ord with scope plain. -/
  | scope
  /-- A register pair that is odd or g0 (R41). -/
  | pair
  /-- A fmt code the instruction does not accept (R28, R241). -/
  | format
  /-- s7 named by a predicated word (R29). -/
  | predicate
  /-- A field index that R33 does not list, or a SET of a read-only field. -/
  | field
  /-- A system register number with no register, or a write of a read-only one (R42). -/
  | sysReg
  /-- IMASK with a count of zero (R32). -/
  | maskCount
  /-- A FESET word of neither form (R177). -/
  | fesetForm
  deriving DecidableEq, Repr

/-- The first reason that applies. -/
def firstOf (p q : Option Illegal) : Option Illegal :=
  match p with
  | some r => some r
  | none => q

/-- R26: scopes 000 to 100 in the M and A formats, ord only with a scope. -/
def scopeOrd (s : BitVec 3) (o : Bool) : Option Illegal :=
  if s.toNat ≤ 4 ∧ ¬ (s = 0 ∧ o = true) then none else some .scope

/-- R26: scopes 001 to 100 in a FENCE. -/
def fenceScope (s : BitVec 3) : Option Illegal :=
  if 1 ≤ s.toNat ∧ s.toNat ≤ 4 then none else some .scope

/-- R41: the lower register of a pair is even and not g0. -/
def pairField (d : RegNo) : Option Illegal :=
  if d.toNat % 2 = 0 ∧ d ≠ 0 then none else some .pair

/-- fp32, bf16, fp16 (R28). -/
def fmtF : List Nat := [0, 1, 2]

/-- i8, i16, i32 and n8, n16, n32. -/
def fmtIN : List Nat := [3, 4, 5, 6, 7, 8]

/-- F and I. -/
def fmtFI : List Nat := [0, 1, 2, 3, 4, 5]

/-- F, I and N. -/
def fmtFIN : List Nat := [0, 1, 2, 3, 4, 5, 6, 7, 8]

/-- F, I, N and x128. -/
def fmtFINX : List Nat := [0, 1, 2, 3, 4, 5, 6, 7, 8, 9]

/-- Codes 0 to 11. -/
def fmtAll : List Nat := [0, 1, 2, 3, 4, 5, 6, 7, 8, 9, 10, 11]

/-- The destinations of VPACK's pairs (R245). -/
def fmtPack : List Nat := [1, 2, 3, 4, 6, 7]

/-- The destinations of VUNPACK's pairs (R245). -/
def fmtUnpack : List Nat := [0, 4, 5, 7, 8]

/-- R28, R241: fmt is one of the instruction's codes. -/
def inFormats (l : List Nat) (f : BitVec 4) : Option Illegal :=
  if l.contains f.toNat then none else some .format

/-- R29: a predicated word names no s7. -/
def predicate (m : Bool) (l : List (BitVec 3)) : Option Illegal :=
  if m && l.contains 7 then some .predicate else none

/-- R33: the highest field index of the instruction. -/
def fieldIndex (hi : Nat) (i : BitVec 4) : Option Illegal :=
  if i.toNat ≤ hi then none else some .field

/-- The read-only system registers CAPS, CYCLE, TIME, IDS, MODE (R303). -/
def sysReadOnly : List Nat := [0x200, 0x201, 0x202, 0x203, 0x204]

/-- The writable system registers of R303. -/
def sysWritable : List Nat :=
  [0x000, 0x001, 0x002, 0x003, 0x400, 0x401, 0x402, 0x403, 0x404, 0x405, 0x406, 0x407, 0x408, 0xC00, 0xC01]

/-- R42: SRR names an assigned register. -/
def sysRead (n : BitVec 12) : Option Illegal :=
  if sysReadOnly.contains n.toNat || sysWritable.contains n.toNat then none else some .sysReg

/-- R42: SRW, SRS and SRC name an assigned register with RO = 0. -/
def sysWrite (n : BitVec 12) : Option Illegal :=
  if sysWritable.contains n.toNat then none else some .sysReg

/-- The decode conditions of every instruction; an event of the part has no word and none (step 2 of R21). -/
def Instr.check : Instr → Option Illegal
  | .add _ => none
  | .sub _ => none
  | .and _ => none
  | .or _ => none
  | .xor _ => none
  | .andn _ => none
  | .orn _ => none
  | .xnor _ => none
  | .sll _ => none
  | .srl _ => none
  | .sra _ => none
  | .rol _ => none
  | .ror _ => none
  | .slt _ => none
  | .sltu _ => none
  | .min _ => none
  | .max _ => none
  | .minu _ => none
  | .maxu _ => none
  | .mul _ => none
  | .mulh _ => none
  | .mulhu _ => none
  | .mulhsu _ => none
  | .div _ => none
  | .divu _ => none
  | .rem _ => none
  | .remu _ => none
  | .addw _ => none
  | .subw _ => none
  | .mulw _ => none
  | .sllw _ => none
  | .srlw _ => none
  | .sraw _ => none
  | .clz _ => none
  | .ctz _ => none
  | .popc _ => none
  | .brev _ => none
  | .bswap _ => none
  | .sextb _ => none
  | .sexth _ => none
  | .sextw _ => none
  | .zextw _ => none
  | .csel _ => none
  | .hmov _ => none
  | .fadd _ => none
  | .fsub _ => none
  | .fmul _ => none
  | .fdiv _ => none
  | .fsqrt _ => none
  | .fma _ => none
  | .fmin _ => none
  | .fmax _ => none
  | .feq _ => none
  | .flt _ => none
  | .fle _ => none
  | .fclass _ => none
  | .ftoi _ => none
  | .ftoiu _ => none
  | .itof _ => none
  | .itofu _ => none
  | .ftobf _ => none
  | .bftof _ => none
  | .ftoh _ => none
  | .htof _ => none
  | .fneg _ => none
  | .fabs _ => none
  | .addi _ => none
  | .andi _ => none
  | .ori _ => none
  | .xori _ => none
  | .slti _ => none
  | .sltiu _ => none
  | .addiw _ => none
  | .slli _ => none
  | .srli _ => none
  | .srai _ => none
  | .roli _ => none
  | .lui _ => none
  | .auipc _ => none
  | .jal _ => none
  | .jalr _ => none
  | .jt _ => none
  | .beq _ => none
  | .bne _ => none
  | .blt _ => none
  | .bge _ => none
  | .bltu _ => none
  | .bgeu _ => none
  | .lb o => scopeOrd o.s o.o
  | .lbu o => scopeOrd o.s o.o
  | .lh o => scopeOrd o.s o.o
  | .lhu o => scopeOrd o.s o.o
  | .lw o => scopeOrd o.s o.o
  | .lwu o => scopeOrd o.s o.o
  | .ld o => scopeOrd o.s o.o
  | .lq o => firstOf (scopeOrd o.s o.o) (pairField o.d)
  | .sb o => scopeOrd o.s o.o
  | .sh o => scopeOrd o.s o.o
  | .sw o => scopeOrd o.s o.o
  | .sd o => scopeOrd o.s o.o
  | .sq o => firstOf (scopeOrd o.s o.o) (pairField o.d)
  | .amowSwap o => scopeOrd o.s o.o
  | .amowAdd o => scopeOrd o.s o.o
  | .amowAnd o => scopeOrd o.s o.o
  | .amowOr o => scopeOrd o.s o.o
  | .amowXor o => scopeOrd o.s o.o
  | .amowMin o => scopeOrd o.s o.o
  | .amowMax o => scopeOrd o.s o.o
  | .amowMinu o => scopeOrd o.s o.o
  | .amowMaxu o => scopeOrd o.s o.o
  | .amowCas o => scopeOrd o.s o.o
  | .amowAddbnd o => scopeOrd o.s o.o
  | .amowFadd o => scopeOrd o.s o.o
  | .amodSwap o => scopeOrd o.s o.o
  | .amodAdd o => scopeOrd o.s o.o
  | .amodAnd o => scopeOrd o.s o.o
  | .amodOr o => scopeOrd o.s o.o
  | .amodXor o => scopeOrd o.s o.o
  | .amodMin o => scopeOrd o.s o.o
  | .amodMax o => scopeOrd o.s o.o
  | .amodMinu o => scopeOrd o.s o.o
  | .amodMaxu o => scopeOrd o.s o.o
  | .amodCas o => scopeOrd o.s o.o
  | .amodAddbnd o => scopeOrd o.s o.o
  | .take _ => none
  | .put _ => none
  | .trytake o => pairField o.d
  | .feget _ => none
  | .feset o => if o.a = 0 then some .fesetForm else none
  | .fesetRegister o => if o.d = 0 then some .fesetForm else none
  | .wait _ => none
  | .waita _ => none
  | .waitna _ => none
  | .imask o => if o.n = 0 then some .maskCount else none
  | .fenceAcq o => fenceScope o.s
  | .fenceRel o => fenceScope o.s
  | .fenceAr o => fenceScope o.s
  | .fenceSc o => fenceScope o.s
  | .tid _ => none
  | .start _ => none
  | .reap _ => none
  | .ctxput _ => none
  | .ctxget _ => none
  | .fork _ => none
  | .retf _ => none
  | .fwait _ => none
  | .enq _ => none
  | .join _ => none
  | .leave _ => none
  | .bar _ => none
  | .bara _ => none
  | .barw _ => none
  | .glaze _ => none
  | .glstat _ => none
  | .glcancel _ => none
  | .chnew o => pairField o.d
  | .send _ => none
  | .recv o => pairField o.d
  | .rpoll _ => none
  | .chclose _ => none
  | .charm _ => none
  | .chdisarm _ => none
  | .chstat _ => none
  | .vadd o => firstOf (inFormats fmtFINX o.f) (predicate o.m [o.d, o.a, o.b])
  | .vsub o => firstOf (inFormats fmtFINX o.f) (predicate o.m [o.d, o.a, o.b])
  | .vmul o => firstOf (inFormats fmtFIN o.f) (predicate o.m [o.d, o.a, o.b])
  | .vfma o => firstOf (inFormats fmtFIN o.f) (predicate o.m [o.d, o.a, o.b, o.c])
  | .vdiv o => firstOf (inFormats fmtFIN o.f) (predicate o.m [o.d, o.a, o.b])
  | .vmin o => firstOf (inFormats fmtFIN o.f) (predicate o.m [o.d, o.a, o.b])
  | .vmax o => firstOf (inFormats fmtFIN o.f) (predicate o.m [o.d, o.a, o.b])
  | .vabs o => firstOf (inFormats fmtFI o.f) (predicate o.m [o.d, o.a])
  | .vneg o => firstOf (inFormats fmtFI o.f) (predicate o.m [o.d, o.a])
  | .vsqrt o => firstOf (inFormats fmtF o.f) (predicate o.m [o.d, o.a])
  | .vrcp o => firstOf (inFormats fmtF o.f) (predicate o.m [o.d, o.a])
  | .vexp2 o => firstOf (inFormats fmtF o.f) (predicate o.m [o.d, o.a])
  | .vadds o => firstOf (inFormats fmtIN o.f) (predicate o.m [o.d, o.a, o.b])
  | .vsubs o => firstOf (inFormats fmtIN o.f) (predicate o.m [o.d, o.a, o.b])
  | .vmulhi o => firstOf (inFormats fmtIN o.f) (predicate o.m [o.d, o.a, o.b])
  | .vshl o => firstOf (inFormats fmtIN o.f) (predicate o.m [o.d, o.a, o.b])
  | .vshr o => firstOf (inFormats fmtIN o.f) (predicate o.m [o.d, o.a, o.b])
  | .vsra o => firstOf (inFormats fmtIN o.f) (predicate o.m [o.d, o.a, o.b])
  | .vand o => firstOf (inFormats fmtAll o.f) (predicate o.m [o.d, o.a, o.b])
  | .vor o => firstOf (inFormats fmtAll o.f) (predicate o.m [o.d, o.a, o.b])
  | .vxor o => firstOf (inFormats fmtAll o.f) (predicate o.m [o.d, o.a, o.b])
  | .vcmpeq o => firstOf (inFormats fmtFIN o.f) (predicate o.m [o.d, o.a, o.b])
  | .vcmplt o => firstOf (inFormats fmtFIN o.f) (predicate o.m [o.d, o.a, o.b])
  | .vcmple o => firstOf (inFormats fmtFIN o.f) (predicate o.m [o.d, o.a, o.b])
  | .vsel o => firstOf (inFormats fmtAll o.f) (predicate o.m [o.d, o.a, o.b, o.c])
  | .vcvt o => firstOf (inFormats fmtFIN o.f) (predicate o.m [o.d, o.a])
  | .vpack o => firstOf (inFormats fmtPack o.f) (predicate o.m [o.d, o.a, o.b])
  | .vunpack o => firstOf (inFormats fmtUnpack o.f) (predicate o.m [o.d, o.a])
  | .vradd o => firstOf (inFormats fmtFIN o.f) (predicate o.m [o.d, o.a])
  | .vrmax o => firstOf (inFormats fmtFIN o.f) (predicate o.m [o.d, o.a])
  | .vrmin o => firstOf (inFormats fmtFIN o.f) (predicate o.m [o.d, o.a])
  | .vsacc o => predicate o.m [o.d, o.a, o.b, o.c]
  | .vxacc o => predicate o.m [o.d, o.a, o.b, o.c]
  | .vxcvt o => predicate o.m [o.d, o.a]
  | .vcopy o => firstOf (inFormats fmtAll o.f) (predicate o.m [o.d, o.a])
  | .vperm o => firstOf (inFormats fmtFIN o.f) (predicate o.m [o.d, o.a, o.b])
  | .strrew _ => none
  | .stradv _ => none
  | .vsplat _ => none
  | .tbind _ => none
  | .tfree _ => none
  | .tmma _ => none
  | .tzero _ => none
  | .tload _ => none
  | .tstore _ => none
  | .twait _ => none
  | .tpeek _ => none
  | .ringpush _ => none
  | .ringpop _ => none
  | .cpgo _ => none
  | .cpstat _ => none
  | .cpabort _ => none
  | .l2pf _ => none
  | .l2disc _ => none
  | .l2zero _ => none
  | .cflush _ => none
  | .tlbinv _ => none
  | .srr o => sysRead o.n
  | .srw o => sysWrite o.n
  | .srs o => sysWrite o.n
  | .src o => sysWrite o.n
  | .repart _ => none
  | .carve _ => none
  | .preempt _ => none
  | .resume _ => none
  | .strset o => fieldIndex 12 o.i
  | .strget o => fieldIndex 12 o.i
  | .tset o => fieldIndex 5 o.i
  | .tget o => fieldIndex 7 o.i
  | .ringset o => fieldIndex 4 o.i
  | .ringget o => fieldIndex 4 o.i
  | .cpset o => fieldIndex 10 o.i
  | .cpget o => fieldIndex 10 o.i
  | .illegalWord _ => none
  | .fetchWordArrival _ _ => none
  | .parkedReexecute _ _ => none
  | .longLatencyFill _ _ => none
  | .loadDataArrival _ _ _ => none
  | .yieldHoldExpiry _ _ => none
  | .engineDeferredTrap _ _ => none
  | .arrivalInterruptEntry _ _ => none
  | .dispatchFill _ _ _ _ => none
  | .dispatchRetryExpiry _ => none
  | .stealRequestReceive _ _ => none
  | .stealAnswerReceive _ => none
  | .barrierArrivalAtHome _ => none
  | .barrierWake _ _ => none
  | .fwaitWake _ _ => none
  | .writeBufferDrain _ _ => none
  | .outboundDelivery _ _ => none
  | .pageWalk _ _ => none
  | .prefetchProgress _ => none
  | .escalationDrainRequest _ => none
  | .escalationAnswer _ => none
  | .atomicAtHome _ => none
  | .atomicReplyFill _ => none
  | .feOpAtOwner _ => none
  | .feResultFill _ => none
  | .takeRetryExpiry _ _ => none
  | .waitaReread _ _ => none
  | .waitWake _ _ => none
  | .channelWordDelivery _ _ => none
  | .recvFill _ => none
  | .creditBatchReceive _ => none
  | .chnewReply _ _ => none
  | .chstatReply _ _ => none
  | .moveRequest _ => none
  | .forwardOrder _ => none
  | .retarget _ => none
  | .retargetAnswer _ => none
  | .relocationComplete _ => none
  | .sendStateFlush _ => none
  | .sendStateFetchReply _ => none
  | .closureAtAnchor _ => none
  | .deadlockProbeStart _ _ => none
  | .probeHop _ => none
  | .peerUnreachable _ => none
  | .vectorExecutionStart _ => none
  | .vectorCompletion _ => none
  | .kstepLoadStart _ => none
  | .kstepComplete _ => none
  | .tmmaRetire _ => none
  | .copyRun _ => none
  | .copyCompletion _ _ => none
  | .faultRecordDeferredPost _ => none
  | .contextSave _ => none
  | .packetWaitExpiry _ => none
  | .deferredSaveRetry _ => none
  | .contextRestore _ _ => none
  | .groupOfferTimeout _ _ _ => none
  | .groupRetirement _ _ _ => none
  | .gridCompletionStore _ _ => none
  | .treqReceive _ => none
  | .tokReceive _ => none
  | .dmarkReceive _ => none
  | .treqTimeout _ _ => none
  | .preqReceive _ => none
  | .pactReceive _ => none
  | .pdeactReceive _ => none
  | .packReceive _ => none
  | .pdoneReceive _ => none
  | .censusReceive _ => none
  | .censusScan _ _ => none
  | .flitResend _ _ _ => none
  | .linkFailure _ _ => none
  | .checkpointIntervalExpiry _ => none
  | .checkpointStored _ _ => none
  | .beforeImageCopy _ _ => none
  | .towerResetTrigger _ _ => none
  | .rmaWrite _ => none
  | .rmaWriteAck _ => none
  | .rmaRead _ => none
  | .unsupportedRequest _ => none
  | .openReq _ => none
  | .closeReq _ => none
  | .resetReq _ => none
  | .registerReq _ => none
  | .deregisterReq _ => none
  | .mapqReq _ => none
  | .freeqReq _ => none
  | .mapReq _ => none
  | .loadReq _ => none
  | .launchReq _ => none
  | .guardReq _ => none
  | .checkpointReq _ => none
  | .attestReq _ => none
  | .peerReq _ => none
  | .targetReq _ => none
  | .updateReq _ => none
  | .easelTailNotify _ => none
  | .easelDispatch _ => none
  | .easelHoldbackExpiry _ => none
  | .queueRemap _ => none
  | .bedMoveGraceExpiry _ _ => none
  | .bedMoveFinish _ _ => none
  | .guardctlWrite _ _ => none
  | .ckptreqWrite _ _ => none
  | .resetreqWrite _ _ => none
  | .bedctlWrite _ _ _ => none
  | .ptrootWrite _ _ => none
  | .vtmapWrite _ _ => none
  | .waymaskWrite _ _ => none
  | .quantumWrite _ _ => none
  | .ectlWrite _ _ => none
  | .deviceRegisterWrite _ _ _ => none
  | .voltageDerate _ => none
  | .voltagePowerOff _ => none
  | .thermalHold _ _ => none
  | .thermalRelease _ _ => none
  | .remoteWindowAccess _ => none
  | .queueIdleExpiry _ => none
  | .inputVoltageNormal _ => none
  | .iunmask => none
  | .iret => none
  | .exit => none
  | .yield => none
  | .trap => none
  | .eret => none
  | .breakI => none
  | .halt => none
  | .partitionEvaluation => none
  | .powerOnBoot => none

/-- The instruction meets its decode conditions. -/
def Instr.WellFormed (i : Instr) : Prop := i.check = none

end Sys2Proof
end

