-- ==== Sys2Proof/Decode.lean ====
section
/-! DEFINITION. The decoder and the encoder of instruction words (R20 to R34 of spec/03_encoding.md). A word is
taken as a natural number; a field is a quotient and a remainder by powers of two. -/

namespace Sys2Proof

/-- n bits of the word from bit lo up. -/
def fld (lo n w : Nat) : BitVec n := BitVec.ofNat n (w / 2 ^ lo)

/-- Bit lo of the word. -/
def bit (lo w : Nat) : Bool := decide (w / 2 ^ lo % 2 = 1)

/-- The fields of an instruction of this shape in a word (R22). -/
def R3.ofWord (w : Nat) : R3 := ⟨fld 20 6 w, fld 14 6 w, fld 8 6 w, bit 7 w, bit 6 w⟩

/-- The fields of an instruction of this shape in a word (R22). -/
def R2.ofWord (w : Nat) : R2 := ⟨fld 20 6 w, fld 14 6 w, bit 7 w⟩

/-- The fields of an instruction of this shape in a word (R22). -/
def Rab.ofWord (w : Nat) : Rab := ⟨fld 14 6 w, fld 8 6 w, bit 7 w, bit 6 w⟩

/-- The fields of an instruction of this shape in a word (R22). -/
def Ra.ofWord (w : Nat) : Ra := ⟨fld 14 6 w, bit 7 w⟩

/-- The fields of an instruction of this shape in a word (R22). -/
def Rd.ofWord (w : Nat) : Rd := ⟨fld 20 6 w⟩

/-- The fields of an instruction of this shape in a word (R22). -/
def Imm.ofWord (w : Nat) : Imm := ⟨fld 20 6 w, fld 14 6 w, bit 13 w, fld 0 13 w⟩

/-- The fields of an instruction of this shape in a word (R22). -/
def Shi.ofWord (w : Nat) : Shi := ⟨fld 20 6 w, fld 14 6 w, bit 13 w, fld 0 6 w⟩

/-- The fields of an instruction of this shape in a word (R22). -/
def Up.ofWord (w : Nat) : Up := ⟨fld 20 6 w, fld 0 20 w⟩

/-- The fields of an instruction of this shape in a word (R22). -/
def Jt.ofWord (w : Nat) : Jt := ⟨fld 20 6 w, fld 14 6 w, bit 13 w, bit 12 w, fld 0 12 w⟩

/-- The fields of an instruction of this shape in a word (R22). -/
def Br.ofWord (w : Nat) : Br := ⟨fld 20 6 w, fld 14 6 w, bit 13 w, bit 12 w, fld 0 12 w⟩

/-- The fields of an instruction of this shape in a word (R22). -/
def Ld.ofWord (w : Nat) : Ld := ⟨fld 20 6 w, fld 14 6 w, bit 13 w, fld 9 3 w, bit 8 w, fld 0 8 w⟩

/-- The fields of an instruction of this shape in a word (R22). -/
def St.ofWord (w : Nat) : St := ⟨fld 20 6 w, fld 14 6 w, bit 13 w, bit 12 w, fld 9 3 w, bit 8 w, fld 0 8 w⟩

/-- The fields of an instruction of this shape in a word (R22). -/
def Am.ofWord (w : Nat) : Am := ⟨fld 20 6 w, fld 14 6 w, fld 8 6 w, fld 5 3 w, bit 4 w⟩

/-- The fields of an instruction of this shape in a word (R22). -/
def Cnt.ofWord (w : Nat) : Cnt := ⟨fld 8 6 w⟩

/-- The fields of an instruction of this shape in a word (R22). -/
def X3.ofWord (w : Nat) : X3 := ⟨fld 20 6 w, fld 14 6 w, fld 8 6 w⟩

/-- The fields of an instruction of this shape in a word (R22). -/
def Snd.ofWord (w : Nat) : Snd := ⟨fld 20 6 w, fld 14 6 w, fld 8 6 w, bit 0 w⟩

/-- The fields of an instruction of this shape in a word (R22). -/
def X2.ofWord (w : Nat) : X2 := ⟨fld 20 6 w, fld 14 6 w⟩

/-- The fields of an instruction of this shape in a word (R22). -/
def V3.ofWord (w : Nat) : V3 := ⟨fld 23 3 w, fld 20 3 w, fld 17 3 w, fld 10 4 w, bit 3 w⟩

/-- The fields of an instruction of this shape in a word (R22). -/
def V4.ofWord (w : Nat) : V4 := ⟨fld 23 3 w, fld 20 3 w, fld 17 3 w, fld 14 3 w, fld 10 4 w, bit 3 w⟩

/-- The fields of an instruction of this shape in a word (R22). -/
def V2.ofWord (w : Nat) : V2 := ⟨fld 23 3 w, fld 20 3 w, fld 10 4 w, bit 3 w⟩

/-- The fields of an instruction of this shape in a word (R22). -/
def Va.ofWord (w : Nat) : Va := ⟨fld 23 3 w, fld 20 3 w, fld 17 3 w, fld 14 3 w, bit 3 w⟩

/-- The fields of an instruction of this shape in a word (R22). -/
def Vx.ofWord (w : Nat) : Vx := ⟨fld 23 3 w, fld 20 3 w, bit 3 w⟩

/-- The fields of an instruction of this shape in a word (R22). -/
def Sg.ofWord (w : Nat) : Sg := ⟨fld 20 6 w, fld 17 3 w⟩

/-- The fields of an instruction of this shape in a word (R22). -/
def Srd.ofWord (w : Nat) : Srd := ⟨fld 20 6 w, fld 8 12 w⟩

/-- The fields of an instruction of this shape in a word (R22). -/
def Swr.ofWord (w : Nat) : Swr := ⟨fld 20 6 w, fld 8 12 w, bit 7 w⟩

/-- The fields of an instruction of this shape in a word (R22). -/
def Fld.ofWord (w : Nat) : Fld := ⟨fld 20 6 w, fld 17 3 w, fld 13 4 w⟩

/-- The fields of an instruction of this shape in a word (R22). -/
def Fone.ofWord (w : Nat) : Fone := ⟨fld 20 6 w, fld 13 4 w⟩

/-- The scope field of FENCE (R22). -/
def Fn.ofFence (w : Nat) : Fn := ⟨fld 23 3 w⟩

/-- The sel field of STRREW, which names the stream (R32). -/
def Fn.ofStrm (w : Nat) : Fn := ⟨fld 17 3 w⟩

/-- One row of the opcode map: the fixed fields (low bit, width, value) and the instruction read from the rest. -/
structure Row where
  fixed : List (Nat × Nat × Nat)
  build : Nat → Instr

/-- The fixed fields of the row are those of the word. -/
def Row.hit (r : Row) (w : Nat) : Bool :=
  r.fixed.all fun p => decide (w / 2 ^ p.1 % 2 ^ p.2.1 = p.2.2)

/-- The words of OP (R31). -/
def rowsOp : List Row := [
  ⟨[(26, 6, 1), (0, 6, 0)], fun w => .add (.ofWord w)⟩,
  ⟨[(26, 6, 1), (0, 6, 1)], fun w => .sub (.ofWord w)⟩,
  ⟨[(26, 6, 1), (0, 6, 2)], fun w => .and (.ofWord w)⟩,
  ⟨[(26, 6, 1), (0, 6, 3)], fun w => .or (.ofWord w)⟩,
  ⟨[(26, 6, 1), (0, 6, 4)], fun w => .xor (.ofWord w)⟩,
  ⟨[(26, 6, 1), (0, 6, 5)], fun w => .andn (.ofWord w)⟩,
  ⟨[(26, 6, 1), (0, 6, 6)], fun w => .orn (.ofWord w)⟩,
  ⟨[(26, 6, 1), (0, 6, 7)], fun w => .xnor (.ofWord w)⟩,
  ⟨[(26, 6, 1), (0, 6, 8)], fun w => .sll (.ofWord w)⟩,
  ⟨[(26, 6, 1), (0, 6, 9)], fun w => .srl (.ofWord w)⟩,
  ⟨[(26, 6, 1), (0, 6, 0xa)], fun w => .sra (.ofWord w)⟩,
  ⟨[(26, 6, 1), (0, 6, 0xb)], fun w => .rol (.ofWord w)⟩,
  ⟨[(26, 6, 1), (0, 6, 0xc)], fun w => .ror (.ofWord w)⟩,
  ⟨[(26, 6, 1), (0, 6, 0xd)], fun w => .slt (.ofWord w)⟩,
  ⟨[(26, 6, 1), (0, 6, 0xe)], fun w => .sltu (.ofWord w)⟩,
  ⟨[(26, 6, 1), (0, 6, 0xf)], fun w => .min (.ofWord w)⟩,
  ⟨[(26, 6, 1), (0, 6, 0x10)], fun w => .max (.ofWord w)⟩,
  ⟨[(26, 6, 1), (0, 6, 0x11)], fun w => .minu (.ofWord w)⟩,
  ⟨[(26, 6, 1), (0, 6, 0x12)], fun w => .maxu (.ofWord w)⟩,
  ⟨[(26, 6, 1), (0, 6, 0x13)], fun w => .mul (.ofWord w)⟩,
  ⟨[(26, 6, 1), (0, 6, 0x14)], fun w => .mulh (.ofWord w)⟩,
  ⟨[(26, 6, 1), (0, 6, 0x15)], fun w => .mulhu (.ofWord w)⟩,
  ⟨[(26, 6, 1), (0, 6, 0x16)], fun w => .mulhsu (.ofWord w)⟩,
  ⟨[(26, 6, 1), (0, 6, 0x17)], fun w => .div (.ofWord w)⟩,
  ⟨[(26, 6, 1), (0, 6, 0x18)], fun w => .divu (.ofWord w)⟩,
  ⟨[(26, 6, 1), (0, 6, 0x19)], fun w => .rem (.ofWord w)⟩,
  ⟨[(26, 6, 1), (0, 6, 0x1a)], fun w => .remu (.ofWord w)⟩,
  ⟨[(26, 6, 1), (0, 6, 0x1b)], fun w => .addw (.ofWord w)⟩,
  ⟨[(26, 6, 1), (0, 6, 0x1c)], fun w => .subw (.ofWord w)⟩,
  ⟨[(26, 6, 1), (0, 6, 0x1d)], fun w => .mulw (.ofWord w)⟩,
  ⟨[(26, 6, 1), (0, 6, 0x1e)], fun w => .sllw (.ofWord w)⟩,
  ⟨[(26, 6, 1), (0, 6, 0x1f)], fun w => .srlw (.ofWord w)⟩,
  ⟨[(26, 6, 1), (0, 6, 0x20)], fun w => .sraw (.ofWord w)⟩,
  ⟨[(26, 6, 1), (8, 6, 0), (0, 7, 0x21)], fun w => .clz (.ofWord w)⟩,
  ⟨[(26, 6, 1), (8, 6, 0), (0, 7, 0x22)], fun w => .ctz (.ofWord w)⟩,
  ⟨[(26, 6, 1), (8, 6, 0), (0, 7, 0x23)], fun w => .popc (.ofWord w)⟩,
  ⟨[(26, 6, 1), (8, 6, 0), (0, 7, 0x24)], fun w => .brev (.ofWord w)⟩,
  ⟨[(26, 6, 1), (8, 6, 0), (0, 7, 0x25)], fun w => .bswap (.ofWord w)⟩,
  ⟨[(26, 6, 1), (8, 6, 0), (0, 7, 0x26)], fun w => .sextb (.ofWord w)⟩,
  ⟨[(26, 6, 1), (8, 6, 0), (0, 7, 0x27)], fun w => .sexth (.ofWord w)⟩,
  ⟨[(26, 6, 1), (8, 6, 0), (0, 7, 0x28)], fun w => .sextw (.ofWord w)⟩,
  ⟨[(26, 6, 1), (8, 6, 0), (0, 7, 0x29)], fun w => .zextw (.ofWord w)⟩,
  ⟨[(26, 6, 1), (0, 6, 0x2a)], fun w => .csel (.ofWord w)⟩,
  ⟨[(26, 6, 1), (8, 6, 0), (0, 7, 0x2b)], fun w => .hmov (.ofWord w)⟩]

/-- The words of FP (R31). -/
def rowsFp : List Row := [
  ⟨[(26, 6, 2), (0, 6, 0)], fun w => .fadd (.ofWord w)⟩,
  ⟨[(26, 6, 2), (0, 6, 1)], fun w => .fsub (.ofWord w)⟩,
  ⟨[(26, 6, 2), (0, 6, 2)], fun w => .fmul (.ofWord w)⟩,
  ⟨[(26, 6, 2), (0, 6, 3)], fun w => .fdiv (.ofWord w)⟩,
  ⟨[(26, 6, 2), (8, 6, 0), (0, 7, 4)], fun w => .fsqrt (.ofWord w)⟩,
  ⟨[(26, 6, 2), (0, 6, 5)], fun w => .fma (.ofWord w)⟩,
  ⟨[(26, 6, 2), (0, 6, 6)], fun w => .fmin (.ofWord w)⟩,
  ⟨[(26, 6, 2), (0, 6, 7)], fun w => .fmax (.ofWord w)⟩,
  ⟨[(26, 6, 2), (0, 6, 8)], fun w => .feq (.ofWord w)⟩,
  ⟨[(26, 6, 2), (0, 6, 9)], fun w => .flt (.ofWord w)⟩,
  ⟨[(26, 6, 2), (0, 6, 0xa)], fun w => .fle (.ofWord w)⟩,
  ⟨[(26, 6, 2), (8, 6, 0), (0, 7, 0xb)], fun w => .fclass (.ofWord w)⟩,
  ⟨[(26, 6, 2), (8, 6, 0), (0, 7, 0xc)], fun w => .ftoi (.ofWord w)⟩,
  ⟨[(26, 6, 2), (8, 6, 0), (0, 7, 0xd)], fun w => .ftoiu (.ofWord w)⟩,
  ⟨[(26, 6, 2), (8, 6, 0), (0, 7, 0xe)], fun w => .itof (.ofWord w)⟩,
  ⟨[(26, 6, 2), (8, 6, 0), (0, 7, 0xf)], fun w => .itofu (.ofWord w)⟩,
  ⟨[(26, 6, 2), (8, 6, 0), (0, 7, 0x10)], fun w => .ftobf (.ofWord w)⟩,
  ⟨[(26, 6, 2), (8, 6, 0), (0, 7, 0x11)], fun w => .bftof (.ofWord w)⟩,
  ⟨[(26, 6, 2), (8, 6, 0), (0, 7, 0x12)], fun w => .ftoh (.ofWord w)⟩,
  ⟨[(26, 6, 2), (8, 6, 0), (0, 7, 0x13)], fun w => .htof (.ofWord w)⟩,
  ⟨[(26, 6, 2), (8, 6, 0), (0, 7, 0x14)], fun w => .fneg (.ofWord w)⟩,
  ⟨[(26, 6, 2), (8, 6, 0), (0, 7, 0x15)], fun w => .fabs (.ofWord w)⟩]

/-- The words of the immediate, jump and branch opcodes (R30, R32). -/
def rowsImm : List Row := [
  ⟨[(26, 6, 3)], fun w => .addi (.ofWord w)⟩,
  ⟨[(26, 6, 4)], fun w => .andi (.ofWord w)⟩,
  ⟨[(26, 6, 5)], fun w => .ori (.ofWord w)⟩,
  ⟨[(26, 6, 6)], fun w => .xori (.ofWord w)⟩,
  ⟨[(26, 6, 7)], fun w => .slti (.ofWord w)⟩,
  ⟨[(26, 6, 8)], fun w => .sltiu (.ofWord w)⟩,
  ⟨[(26, 6, 0xa)], fun w => .addiw (.ofWord w)⟩,
  ⟨[(26, 6, 9), (6, 7, 0)], fun w => .slli (.ofWord w)⟩,
  ⟨[(26, 6, 9), (6, 7, 0x20)], fun w => .srli (.ofWord w)⟩,
  ⟨[(26, 6, 9), (6, 7, 0x40)], fun w => .srai (.ofWord w)⟩,
  ⟨[(26, 6, 9), (6, 7, 0x60)], fun w => .roli (.ofWord w)⟩,
  ⟨[(26, 6, 0xb)], fun w => .lui (.ofWord w)⟩,
  ⟨[(26, 6, 0xc)], fun w => .auipc (.ofWord w)⟩,
  ⟨[(26, 6, 0xd)], fun w => .jal (.ofWord w)⟩,
  ⟨[(26, 6, 0xe)], fun w => .jalr (.ofWord w)⟩,
  ⟨[(26, 6, 0xf)], fun w => .jt (.ofWord w)⟩,
  ⟨[(26, 6, 0x10)], fun w => .beq (.ofWord w)⟩,
  ⟨[(26, 6, 0x11)], fun w => .bne (.ofWord w)⟩,
  ⟨[(26, 6, 0x12)], fun w => .blt (.ofWord w)⟩,
  ⟨[(26, 6, 0x13)], fun w => .bge (.ofWord w)⟩,
  ⟨[(26, 6, 0x14)], fun w => .bltu (.ofWord w)⟩,
  ⟨[(26, 6, 0x15)], fun w => .bgeu (.ofWord w)⟩]

/-- The words of loads and stores (R30). -/
def rowsMem : List Row := [
  ⟨[(26, 6, 0x16), (12, 1, 0)], fun w => .lb (.ofWord w)⟩,
  ⟨[(26, 6, 0x17), (12, 1, 0)], fun w => .lbu (.ofWord w)⟩,
  ⟨[(26, 6, 0x18), (12, 1, 0)], fun w => .lh (.ofWord w)⟩,
  ⟨[(26, 6, 0x19), (12, 1, 0)], fun w => .lhu (.ofWord w)⟩,
  ⟨[(26, 6, 0x1a), (12, 1, 0)], fun w => .lw (.ofWord w)⟩,
  ⟨[(26, 6, 0x1b), (12, 1, 0)], fun w => .lwu (.ofWord w)⟩,
  ⟨[(26, 6, 0x1c), (12, 1, 0)], fun w => .ld (.ofWord w)⟩,
  ⟨[(26, 6, 0x1d), (12, 1, 0)], fun w => .lq (.ofWord w)⟩,
  ⟨[(26, 6, 0x1e)], fun w => .sb (.ofWord w)⟩,
  ⟨[(26, 6, 0x1f)], fun w => .sh (.ofWord w)⟩,
  ⟨[(26, 6, 0x20)], fun w => .sw (.ofWord w)⟩,
  ⟨[(26, 6, 0x21)], fun w => .sd (.ofWord w)⟩,
  ⟨[(26, 6, 0x22)], fun w => .sq (.ofWord w)⟩]

/-- The words of AMOW (R32). -/
def rowsAmow : List Row := [
  ⟨[(26, 6, 0x23), (0, 4, 0)], fun w => .amowSwap (.ofWord w)⟩,
  ⟨[(26, 6, 0x23), (0, 4, 1)], fun w => .amowAdd (.ofWord w)⟩,
  ⟨[(26, 6, 0x23), (0, 4, 2)], fun w => .amowAnd (.ofWord w)⟩,
  ⟨[(26, 6, 0x23), (0, 4, 3)], fun w => .amowOr (.ofWord w)⟩,
  ⟨[(26, 6, 0x23), (0, 4, 4)], fun w => .amowXor (.ofWord w)⟩,
  ⟨[(26, 6, 0x23), (0, 4, 5)], fun w => .amowMin (.ofWord w)⟩,
  ⟨[(26, 6, 0x23), (0, 4, 6)], fun w => .amowMax (.ofWord w)⟩,
  ⟨[(26, 6, 0x23), (0, 4, 7)], fun w => .amowMinu (.ofWord w)⟩,
  ⟨[(26, 6, 0x23), (0, 4, 8)], fun w => .amowMaxu (.ofWord w)⟩,
  ⟨[(26, 6, 0x23), (0, 4, 9)], fun w => .amowCas (.ofWord w)⟩,
  ⟨[(26, 6, 0x23), (0, 4, 0xa)], fun w => .amowAddbnd (.ofWord w)⟩,
  ⟨[(26, 6, 0x23), (0, 4, 0xb)], fun w => .amowFadd (.ofWord w)⟩]

/-- The words of AMOD (R32). -/
def rowsAmod : List Row := [
  ⟨[(26, 6, 0x24), (0, 4, 0)], fun w => .amodSwap (.ofWord w)⟩,
  ⟨[(26, 6, 0x24), (0, 4, 1)], fun w => .amodAdd (.ofWord w)⟩,
  ⟨[(26, 6, 0x24), (0, 4, 2)], fun w => .amodAnd (.ofWord w)⟩,
  ⟨[(26, 6, 0x24), (0, 4, 3)], fun w => .amodOr (.ofWord w)⟩,
  ⟨[(26, 6, 0x24), (0, 4, 4)], fun w => .amodXor (.ofWord w)⟩,
  ⟨[(26, 6, 0x24), (0, 4, 5)], fun w => .amodMin (.ofWord w)⟩,
  ⟨[(26, 6, 0x24), (0, 4, 6)], fun w => .amodMax (.ofWord w)⟩,
  ⟨[(26, 6, 0x24), (0, 4, 7)], fun w => .amodMinu (.ofWord w)⟩,
  ⟨[(26, 6, 0x24), (0, 4, 8)], fun w => .amodMaxu (.ofWord w)⟩,
  ⟨[(26, 6, 0x24), (0, 4, 9)], fun w => .amodCas (.ofWord w)⟩,
  ⟨[(26, 6, 0x24), (0, 4, 0xa)], fun w => .amodAddbnd (.ofWord w)⟩]

/-- The words of SYNC (R32). -/
def rowsSync : List Row := [
  ⟨[(26, 6, 0x25), (8, 6, 0), (0, 7, 0)], fun w => .take (.ofWord w)⟩,
  ⟨[(20, 12, 0x940), (0, 6, 1)], fun w => .put (.ofWord w)⟩,
  ⟨[(26, 6, 0x25), (8, 6, 0), (0, 7, 2)], fun w => .trytake (.ofWord w)⟩,
  ⟨[(26, 6, 0x25), (8, 6, 0), (0, 7, 3)], fun w => .feget (.ofWord w)⟩,
  ⟨[(20, 12, 0x940), (0, 6, 4)], fun w => .feset (.ofWord w)⟩,
  ⟨[(26, 6, 0x25), (0, 20, 4)], fun w => .fesetRegister (.ofWord w)⟩,
  ⟨[(26, 6, 0x25), (8, 6, 0), (0, 7, 5)], fun w => .wait (.ofWord w)⟩,
  ⟨[(26, 6, 0x25), (0, 6, 6)], fun w => .waita (.ofWord w)⟩,
  ⟨[(26, 6, 0x25), (0, 6, 7)], fun w => .waitna (.ofWord w)⟩,
  ⟨[(14, 18, 0x25000), (0, 8, 8)], fun w => .imask (.ofWord w)⟩,
  ⟨[(0, 32, 0x94000009)], fun _ => .iunmask⟩,
  ⟨[(0, 32, 0x9400000a)], fun _ => .iret⟩]

/-- The words of FENCE (R27). -/
def rowsFence : List Row := [
  ⟨[(26, 6, 0x26), (0, 23, 0)], fun w => .fenceAcq (.ofFence w)⟩,
  ⟨[(26, 6, 0x26), (0, 23, 0x100000)], fun w => .fenceRel (.ofFence w)⟩,
  ⟨[(26, 6, 0x26), (0, 23, 0x200000)], fun w => .fenceAr (.ofFence w)⟩,
  ⟨[(26, 6, 0x26), (0, 23, 0x300000)], fun w => .fenceSc (.ofFence w)⟩]

/-- The words of TASK (R31). -/
def rowsTask : List Row := [
  ⟨[(26, 6, 0x27), (0, 20, 0)], fun w => .tid (.ofWord w)⟩,
  ⟨[(0, 32, 0x9c000001)], fun _ => .exit⟩,
  ⟨[(0, 32, 0x9c000002)], fun _ => .yield⟩,
  ⟨[(26, 6, 0x27), (0, 6, 3)], fun w => .start (.ofWord w)⟩,
  ⟨[(26, 6, 0x27), (8, 6, 0), (0, 7, 4)], fun w => .reap (.ofWord w)⟩,
  ⟨[(26, 6, 0x27), (0, 6, 5)], fun w => .ctxput (.ofWord w)⟩,
  ⟨[(26, 6, 0x27), (8, 6, 0), (0, 7, 6)], fun w => .ctxget (.ofWord w)⟩,
  ⟨[(26, 6, 0x27), (8, 6, 0), (0, 7, 7)], fun w => .fork (.ofWord w)⟩,
  ⟨[(20, 12, 0x9c0), (8, 6, 0), (0, 7, 8)], fun w => .retf (.ofWord w)⟩,
  ⟨[(20, 12, 0x9c0), (8, 6, 0), (0, 7, 9)], fun w => .fwait (.ofWord w)⟩,
  ⟨[(26, 6, 0x27), (8, 6, 0), (0, 7, 0xa)], fun w => .enq (.ofWord w)⟩,
  ⟨[(26, 6, 0x27), (8, 6, 0), (0, 7, 0xb)], fun w => .join (.ofWord w)⟩,
  ⟨[(26, 6, 0x27), (0, 20, 0xc)], fun w => .leave (.ofWord w)⟩,
  ⟨[(26, 6, 0x27), (0, 20, 0xd)], fun w => .bar (.ofWord w)⟩,
  ⟨[(26, 6, 0x27), (0, 20, 0xe)], fun w => .bara (.ofWord w)⟩,
  ⟨[(20, 12, 0x9c0), (8, 6, 0), (0, 7, 0xf)], fun w => .barw (.ofWord w)⟩,
  ⟨[(26, 6, 0x27), (0, 6, 0x10)], fun w => .glaze (.ofWord w)⟩,
  ⟨[(26, 6, 0x27), (8, 6, 0), (0, 7, 0x11)], fun w => .glstat (.ofWord w)⟩,
  ⟨[(26, 6, 0x27), (8, 6, 0), (0, 7, 0x12)], fun w => .glcancel (.ofWord w)⟩]

/-- The words of CHAN (R32). -/
def rowsChan : List Row := [
  ⟨[(26, 6, 0x28), (0, 8, 0)], fun w => .chnew (.ofWord w)⟩,
  ⟨[(26, 6, 0x28), (1, 7, 1)], fun w => .send (.ofWord w)⟩,
  ⟨[(26, 6, 0x28), (0, 14, 4)], fun w => .recv (.ofWord w)⟩,
  ⟨[(26, 6, 0x28), (0, 14, 6)], fun w => .rpoll (.ofWord w)⟩,
  ⟨[(26, 6, 0x28), (0, 14, 8)], fun w => .chclose (.ofWord w)⟩,
  ⟨[(26, 6, 0x28), (0, 8, 0xa)], fun w => .charm (.ofWord w)⟩,
  ⟨[(26, 6, 0x28), (0, 8, 0xc)], fun w => .chdisarm (.ofWord w)⟩,
  ⟨[(26, 6, 0x28), (0, 14, 0xe)], fun w => .chstat (.ofWord w)⟩]

/-- The words of VEC (R31). -/
def rowsVec : List Row := [
  ⟨[(26, 6, 0x29), (14, 3, 0), (4, 6, 0), (0, 3, 0)], fun w => .vadd (.ofWord w)⟩,
  ⟨[(26, 6, 0x29), (14, 3, 0), (4, 6, 1), (0, 3, 0)], fun w => .vsub (.ofWord w)⟩,
  ⟨[(26, 6, 0x29), (14, 3, 0), (4, 6, 2), (0, 3, 0)], fun w => .vmul (.ofWord w)⟩,
  ⟨[(26, 6, 0x29), (4, 6, 3), (0, 3, 0)], fun w => .vfma (.ofWord w)⟩,
  ⟨[(26, 6, 0x29), (14, 3, 0), (4, 6, 4), (0, 3, 0)], fun w => .vdiv (.ofWord w)⟩,
  ⟨[(26, 6, 0x29), (14, 3, 0), (4, 6, 5), (0, 3, 0)], fun w => .vmin (.ofWord w)⟩,
  ⟨[(26, 6, 0x29), (14, 3, 0), (4, 6, 6), (0, 3, 0)], fun w => .vmax (.ofWord w)⟩,
  ⟨[(26, 6, 0x29), (14, 6, 0), (4, 6, 7), (0, 3, 0)], fun w => .vabs (.ofWord w)⟩,
  ⟨[(26, 6, 0x29), (14, 6, 0), (4, 6, 8), (0, 3, 0)], fun w => .vneg (.ofWord w)⟩,
  ⟨[(26, 6, 0x29), (14, 6, 0), (4, 6, 9), (0, 3, 0)], fun w => .vsqrt (.ofWord w)⟩,
  ⟨[(26, 6, 0x29), (14, 6, 0), (4, 6, 0xa), (0, 3, 0)], fun w => .vrcp (.ofWord w)⟩,
  ⟨[(26, 6, 0x29), (14, 6, 0), (4, 6, 0xb), (0, 3, 0)], fun w => .vexp2 (.ofWord w)⟩,
  ⟨[(26, 6, 0x29), (14, 3, 0), (4, 6, 0xc), (0, 3, 0)], fun w => .vadds (.ofWord w)⟩,
  ⟨[(26, 6, 0x29), (14, 3, 0), (4, 6, 0xd), (0, 3, 0)], fun w => .vsubs (.ofWord w)⟩,
  ⟨[(26, 6, 0x29), (14, 3, 0), (4, 6, 0xe), (0, 3, 0)], fun w => .vmulhi (.ofWord w)⟩,
  ⟨[(26, 6, 0x29), (14, 3, 0), (4, 6, 0xf), (0, 3, 0)], fun w => .vshl (.ofWord w)⟩,
  ⟨[(26, 6, 0x29), (14, 3, 0), (4, 6, 0x10), (0, 3, 0)], fun w => .vshr (.ofWord w)⟩,
  ⟨[(26, 6, 0x29), (14, 3, 0), (4, 6, 0x11), (0, 3, 0)], fun w => .vsra (.ofWord w)⟩,
  ⟨[(26, 6, 0x29), (14, 3, 0), (4, 6, 0x12), (0, 3, 0)], fun w => .vand (.ofWord w)⟩,
  ⟨[(26, 6, 0x29), (14, 3, 0), (4, 6, 0x13), (0, 3, 0)], fun w => .vor (.ofWord w)⟩,
  ⟨[(26, 6, 0x29), (14, 3, 0), (4, 6, 0x14), (0, 3, 0)], fun w => .vxor (.ofWord w)⟩,
  ⟨[(26, 6, 0x29), (14, 3, 0), (4, 6, 0x15), (0, 3, 0)], fun w => .vcmpeq (.ofWord w)⟩,
  ⟨[(26, 6, 0x29), (14, 3, 0), (4, 6, 0x16), (0, 3, 0)], fun w => .vcmplt (.ofWord w)⟩,
  ⟨[(26, 6, 0x29), (14, 3, 0), (4, 6, 0x17), (0, 3, 0)], fun w => .vcmple (.ofWord w)⟩,
  ⟨[(26, 6, 0x29), (4, 6, 0x18), (0, 3, 0)], fun w => .vsel (.ofWord w)⟩,
  ⟨[(26, 6, 0x29), (14, 6, 0), (4, 6, 0x19), (0, 3, 0)], fun w => .vcvt (.ofWord w)⟩,
  ⟨[(26, 6, 0x29), (14, 3, 0), (4, 6, 0x1a), (0, 3, 0)], fun w => .vpack (.ofWord w)⟩,
  ⟨[(26, 6, 0x29), (14, 6, 0), (4, 6, 0x1b), (0, 3, 0)], fun w => .vunpack (.ofWord w)⟩,
  ⟨[(26, 6, 0x29), (14, 6, 0), (4, 6, 0x1c), (0, 3, 0)], fun w => .vradd (.ofWord w)⟩,
  ⟨[(26, 6, 0x29), (14, 6, 0), (4, 6, 0x1d), (0, 3, 0)], fun w => .vrmax (.ofWord w)⟩,
  ⟨[(26, 6, 0x29), (14, 6, 0), (4, 6, 0x1e), (0, 3, 0)], fun w => .vrmin (.ofWord w)⟩,
  ⟨[(26, 6, 0x29), (4, 10, 0x1f), (0, 3, 0)], fun w => .vsacc (.ofWord w)⟩,
  ⟨[(26, 6, 0x29), (4, 10, 0x260), (0, 3, 0)], fun w => .vxacc (.ofWord w)⟩,
  ⟨[(26, 6, 0x29), (4, 16, 0x21), (0, 3, 0)], fun w => .vxcvt (.ofWord w)⟩,
  ⟨[(26, 6, 0x29), (14, 6, 0), (4, 6, 0x22), (0, 3, 0)], fun w => .vcopy (.ofWord w)⟩,
  ⟨[(26, 6, 0x29), (14, 3, 0), (4, 6, 0x23), (0, 3, 0)], fun w => .vperm (.ofWord w)⟩]

/-- The words of STRM (R32). -/
def rowsStrm : List Row := [
  ⟨[(20, 12, 0xa80), (0, 17, 0)], fun w => .strrew (.ofStrm w)⟩,
  ⟨[(26, 6, 0x2a), (0, 17, 0x40)], fun w => .stradv (.ofWord w)⟩,
  ⟨[(26, 6, 0x2a), (0, 17, 0x80)], fun w => .vsplat (.ofWord w)⟩]

/-- The words of TILE (R32). -/
def rowsTile : List Row := [
  ⟨[(26, 6, 0x2b), (0, 20, 0)], fun w => .tbind (.ofWord w)⟩,
  ⟨[(26, 6, 0x2b), (0, 20, 1)], fun w => .tfree (.ofWord w)⟩,
  ⟨[(26, 6, 0x2b), (0, 6, 2)], fun w => .tmma (.ofWord w)⟩,
  ⟨[(20, 12, 0xac0), (8, 6, 0), (0, 7, 3)], fun w => .tzero (.ofWord w)⟩,
  ⟨[(20, 12, 0xac0), (0, 6, 4)], fun w => .tload (.ofWord w)⟩,
  ⟨[(20, 12, 0xac0), (0, 6, 5)], fun w => .tstore (.ofWord w)⟩,
  ⟨[(26, 6, 0x2b), (8, 6, 0), (0, 7, 6)], fun w => .twait (.ofWord w)⟩,
  ⟨[(26, 6, 0x2b), (0, 6, 7)], fun w => .tpeek (.ofWord w)⟩,
  ⟨[(26, 6, 0x2b), (0, 6, 8)], fun w => .ringpush (.ofWord w)⟩,
  ⟨[(26, 6, 0x2b), (0, 6, 9)], fun w => .ringpop (.ofWord w)⟩]

/-- The words of COPY (R32). -/
def rowsCopy : List Row := [
  ⟨[(26, 6, 0x2c), (0, 6, 0)], fun w => .cpgo (.ofWord w)⟩,
  ⟨[(26, 6, 0x2c), (8, 6, 0), (0, 7, 1)], fun w => .cpstat (.ofWord w)⟩,
  ⟨[(26, 6, 0x2c), (8, 6, 0), (0, 7, 2)], fun w => .cpabort (.ofWord w)⟩]

/-- The words of CACHE (R32). -/
def rowsCache : List Row := [
  ⟨[(20, 12, 0xb40), (0, 6, 0)], fun w => .l2pf (.ofWord w)⟩,
  ⟨[(26, 6, 0x2d), (0, 6, 1)], fun w => .l2disc (.ofWord w)⟩,
  ⟨[(26, 6, 0x2d), (0, 6, 2)], fun w => .l2zero (.ofWord w)⟩,
  ⟨[(26, 6, 0x2d), (0, 6, 3)], fun w => .cflush (.ofWord w)⟩,
  ⟨[(26, 6, 0x2d), (0, 6, 4)], fun w => .tlbinv (.ofWord w)⟩]

/-- The words of SYS (R32). -/
def rowsSys : List Row := [
  ⟨[(0, 32, 0xb8000000)], fun _ => .trap⟩,
  ⟨[(0, 32, 0xb8000001)], fun _ => .eret⟩,
  ⟨[(26, 6, 0x2e), (0, 8, 2)], fun w => .srr (.ofWord w)⟩,
  ⟨[(26, 6, 0x2e), (0, 7, 3)], fun w => .srw (.ofWord w)⟩,
  ⟨[(26, 6, 0x2e), (0, 7, 4)], fun w => .srs (.ofWord w)⟩,
  ⟨[(26, 6, 0x2e), (0, 7, 5)], fun w => .src (.ofWord w)⟩,
  ⟨[(26, 6, 0x2e), (8, 6, 0), (0, 7, 6)], fun w => .repart (.ofWord w)⟩,
  ⟨[(26, 6, 0x2e), (0, 6, 7)], fun w => .carve (.ofWord w)⟩,
  ⟨[(0, 32, 0xb8000008)], fun _ => .breakI⟩,
  ⟨[(26, 6, 0x2e), (0, 6, 9)], fun w => .preempt (.ofWord w)⟩,
  ⟨[(26, 6, 0x2e), (0, 6, 0xa)], fun w => .resume (.ofWord w)⟩,
  ⟨[(0, 32, 0xb800000b)], fun _ => .halt⟩]

/-- The words of FIELD (R32). -/
def rowsField : List Row := [
  ⟨[(26, 6, 0x2f), (0, 13, 0)], fun w => .strset (.ofWord w)⟩,
  ⟨[(26, 6, 0x2f), (0, 13, 0x40)], fun w => .strget (.ofWord w)⟩,
  ⟨[(26, 6, 0x2f), (17, 3, 0), (0, 13, 0x80)], fun w => .tset (.ofWord w)⟩,
  ⟨[(26, 6, 0x2f), (17, 3, 0), (0, 13, 0xc0)], fun w => .tget (.ofWord w)⟩,
  ⟨[(26, 6, 0x2f), (0, 13, 0x100)], fun w => .ringset (.ofWord w)⟩,
  ⟨[(26, 6, 0x2f), (0, 13, 0x140)], fun w => .ringget (.ofWord w)⟩,
  ⟨[(26, 6, 0x2f), (17, 3, 0), (0, 13, 0x180)], fun w => .cpset (.ofWord w)⟩,
  ⟨[(26, 6, 0x2f), (17, 3, 0), (0, 13, 0x1c0)], fun w => .cpget (.ofWord w)⟩]

/-- The opcode map, in the table's order (R30 to R32). -/
def rows : List Row :=
  rowsOp ++
  rowsFp ++
  rowsImm ++
  rowsMem ++
  rowsAmow ++
  rowsAmod ++
  rowsSync ++
  rowsFence ++
  rowsTask ++
  rowsChan ++
  rowsVec ++
  rowsStrm ++
  rowsTile ++
  rowsCopy ++
  rowsCache ++
  rowsSys ++
  rowsField

/-- The first row of the map that the word meets. -/
def findRow : List Row → Nat → Option Row
  | [], _ => none
  | r :: rs, w => if r.hit w then some r else findRow rs w

/-- What a word decodes to: an instruction, or the reason it raises ILL. -/
inductive Decoded where
  | ok (i : Instr)
  | ill (e : Illegal)
  deriving DecidableEq, Repr

/-- Steps 1 and 2 of R21: the instruction a word names, or why it names none (ILL). -/
def decode (w : BitVec 32) : Decoded :=
  match findRow rows w.toNat with
  | none =>
    if w.toNat / 2 ^ 26 = 0 ∨ 0x30 ≤ w.toNat / 2 ^ 26 then .ill .opcode else .ill .unlisted
  | some r =>
    match (r.build w.toNat).check with
    | none => .ok (r.build w.toNat)
    | some e => .ill e

/-- The instruction the part executes for a fetched word: the one it names, or ILLEGAL_WORD (R30). -/
def decodeOrIll (w : BitVec 32) : Instr :=
  match decode w with
  | .ok i => i
  | .ill _ => .illegalWord w

/-- The word at the PC: the byte at the PC holds bits [7:0] (R20). -/
def wordOfBytes (b0 b1 b2 b3 : Byte) : BitVec 32 :=
  BitVec.ofNat 32 (b0.toNat + 256 * b1.toNat + 65536 * b2.toNat + 16777216 * b3.toNat)

/-- The n-th byte of a word as it is stored (R20). -/
def byteOfWord (w n : Nat) : Byte := BitVec.ofNat 8 (w / 256 ^ n)

/-- Decode the bytes at the PC, with the rest of the list; a list of fewer than four bytes holds no word. -/
def decodeBytes : List Byte → Option (Decoded × List Byte)
  | b0 :: b1 :: b2 :: b3 :: rest => some (decode (wordOfBytes b0 b1 b2 b3), rest)
  | _ => none

/-- The instruction the decoder reads from the table's word w of nbits bits (bits above nbits are zero). -/
def decodeTableWord (nbits w : Nat) : Option Instr :=
  let v := w % 2 ^ nbits
  match decodeBytes [byteOfWord v 0, byteOfWord v 1, byteOfWord v 2, byteOfWord v 3] with
  | some (.ok i, _) => some i
  | _ => none

/-- R format (R22). -/
def encR (op rd ra rb : Nat) (ta tb : Bool) (fn : Nat) : Nat :=
  op * 67108864 + rd * 1048576 + ra * 16384 + rb * 256 + ta.toNat * 128 + tb.toNat * 64 + fn

/-- I format. -/
def encI (op rd ra : Nat) (ta : Bool) (imm : Nat) : Nat :=
  op * 67108864 + rd * 1048576 + ra * 16384 + ta.toNat * 8192 + imm

/-- U and J formats. -/
def encU (op rd imm : Nat) : Nat := op * 67108864 + rd * 1048576 + imm

/-- B format. -/
def encB (op ra rb : Nat) (ta tb : Bool) (disp : Nat) : Nat :=
  op * 67108864 + ra * 1048576 + rb * 16384 + ta.toNat * 8192 + tb.toNat * 4096 + disp

/-- M format. -/
def encM (op rd ra : Nat) (ta tb : Bool) (scope : Nat) (ord : Bool) (imm : Nat) : Nat :=
  op * 67108864 + rd * 1048576 + ra * 16384 + ta.toNat * 8192 + tb.toNat * 4096 + scope * 512 + ord.toNat * 256 + imm

/-- A format. -/
def encA (op rd ra rb scope : Nat) (ord : Bool) (aop : Nat) : Nat :=
  op * 67108864 + rd * 1048576 + ra * 16384 + rb * 256 + scope * 32 + ord.toNat * 16 + aop

/-- X format. -/
def encX (op rd ra rb fn : Nat) (k : Bool) : Nat :=
  op * 67108864 + rd * 1048576 + ra * 16384 + rb * 256 + fn * 2 + k.toNat

/-- F format. -/
def encF (op g sel field fn : Nat) : Nat :=
  op * 67108864 + g * 1048576 + sel * 131072 + field * 8192 + fn * 64

/-- V format, whose opcode is VEC's. -/
def encV (sd sa sb sc fmt fn : Nat) (m : Bool) : Nat :=
  0x29 * 67108864 + sd * 8388608 + sa * 1048576 + sb * 131072 + sc * 16384 + fmt * 1024 + fn * 16 + m.toNat * 8

/-- FENCE format. -/
def encFence (scope kind : Nat) : Nat := 0x26 * 67108864 + scope * 8388608 + kind * 1048576

/-- The number of the word of an instruction; an event of the part has none. -/
def encodeNat : Instr → Option Nat
  | .add o => some (encR 1 o.d.toNat o.a.toNat o.b.toNat o.x o.y 0)
  | .sub o => some (encR 1 o.d.toNat o.a.toNat o.b.toNat o.x o.y 1)
  | .and o => some (encR 1 o.d.toNat o.a.toNat o.b.toNat o.x o.y 2)
  | .or o => some (encR 1 o.d.toNat o.a.toNat o.b.toNat o.x o.y 3)
  | .xor o => some (encR 1 o.d.toNat o.a.toNat o.b.toNat o.x o.y 4)
  | .andn o => some (encR 1 o.d.toNat o.a.toNat o.b.toNat o.x o.y 5)
  | .orn o => some (encR 1 o.d.toNat o.a.toNat o.b.toNat o.x o.y 6)
  | .xnor o => some (encR 1 o.d.toNat o.a.toNat o.b.toNat o.x o.y 7)
  | .sll o => some (encR 1 o.d.toNat o.a.toNat o.b.toNat o.x o.y 8)
  | .srl o => some (encR 1 o.d.toNat o.a.toNat o.b.toNat o.x o.y 9)
  | .sra o => some (encR 1 o.d.toNat o.a.toNat o.b.toNat o.x o.y 0xa)
  | .rol o => some (encR 1 o.d.toNat o.a.toNat o.b.toNat o.x o.y 0xb)
  | .ror o => some (encR 1 o.d.toNat o.a.toNat o.b.toNat o.x o.y 0xc)
  | .slt o => some (encR 1 o.d.toNat o.a.toNat o.b.toNat o.x o.y 0xd)
  | .sltu o => some (encR 1 o.d.toNat o.a.toNat o.b.toNat o.x o.y 0xe)
  | .min o => some (encR 1 o.d.toNat o.a.toNat o.b.toNat o.x o.y 0xf)
  | .max o => some (encR 1 o.d.toNat o.a.toNat o.b.toNat o.x o.y 0x10)
  | .minu o => some (encR 1 o.d.toNat o.a.toNat o.b.toNat o.x o.y 0x11)
  | .maxu o => some (encR 1 o.d.toNat o.a.toNat o.b.toNat o.x o.y 0x12)
  | .mul o => some (encR 1 o.d.toNat o.a.toNat o.b.toNat o.x o.y 0x13)
  | .mulh o => some (encR 1 o.d.toNat o.a.toNat o.b.toNat o.x o.y 0x14)
  | .mulhu o => some (encR 1 o.d.toNat o.a.toNat o.b.toNat o.x o.y 0x15)
  | .mulhsu o => some (encR 1 o.d.toNat o.a.toNat o.b.toNat o.x o.y 0x16)
  | .div o => some (encR 1 o.d.toNat o.a.toNat o.b.toNat o.x o.y 0x17)
  | .divu o => some (encR 1 o.d.toNat o.a.toNat o.b.toNat o.x o.y 0x18)
  | .rem o => some (encR 1 o.d.toNat o.a.toNat o.b.toNat o.x o.y 0x19)
  | .remu o => some (encR 1 o.d.toNat o.a.toNat o.b.toNat o.x o.y 0x1a)
  | .addw o => some (encR 1 o.d.toNat o.a.toNat o.b.toNat o.x o.y 0x1b)
  | .subw o => some (encR 1 o.d.toNat o.a.toNat o.b.toNat o.x o.y 0x1c)
  | .mulw o => some (encR 1 o.d.toNat o.a.toNat o.b.toNat o.x o.y 0x1d)
  | .sllw o => some (encR 1 o.d.toNat o.a.toNat o.b.toNat o.x o.y 0x1e)
  | .srlw o => some (encR 1 o.d.toNat o.a.toNat o.b.toNat o.x o.y 0x1f)
  | .sraw o => some (encR 1 o.d.toNat o.a.toNat o.b.toNat o.x o.y 0x20)
  | .clz o => some (encR 1 o.d.toNat o.a.toNat 0 o.x false 0x21)
  | .ctz o => some (encR 1 o.d.toNat o.a.toNat 0 o.x false 0x22)
  | .popc o => some (encR 1 o.d.toNat o.a.toNat 0 o.x false 0x23)
  | .brev o => some (encR 1 o.d.toNat o.a.toNat 0 o.x false 0x24)
  | .bswap o => some (encR 1 o.d.toNat o.a.toNat 0 o.x false 0x25)
  | .sextb o => some (encR 1 o.d.toNat o.a.toNat 0 o.x false 0x26)
  | .sexth o => some (encR 1 o.d.toNat o.a.toNat 0 o.x false 0x27)
  | .sextw o => some (encR 1 o.d.toNat o.a.toNat 0 o.x false 0x28)
  | .zextw o => some (encR 1 o.d.toNat o.a.toNat 0 o.x false 0x29)
  | .csel o => some (encR 1 o.d.toNat o.a.toNat o.b.toNat o.x o.y 0x2a)
  | .hmov o => some (encR 1 o.d.toNat o.a.toNat 0 o.x false 0x2b)
  | .fadd o => some (encR 2 o.d.toNat o.a.toNat o.b.toNat o.x o.y 0)
  | .fsub o => some (encR 2 o.d.toNat o.a.toNat o.b.toNat o.x o.y 1)
  | .fmul o => some (encR 2 o.d.toNat o.a.toNat o.b.toNat o.x o.y 2)
  | .fdiv o => some (encR 2 o.d.toNat o.a.toNat o.b.toNat o.x o.y 3)
  | .fsqrt o => some (encR 2 o.d.toNat o.a.toNat 0 o.x false 4)
  | .fma o => some (encR 2 o.d.toNat o.a.toNat o.b.toNat o.x o.y 5)
  | .fmin o => some (encR 2 o.d.toNat o.a.toNat o.b.toNat o.x o.y 6)
  | .fmax o => some (encR 2 o.d.toNat o.a.toNat o.b.toNat o.x o.y 7)
  | .feq o => some (encR 2 o.d.toNat o.a.toNat o.b.toNat o.x o.y 8)
  | .flt o => some (encR 2 o.d.toNat o.a.toNat o.b.toNat o.x o.y 9)
  | .fle o => some (encR 2 o.d.toNat o.a.toNat o.b.toNat o.x o.y 0xa)
  | .fclass o => some (encR 2 o.d.toNat o.a.toNat 0 o.x false 0xb)
  | .ftoi o => some (encR 2 o.d.toNat o.a.toNat 0 o.x false 0xc)
  | .ftoiu o => some (encR 2 o.d.toNat o.a.toNat 0 o.x false 0xd)
  | .itof o => some (encR 2 o.d.toNat o.a.toNat 0 o.x false 0xe)
  | .itofu o => some (encR 2 o.d.toNat o.a.toNat 0 o.x false 0xf)
  | .ftobf o => some (encR 2 o.d.toNat o.a.toNat 0 o.x false 0x10)
  | .bftof o => some (encR 2 o.d.toNat o.a.toNat 0 o.x false 0x11)
  | .ftoh o => some (encR 2 o.d.toNat o.a.toNat 0 o.x false 0x12)
  | .htof o => some (encR 2 o.d.toNat o.a.toNat 0 o.x false 0x13)
  | .fneg o => some (encR 2 o.d.toNat o.a.toNat 0 o.x false 0x14)
  | .fabs o => some (encR 2 o.d.toNat o.a.toNat 0 o.x false 0x15)
  | .addi o => some (encI 3 o.d.toNat o.a.toNat o.x o.i.toNat)
  | .andi o => some (encI 4 o.d.toNat o.a.toNat o.x o.i.toNat)
  | .ori o => some (encI 5 o.d.toNat o.a.toNat o.x o.i.toNat)
  | .xori o => some (encI 6 o.d.toNat o.a.toNat o.x o.i.toNat)
  | .slti o => some (encI 7 o.d.toNat o.a.toNat o.x o.i.toNat)
  | .sltiu o => some (encI 8 o.d.toNat o.a.toNat o.x o.i.toNat)
  | .addiw o => some (encI 0xa o.d.toNat o.a.toNat o.x o.i.toNat)
  | .slli o => some (encI 9 o.d.toNat o.a.toNat o.x (0 * 2048 + o.n.toNat))
  | .srli o => some (encI 9 o.d.toNat o.a.toNat o.x (1 * 2048 + o.n.toNat))
  | .srai o => some (encI 9 o.d.toNat o.a.toNat o.x (2 * 2048 + o.n.toNat))
  | .roli o => some (encI 9 o.d.toNat o.a.toNat o.x (3 * 2048 + o.n.toNat))
  | .lui o => some (encU 0xb o.d.toNat o.i.toNat)
  | .auipc o => some (encU 0xc o.d.toNat o.i.toNat)
  | .jal o => some (encU 0xd o.d.toNat o.i.toNat)
  | .jalr o => some (encI 0xe o.d.toNat o.a.toNat o.x o.i.toNat)
  | .jt o => some (encB 0xf o.a.toNat o.b.toNat o.x o.y o.c.toNat)
  | .beq o => some (encB 0x10 o.a.toNat o.b.toNat o.x o.y o.i.toNat)
  | .bne o => some (encB 0x11 o.a.toNat o.b.toNat o.x o.y o.i.toNat)
  | .blt o => some (encB 0x12 o.a.toNat o.b.toNat o.x o.y o.i.toNat)
  | .bge o => some (encB 0x13 o.a.toNat o.b.toNat o.x o.y o.i.toNat)
  | .bltu o => some (encB 0x14 o.a.toNat o.b.toNat o.x o.y o.i.toNat)
  | .bgeu o => some (encB 0x15 o.a.toNat o.b.toNat o.x o.y o.i.toNat)
  | .lb o => some (encM 0x16 o.d.toNat o.a.toNat o.x false o.s.toNat o.o o.i.toNat)
  | .lbu o => some (encM 0x17 o.d.toNat o.a.toNat o.x false o.s.toNat o.o o.i.toNat)
  | .lh o => some (encM 0x18 o.d.toNat o.a.toNat o.x false o.s.toNat o.o o.i.toNat)
  | .lhu o => some (encM 0x19 o.d.toNat o.a.toNat o.x false o.s.toNat o.o o.i.toNat)
  | .lw o => some (encM 0x1a o.d.toNat o.a.toNat o.x false o.s.toNat o.o o.i.toNat)
  | .lwu o => some (encM 0x1b o.d.toNat o.a.toNat o.x false o.s.toNat o.o o.i.toNat)
  | .ld o => some (encM 0x1c o.d.toNat o.a.toNat o.x false o.s.toNat o.o o.i.toNat)
  | .lq o => some (encM 0x1d o.d.toNat o.a.toNat o.x false o.s.toNat o.o o.i.toNat)
  | .sb o => some (encM 0x1e o.d.toNat o.a.toNat o.x o.y o.s.toNat o.o o.i.toNat)
  | .sh o => some (encM 0x1f o.d.toNat o.a.toNat o.x o.y o.s.toNat o.o o.i.toNat)
  | .sw o => some (encM 0x20 o.d.toNat o.a.toNat o.x o.y o.s.toNat o.o o.i.toNat)
  | .sd o => some (encM 0x21 o.d.toNat o.a.toNat o.x o.y o.s.toNat o.o o.i.toNat)
  | .sq o => some (encM 0x22 o.d.toNat o.a.toNat o.x o.y o.s.toNat o.o o.i.toNat)
  | .amowSwap o => some (encA 0x23 o.d.toNat o.a.toNat o.b.toNat o.s.toNat o.o 0)
  | .amowAdd o => some (encA 0x23 o.d.toNat o.a.toNat o.b.toNat o.s.toNat o.o 1)
  | .amowAnd o => some (encA 0x23 o.d.toNat o.a.toNat o.b.toNat o.s.toNat o.o 2)
  | .amowOr o => some (encA 0x23 o.d.toNat o.a.toNat o.b.toNat o.s.toNat o.o 3)
  | .amowXor o => some (encA 0x23 o.d.toNat o.a.toNat o.b.toNat o.s.toNat o.o 4)
  | .amowMin o => some (encA 0x23 o.d.toNat o.a.toNat o.b.toNat o.s.toNat o.o 5)
  | .amowMax o => some (encA 0x23 o.d.toNat o.a.toNat o.b.toNat o.s.toNat o.o 6)
  | .amowMinu o => some (encA 0x23 o.d.toNat o.a.toNat o.b.toNat o.s.toNat o.o 7)
  | .amowMaxu o => some (encA 0x23 o.d.toNat o.a.toNat o.b.toNat o.s.toNat o.o 8)
  | .amowCas o => some (encA 0x23 o.d.toNat o.a.toNat o.b.toNat o.s.toNat o.o 9)
  | .amowAddbnd o => some (encA 0x23 o.d.toNat o.a.toNat o.b.toNat o.s.toNat o.o 10)
  | .amowFadd o => some (encA 0x23 o.d.toNat o.a.toNat o.b.toNat o.s.toNat o.o 11)
  | .amodSwap o => some (encA 0x24 o.d.toNat o.a.toNat o.b.toNat o.s.toNat o.o 0)
  | .amodAdd o => some (encA 0x24 o.d.toNat o.a.toNat o.b.toNat o.s.toNat o.o 1)
  | .amodAnd o => some (encA 0x24 o.d.toNat o.a.toNat o.b.toNat o.s.toNat o.o 2)
  | .amodOr o => some (encA 0x24 o.d.toNat o.a.toNat o.b.toNat o.s.toNat o.o 3)
  | .amodXor o => some (encA 0x24 o.d.toNat o.a.toNat o.b.toNat o.s.toNat o.o 4)
  | .amodMin o => some (encA 0x24 o.d.toNat o.a.toNat o.b.toNat o.s.toNat o.o 5)
  | .amodMax o => some (encA 0x24 o.d.toNat o.a.toNat o.b.toNat o.s.toNat o.o 6)
  | .amodMinu o => some (encA 0x24 o.d.toNat o.a.toNat o.b.toNat o.s.toNat o.o 7)
  | .amodMaxu o => some (encA 0x24 o.d.toNat o.a.toNat o.b.toNat o.s.toNat o.o 8)
  | .amodCas o => some (encA 0x24 o.d.toNat o.a.toNat o.b.toNat o.s.toNat o.o 9)
  | .amodAddbnd o => some (encA 0x24 o.d.toNat o.a.toNat o.b.toNat o.s.toNat o.o 10)
  | .take o => some (encR 0x25 o.d.toNat o.a.toNat 0 o.x false 0)
  | .put o => some (encR 0x25 0 o.a.toNat o.b.toNat o.x o.y 1)
  | .trytake o => some (encR 0x25 o.d.toNat o.a.toNat 0 o.x false 2)
  | .feget o => some (encR 0x25 o.d.toNat o.a.toNat 0 o.x false 3)
  | .feset o => some (encR 0x25 0 o.a.toNat o.b.toNat o.x o.y 4)
  | .fesetRegister o => some (encR 0x25 o.d.toNat 0 0 false false 4)
  | .wait o => some (encR 0x25 o.d.toNat o.a.toNat 0 o.x false 5)
  | .waita o => some (encR 0x25 o.d.toNat o.a.toNat o.b.toNat o.x o.y 6)
  | .waitna o => some (encR 0x25 o.d.toNat o.a.toNat o.b.toNat o.x o.y 7)
  | .imask o => some (encR 0x25 0 0 o.n.toNat false false 8)
  | .iunmask => some (encR 0x25 0 0 0 false false 9)
  | .iret => some (encR 0x25 0 0 0 false false 0xa)
  | .fenceAcq o => some (encFence o.s.toNat 0)
  | .fenceRel o => some (encFence o.s.toNat 1)
  | .fenceAr o => some (encFence o.s.toNat 2)
  | .fenceSc o => some (encFence o.s.toNat 3)
  | .tid o => some (encR 0x27 o.d.toNat 0 0 false false 0)
  | .exit => some (encR 0x27 0 0 0 false false 1)
  | .yield => some (encR 0x27 0 0 0 false false 2)
  | .start o => some (encR 0x27 o.d.toNat o.a.toNat o.b.toNat o.x o.y 3)
  | .reap o => some (encR 0x27 o.d.toNat o.a.toNat 0 o.x false 4)
  | .ctxput o => some (encR 0x27 o.d.toNat o.a.toNat o.b.toNat o.x o.y 5)
  | .ctxget o => some (encR 0x27 o.d.toNat o.a.toNat 0 o.x false 6)
  | .fork o => some (encR 0x27 o.d.toNat o.a.toNat 0 o.x false 7)
  | .retf o => some (encR 0x27 0 o.a.toNat 0 o.x false 8)
  | .fwait o => some (encR 0x27 0 o.a.toNat 0 o.x false 9)
  | .enq o => some (encR 0x27 o.d.toNat o.a.toNat 0 o.x false 0xa)
  | .join o => some (encR 0x27 o.d.toNat o.a.toNat 0 o.x false 0xb)
  | .leave o => some (encR 0x27 o.d.toNat 0 0 false false 0xc)
  | .bar o => some (encR 0x27 o.d.toNat 0 0 false false 0xd)
  | .bara o => some (encR 0x27 o.d.toNat 0 0 false false 0xe)
  | .barw o => some (encR 0x27 0 o.a.toNat 0 o.x false 0xf)
  | .glaze o => some (encR 0x27 o.d.toNat o.a.toNat o.b.toNat o.x o.y 0x10)
  | .glstat o => some (encR 0x27 o.d.toNat o.a.toNat 0 o.x false 0x11)
  | .glcancel o => some (encR 0x27 o.d.toNat o.a.toNat 0 o.x false 0x12)
  | .chnew o => some (encX 0x28 o.d.toNat o.a.toNat o.b.toNat 0 false)
  | .send o => some (encX 0x28 o.d.toNat o.a.toNat o.b.toNat 1 o.k)
  | .recv o => some (encX 0x28 o.d.toNat o.a.toNat 0 2 false)
  | .rpoll o => some (encX 0x28 o.d.toNat o.a.toNat 0 3 false)
  | .chclose o => some (encX 0x28 o.d.toNat o.a.toNat 0 4 false)
  | .charm o => some (encX 0x28 o.d.toNat o.a.toNat o.b.toNat 5 false)
  | .chdisarm o => some (encX 0x28 o.d.toNat o.a.toNat o.b.toNat 6 false)
  | .chstat o => some (encX 0x28 o.d.toNat o.a.toNat 0 7 false)
  | .vadd o => some (encV o.d.toNat o.a.toNat o.b.toNat 0 o.f.toNat 0 o.m)
  | .vsub o => some (encV o.d.toNat o.a.toNat o.b.toNat 0 o.f.toNat 1 o.m)
  | .vmul o => some (encV o.d.toNat o.a.toNat o.b.toNat 0 o.f.toNat 2 o.m)
  | .vfma o => some (encV o.d.toNat o.a.toNat o.b.toNat o.c.toNat o.f.toNat 3 o.m)
  | .vdiv o => some (encV o.d.toNat o.a.toNat o.b.toNat 0 o.f.toNat 4 o.m)
  | .vmin o => some (encV o.d.toNat o.a.toNat o.b.toNat 0 o.f.toNat 5 o.m)
  | .vmax o => some (encV o.d.toNat o.a.toNat o.b.toNat 0 o.f.toNat 6 o.m)
  | .vabs o => some (encV o.d.toNat o.a.toNat 0 0 o.f.toNat 7 o.m)
  | .vneg o => some (encV o.d.toNat o.a.toNat 0 0 o.f.toNat 8 o.m)
  | .vsqrt o => some (encV o.d.toNat o.a.toNat 0 0 o.f.toNat 9 o.m)
  | .vrcp o => some (encV o.d.toNat o.a.toNat 0 0 o.f.toNat 0xa o.m)
  | .vexp2 o => some (encV o.d.toNat o.a.toNat 0 0 o.f.toNat 0xb o.m)
  | .vadds o => some (encV o.d.toNat o.a.toNat o.b.toNat 0 o.f.toNat 0xc o.m)
  | .vsubs o => some (encV o.d.toNat o.a.toNat o.b.toNat 0 o.f.toNat 0xd o.m)
  | .vmulhi o => some (encV o.d.toNat o.a.toNat o.b.toNat 0 o.f.toNat 0xe o.m)
  | .vshl o => some (encV o.d.toNat o.a.toNat o.b.toNat 0 o.f.toNat 0xf o.m)
  | .vshr o => some (encV o.d.toNat o.a.toNat o.b.toNat 0 o.f.toNat 0x10 o.m)
  | .vsra o => some (encV o.d.toNat o.a.toNat o.b.toNat 0 o.f.toNat 0x11 o.m)
  | .vand o => some (encV o.d.toNat o.a.toNat o.b.toNat 0 o.f.toNat 0x12 o.m)
  | .vor o => some (encV o.d.toNat o.a.toNat o.b.toNat 0 o.f.toNat 0x13 o.m)
  | .vxor o => some (encV o.d.toNat o.a.toNat o.b.toNat 0 o.f.toNat 0x14 o.m)
  | .vcmpeq o => some (encV o.d.toNat o.a.toNat o.b.toNat 0 o.f.toNat 0x15 o.m)
  | .vcmplt o => some (encV o.d.toNat o.a.toNat o.b.toNat 0 o.f.toNat 0x16 o.m)
  | .vcmple o => some (encV o.d.toNat o.a.toNat o.b.toNat 0 o.f.toNat 0x17 o.m)
  | .vsel o => some (encV o.d.toNat o.a.toNat o.b.toNat o.c.toNat o.f.toNat 0x18 o.m)
  | .vcvt o => some (encV o.d.toNat o.a.toNat 0 0 o.f.toNat 0x19 o.m)
  | .vpack o => some (encV o.d.toNat o.a.toNat o.b.toNat 0 o.f.toNat 0x1a o.m)
  | .vunpack o => some (encV o.d.toNat o.a.toNat 0 0 o.f.toNat 0x1b o.m)
  | .vradd o => some (encV o.d.toNat o.a.toNat 0 0 o.f.toNat 0x1c o.m)
  | .vrmax o => some (encV o.d.toNat o.a.toNat 0 0 o.f.toNat 0x1d o.m)
  | .vrmin o => some (encV o.d.toNat o.a.toNat 0 0 o.f.toNat 0x1e o.m)
  | .vsacc o => some (encV o.d.toNat o.a.toNat o.b.toNat o.c.toNat 0 0x1f o.m)
  | .vxacc o => some (encV o.d.toNat o.a.toNat o.b.toNat o.c.toNat 9 0x20 o.m)
  | .vxcvt o => some (encV o.d.toNat o.a.toNat 0 0 0 0x21 o.m)
  | .vcopy o => some (encV o.d.toNat o.a.toNat 0 0 o.f.toNat 0x22 o.m)
  | .vperm o => some (encV o.d.toNat o.a.toNat o.b.toNat 0 o.f.toNat 0x23 o.m)
  | .strrew o => some (encF 0x2a 0 o.s.toNat 0 0)
  | .stradv o => some (encF 0x2a o.g.toNat o.s.toNat 0 1)
  | .vsplat o => some (encF 0x2a o.g.toNat o.s.toNat 0 2)
  | .tbind o => some (encR 0x2b o.d.toNat 0 0 false false 0)
  | .tfree o => some (encR 0x2b o.d.toNat 0 0 false false 1)
  | .tmma o => some (encR 0x2b o.d.toNat o.a.toNat o.b.toNat o.x o.y 2)
  | .tzero o => some (encR 0x2b 0 o.a.toNat 0 o.x false 3)
  | .tload o => some (encR 0x2b 0 o.a.toNat o.b.toNat o.x o.y 4)
  | .tstore o => some (encR 0x2b 0 o.a.toNat o.b.toNat o.x o.y 5)
  | .twait o => some (encR 0x2b o.d.toNat o.a.toNat 0 o.x false 6)
  | .tpeek o => some (encR 0x2b o.d.toNat o.a.toNat o.b.toNat o.x o.y 7)
  | .ringpush o => some (encR 0x2b o.d.toNat o.a.toNat o.b.toNat o.x o.y 8)
  | .ringpop o => some (encR 0x2b o.d.toNat o.a.toNat o.b.toNat o.x o.y 9)
  | .cpgo o => some (encR 0x2c o.d.toNat o.a.toNat o.b.toNat o.x o.y 0)
  | .cpstat o => some (encR 0x2c o.d.toNat o.a.toNat 0 o.x false 1)
  | .cpabort o => some (encR 0x2c o.d.toNat o.a.toNat 0 o.x false 2)
  | .l2pf o => some (encR 0x2d 0 o.a.toNat o.b.toNat o.x o.y 0)
  | .l2disc o => some (encR 0x2d o.d.toNat o.a.toNat o.b.toNat o.x o.y 1)
  | .l2zero o => some (encR 0x2d o.d.toNat o.a.toNat o.b.toNat o.x o.y 2)
  | .cflush o => some (encR 0x2d o.d.toNat o.a.toNat o.b.toNat o.x o.y 3)
  | .tlbinv o => some (encR 0x2d o.d.toNat o.a.toNat o.b.toNat o.x o.y 4)
  | .trap => some (encR 0x2e 0 0 0 false false 0)
  | .eret => some (encR 0x2e 0 0 0 false false 1)
  | .srr o => some (encR 0x2e o.d.toNat (o.n.toNat / 64) (o.n.toNat % 64) false false 2)
  | .srw o => some (encR 0x2e o.d.toNat (o.n.toNat / 64) (o.n.toNat % 64) o.x false 3)
  | .srs o => some (encR 0x2e o.d.toNat (o.n.toNat / 64) (o.n.toNat % 64) o.x false 4)
  | .src o => some (encR 0x2e o.d.toNat (o.n.toNat / 64) (o.n.toNat % 64) o.x false 5)
  | .repart o => some (encR 0x2e o.d.toNat o.a.toNat 0 o.x false 6)
  | .carve o => some (encR 0x2e o.d.toNat o.a.toNat o.b.toNat o.x o.y 7)
  | .breakI => some (encR 0x2e 0 0 0 false false 8)
  | .preempt o => some (encR 0x2e o.d.toNat o.a.toNat o.b.toNat o.x o.y 9)
  | .resume o => some (encR 0x2e o.d.toNat o.a.toNat o.b.toNat o.x o.y 0xa)
  | .halt => some (encR 0x2e 0 0 0 false false 0xb)
  | .strset o => some (encF 0x2f o.g.toNat o.s.toNat o.i.toNat 0)
  | .strget o => some (encF 0x2f o.g.toNat o.s.toNat o.i.toNat 1)
  | .tset o => some (encF 0x2f o.g.toNat 0 o.i.toNat 2)
  | .tget o => some (encF 0x2f o.g.toNat 0 o.i.toNat 3)
  | .ringset o => some (encF 0x2f o.g.toNat o.s.toNat o.i.toNat 4)
  | .ringget o => some (encF 0x2f o.g.toNat o.s.toNat o.i.toNat 5)
  | .cpset o => some (encF 0x2f o.g.toNat 0 o.i.toNat 6)
  | .cpget o => some (encF 0x2f o.g.toNat 0 o.i.toNat 7)
  | .fetchWordArrival _ _ => none
  | .parkedReexecute _ _ => none
  | .longLatencyFill _ _ => none
  | .loadDataArrival _ _ _ => none
  | .yieldHoldExpiry _ _ => none
  | .engineDeferredTrap _ _ => none
  | .arrivalInterruptEntry _ _ => none
  | .dispatchFill _ _ _ _ => none
  | .dispatchRetryExpiry _ => none
  | .stealRequestReceive _ _ => none
  | .stealAnswerReceive _ => none
  | .barrierArrivalAtHome _ => none
  | .barrierWake _ _ => none
  | .fwaitWake _ _ => none
  | .writeBufferDrain _ _ => none
  | .outboundDelivery _ _ => none
  | .pageWalk _ _ => none
  | .prefetchProgress _ => none
  | .escalationDrainRequest _ => none
  | .escalationAnswer _ => none
  | .atomicAtHome _ => none
  | .atomicReplyFill _ => none
  | .feOpAtOwner _ => none
  | .feResultFill _ => none
  | .takeRetryExpiry _ _ => none
  | .waitaReread _ _ => none
  | .waitWake _ _ => none
  | .channelWordDelivery _ _ => none
  | .recvFill _ => none
  | .creditBatchReceive _ => none
  | .chnewReply _ _ => none
  | .chstatReply _ _ => none
  | .moveRequest _ => none
  | .forwardOrder _ => none
  | .retarget _ => none
  | .retargetAnswer _ => none
  | .relocationComplete _ => none
  | .sendStateFlush _ => none
  | .sendStateFetchReply _ => none
  | .closureAtAnchor _ => none
  | .deadlockProbeStart _ _ => none
  | .probeHop _ => none
  | .peerUnreachable _ => none
  | .vectorExecutionStart _ => none
  | .vectorCompletion _ => none
  | .kstepLoadStart _ => none
  | .kstepComplete _ => none
  | .tmmaRetire _ => none
  | .copyRun _ => none
  | .copyCompletion _ _ => none
  | .faultRecordDeferredPost _ => none
  | .contextSave _ => none
  | .packetWaitExpiry _ => none
  | .deferredSaveRetry _ => none
  | .contextRestore _ _ => none
  | .groupOfferTimeout _ _ _ => none
  | .groupRetirement _ _ _ => none
  | .gridCompletionStore _ _ => none
  | .treqReceive _ => none
  | .tokReceive _ => none
  | .dmarkReceive _ => none
  | .treqTimeout _ _ => none
  | .preqReceive _ => none
  | .pactReceive _ => none
  | .pdeactReceive _ => none
  | .packReceive _ => none
  | .pdoneReceive _ => none
  | .censusReceive _ => none
  | .censusScan _ _ => none
  | .flitResend _ _ _ => none
  | .linkFailure _ _ => none
  | .checkpointIntervalExpiry _ => none
  | .checkpointStored _ _ => none
  | .beforeImageCopy _ _ => none
  | .towerResetTrigger _ _ => none
  | .rmaWrite _ => none
  | .rmaWriteAck _ => none
  | .rmaRead _ => none
  | .unsupportedRequest _ => none
  | .openReq _ => none
  | .closeReq _ => none
  | .resetReq _ => none
  | .registerReq _ => none
  | .deregisterReq _ => none
  | .mapqReq _ => none
  | .freeqReq _ => none
  | .mapReq _ => none
  | .loadReq _ => none
  | .launchReq _ => none
  | .guardReq _ => none
  | .checkpointReq _ => none
  | .attestReq _ => none
  | .peerReq _ => none
  | .targetReq _ => none
  | .updateReq _ => none
  | .easelTailNotify _ => none
  | .easelDispatch _ => none
  | .easelHoldbackExpiry _ => none
  | .queueRemap _ => none
  | .partitionEvaluation => none
  | .bedMoveGraceExpiry _ _ => none
  | .bedMoveFinish _ _ => none
  | .guardctlWrite _ _ => none
  | .ckptreqWrite _ _ => none
  | .resetreqWrite _ _ => none
  | .bedctlWrite _ _ _ => none
  | .ptrootWrite _ _ => none
  | .vtmapWrite _ _ => none
  | .waymaskWrite _ _ => none
  | .quantumWrite _ _ => none
  | .ectlWrite _ _ => none
  | .deviceRegisterWrite _ _ _ => none
  | .powerOnBoot => none
  | .voltageDerate _ => none
  | .voltagePowerOff _ => none
  | .thermalHold _ _ => none
  | .thermalRelease _ _ => none
  | .illegalWord _ => none
  | .remoteWindowAccess _ => none
  | .queueIdleExpiry _ => none
  | .inputVoltageNormal _ => none

/-- The word of an instruction (R22, R30 to R33). -/
def encode (i : Instr) : Option (BitVec 32) := (encodeNat i).map (BitVec.ofNat 32)

end Sys2Proof
end

