-- ==== Sys2Proof/Machine/Flags.lean ====
section
/-! DEFINITION. Floating-point values, rounding and the sticky flags of FPCTL (R66, R83 to R91 of
spec/05_scalar_instructions.md; R213 to R216 of spec/15_number_formats.md). Values are exact dyadic numbers; every
result is rounded once. -/

namespace Sys2Proof.Machine

/-- The sticky flags in FPCTL's bit order [5:0]: XS, NX, UF, OF, DZ, NV (R215). -/
abbrev FFlags := BitVec 6

/-- No flag. -/
def flagNone : FFlags := 0
/-- NV, invalid. -/
def flagNV : FFlags := 1
/-- DZ, divide-by-zero. -/
def flagDZ : FFlags := 2
/-- OF, overflow. -/
def flagOF : FFlags := 4
/-- UF, underflow. -/
def flagUF : FFlags := 8
/-- NX, inexact. -/
def flagNX : FFlags := 16
/-- XS, an exact-path addition saturated (R225). -/
def flagXS : FFlags := 32

/-- The flag f when c holds. -/
def flagIf (c : Bool) (f : FFlags) : FFlags := if c then f else 0

/-- FPCTL's rounding modes (R215). -/
inductive RMode where
  | rne | rtz | rup | rdn
  deriving DecidableEq, Repr

/-- The mode of FPCTL[9:8]. -/
def RMode.ofCode (c : BitVec 2) : RMode :=
  match c.toNat with
  | 0 => .rne
  | 1 => .rtz
  | 2 => .rup
  | _ => .rdn

/-- FPCTL's rounding mode field. -/
def fpctlMode (v : Word) : RMode := RMode.ofCode (v.extractLsb' 8 2)

/-- FPCTL with flags ORed in (R66). -/
def fpctlOr (v : Word) (f : FFlags) : Word := v ||| (f.zeroExtend 64)

/-- FPCTL keeps [9:8] and [5:0]; written reserved bits are discarded (R215). -/
def fpctlWrite (v : Word) : Word := v &&& 0x33F#64

/-- A floating-point format: exponent bits and fraction bits (R213). -/
structure FFmt where
  eb : Nat
  fb : Nat
  deriving DecidableEq, Repr

/-- fp32. -/
def fp32 : FFmt := ⟨8, 23⟩
/-- bf16. -/
def bf16 : FFmt := ⟨8, 7⟩
/-- fp16. -/
def fp16 : FFmt := ⟨5, 10⟩

/-- The exponent bias. -/
def FFmt.bias (f : FFmt) : Nat := 2 ^ (f.eb - 1) - 1
/-- The width in bits. -/
def FFmt.width (f : FFmt) : Nat := 1 + f.eb + f.fb
/-- The exponent of the last place of a subnormal. -/
def FFmt.emin (f : FFmt) : Int := 1 - (f.bias : Int) - (f.fb : Int)
/-- The all-ones exponent field. -/
def FFmt.emax (f : FFmt) : Nat := 2 ^ f.eb - 1

/-- The value of an encoding: a NaN (signalling or quiet), an infinity, or (−1)^neg × m × 2^e. -/
inductive FVal where
  | nan (signalling : Bool)
  | inf (neg : Bool)
  | fin (neg : Bool) (m : Nat) (e : Int)
  deriving DecidableEq, Repr

/-- The value of an encoding (R213). -/
def decodeF (f : FFmt) (bits : Nat) : FVal :=
  let fr := bits % 2 ^ f.fb
  let ex := bits / 2 ^ f.fb % 2 ^ f.eb
  let neg := decide (bits / 2 ^ (f.fb + f.eb) % 2 = 1)
  if ex = f.emax then
    if fr = 0 then .inf neg else .nan (decide (fr / 2 ^ (f.fb - 1) = 0))
  else if ex = 0 then .fin neg fr f.emin
  else .fin neg (2 ^ f.fb + fr) (f.emin + (ex : Int) - 1)

/-- The sign bit in its place. -/
def signBit (f : FFmt) (neg : Bool) : Nat := if neg then 2 ^ (f.fb + f.eb) else 0

/-- The canonical quiet NaN of a format (R66). -/
def canonNaN (f : FFmt) : Nat := f.emax * 2 ^ f.fb + 2 ^ (f.fb - 1)

/-- An infinity. -/
def encInf (f : FFmt) (neg : Bool) : Nat := signBit f neg + f.emax * 2 ^ f.fb

/-- The largest finite value. -/
def encMax (f : FFmt) (neg : Bool) : Nat := signBit f neg + f.emax * 2 ^ f.fb - 1

/-- Whether a remainder rem of 2^d (d ≥ 1) rounds the magnitude up (R66). -/
def roundsUp (rm : RMode) (neg odd : Bool) (rem d : Nat) : Bool :=
  match rm with
  | .rne => decide (2 ^ (d - 1) < rem) || (decide (rem = 2 ^ (d - 1)) && odd)
  | .rtz => false
  | .rup => decide (rem ≠ 0) && !neg
  | .rdn => decide (rem ≠ 0) && neg

/-- The magnitude m × 2^e as a whole number of units 2^q, and whether that was inexact. -/
def roundTo (rm : RMode) (neg : Bool) (m : Nat) (e q : Int) : Nat × Bool :=
  if q ≤ e then (m * 2 ^ (e - q).toNat, false)
  else
    let d := (q - e).toNat
    let sig := m / 2 ^ d
    let rem := m % 2 ^ d
    (if roundsUp rm neg (decide (sig % 2 = 1)) rem d then sig + 1 else sig, decide (rem ≠ 0))

/-- The number of bits of m. -/
def bitLen (m : Nat) : Nat := if m = 0 then 0 else Nat.log2 m + 1

/-- Overflow to infinity or to the largest finite value, by the mode (R66). -/
def overflowTo (f : FFmt) (rm : RMode) (neg : Bool) : Nat :=
  match rm, neg with
  | .rne, n => encInf f n
  | .rtz, n => encMax f n
  | .rup, false => encInf f false
  | .rup, true => encMax f true
  | .rdn, false => encMax f false
  | .rdn, true => encInf f true

/-- Round the exact non-zero or zero value (−1)^neg × m × 2^e to f: the encoding and the flags overflow, underflow
(tiny after rounding with an unbounded exponent, and inexact) and inexact (R66). -/
def roundF (f : FFmt) (rm : RMode) (neg : Bool) (m : Nat) (e : Int) : Nat × FFlags :=
  if m = 0 then (signBit f neg, 0)
  else
    let qu : Int := e + (bitLen m : Int) - ((f.fb : Int) + 1)
    let q : Int := max f.emin qu
    let r := roundTo rm neg m e q
    let carry := decide (r.1 = 2 ^ (f.fb + 1))
    let sig := if carry then 2 ^ f.fb else r.1
    let q' : Int := if carry then q + 1 else q
    let ef : Nat := if sig < 2 ^ f.fb then 0 else (q' - f.emin).toNat + 1
    let tiny := decide (qu < f.emin) &&
      decide ((roundTo rm neg m e qu).1 < 2 ^ (f.fb + (f.emin - qu).toNat))
    if f.emax ≤ ef then (overflowTo f rm neg, flagOF ||| flagNX)
    else (signBit f neg + (if ef = 0 then sig else ef * 2 ^ f.fb + (sig - 2 ^ f.fb)),
          flagIf r.2 flagNX ||| flagIf (tiny && r.2) flagUF)

/-- The value is a signalling NaN. -/
def FVal.isSnan : FVal → Bool
  | .nan s => s
  | _ => false

/-- The value is a NaN. -/
def FVal.isNan : FVal → Bool
  | .nan _ => true
  | _ => false

/-- The value with its sign inverted. -/
def FVal.neg : FVal → FVal
  | .nan s => .nan s
  | .inf n => .inf (!n)
  | .fin n m e => .fin (!n) m e

/-- The canonical NaN with the invalid flag when c holds. -/
def nanResult (f : FFmt) (c : Bool) : Nat × FFlags := (canonNaN f, flagIf c flagNV)

/-- The signed integer (−1)^n × m. -/
def signedOf (n : Bool) (m : Nat) : Int := if n then -(m : Int) else (m : Int)

/-- Round the sum of two finite values; an exact zero sum is +0, or −0 in RDN, unless both are zeros of one sign
(R83). -/
def addFin (f : FFmt) (rm : RMode) (n1 : Bool) (m1 : Nat) (e1 : Int) (n2 : Bool) (m2 : Nat) (e2 : Int) :
    Nat × FFlags :=
  let e := min e1 e2
  let s : Int := signedOf n1 (m1 * 2 ^ (e1 - e).toNat) + signedOf n2 (m2 * 2 ^ (e2 - e).toNat)
  if s = 0 then
    if m1 = 0 ∧ m2 = 0 ∧ n1 = n2 then (signBit f n1, 0)
    else (signBit f (decide (rm = .rdn)), 0)
  else roundF f rm (decide (s < 0)) s.natAbs e

/-- a + b (R83). -/
def addV (f : FFmt) (rm : RMode) (a b : FVal) : Nat × FFlags :=
  match a, b with
  | .nan s, b => nanResult f (s || b.isSnan)
  | a, .nan s => nanResult f (s || a.isSnan)
  | .inf n, .inf k => if n = k then (encInf f n, 0) else nanResult f true
  | .inf n, .fin _ _ _ => (encInf f n, 0)
  | .fin _ _ _, .inf n => (encInf f n, 0)
  | .fin n1 m1 e1, .fin n2 m2 e2 => addFin f rm n1 m1 e1 n2 m2 e2

/-- a − b (R83): the sum with b's sign inverted; a NaN stays a NaN. -/
def subV (f : FFmt) (rm : RMode) (a b : FVal) : Nat × FFlags := addV f rm a b.neg

/-- a × b (R83). -/
def mulV (f : FFmt) (rm : RMode) (a b : FVal) : Nat × FFlags :=
  match a, b with
  | .nan s, b => nanResult f (s || b.isSnan)
  | a, .nan s => nanResult f (s || a.isSnan)
  | .inf n, .inf k => (encInf f (xor n k), 0)
  | .inf n, .fin k m _ => if m = 0 then nanResult f true else (encInf f (xor n k), 0)
  | .fin k m _, .inf n => if m = 0 then nanResult f true else (encInf f (xor n k), 0)
  | .fin n1 m1 e1, .fin n2 m2 e2 => roundF f rm (xor n1 n2) (m1 * m2) (e1 + e2)

/-- a × b + c with one rounding; 0 × ∞ is invalid even when c is a NaN (R84). -/
def fmaV (f : FFmt) (rm : RMode) (a b c : FVal) : Nat × FFlags :=
  let snan := a.isSnan || b.isSnan || c.isSnan
  let zeroInf := match a, b with
    | .inf _, .fin _ m _ => decide (m = 0)
    | .fin _ m _, .inf _ => decide (m = 0)
    | _, _ => false
  if a.isNan || b.isNan || c.isNan || zeroInf then nanResult f (snan || zeroInf)
  else
    match a, b with
    | .fin n1 m1 e1, .fin n2 m2 e2 => addV f rm (.fin (xor n1 n2) (m1 * m2) (e1 + e2)) c
    | .fin n _ _, .inf k => addV f rm (.inf (xor n k)) c
    | .inf n, .fin k _ _ => addV f rm (.inf (xor n k)) c
    | .inf n, .inf k => addV f rm (.inf (xor n k)) c
    | _, _ => nanResult f snan

/-- The quotient of two naturals with k extra bits, its lowest bit set when inexact. -/
def stickyQuot (m1 m2 k : Nat) : Nat :=
  let q := m1 * 2 ^ k / m2
  2 * q + (if m1 * 2 ^ k % m2 = 0 then 0 else 1)

/-- a ÷ b (R83). -/
def divV (f : FFmt) (rm : RMode) (a b : FVal) : Nat × FFlags :=
  match a, b with
  | .nan s, b => nanResult f (s || b.isSnan)
  | a, .nan s => nanResult f (s || a.isSnan)
  | .inf _, .inf _ => nanResult f true
  | .inf n, .fin k _ _ => (encInf f (xor n k), 0)
  | .fin k _ _, .inf n => (signBit f (xor n k), 0)
  | .fin n1 m1 e1, .fin n2 m2 e2 =>
    if m2 = 0 then
      if m1 = 0 then nanResult f true else (encInf f (xor n1 n2), flagDZ)
    else
      let k := bitLen m2 + f.fb + 4
      roundF f rm (xor n1 n2) (stickyQuot m1 m2 k) (e1 - e2 - (k : Int) - 1)

/-- Newton's step towards the integer square root of n, from above. -/
def sqrtIter (n : Nat) : Nat → Nat → Nat
  | 0, x => x
  | fuel + 1, x =>
    let y := (x + n / x) / 2
    if y < x then sqrtIter n fuel y else x

/-- The integer square root. -/
def isqrt (n : Nat) : Nat := if n = 0 then 0 else sqrtIter n (bitLen n + 8) (2 ^ ((bitLen n + 1) / 2))

/-- √a (R83). -/
def sqrtV (f : FFmt) (rm : RMode) (a : FVal) : Nat × FFlags :=
  match a with
  | .nan s => nanResult f s
  | .inf n => if n then nanResult f true else (encInf f false, 0)
  | .fin n m e =>
    if m = 0 then (signBit f n, 0)
    else if n then nanResult f true
    else
      let k : Nat := 2 * (f.fb + 4) + (if (e - 2 * (f.fb + 4 : Nat)) % 2 = 0 then 0 else 1)
      let x := m * 2 ^ k
      let s := isqrt x
      roundF f rm false (2 * s + (if s * s = x then 0 else 1)) ((e - (k : Int)) / 2 - 1)

/-- a < b on two finite or infinite values; −0 equals +0 (R86). -/
def ltV (a b : FVal) : Bool :=
  match a, b with
  | .nan _, _ => false
  | _, .nan _ => false
  | .inf n, .inf k => n && !k
  | .inf n, .fin _ _ _ => n
  | .fin _ _ _, .inf k => !k
  | .fin n1 m1 e1, .fin n2 m2 e2 =>
    let e := min e1 e2
    decide (signedOf n1 (m1 * 2 ^ (e1 - e).toNat) < signedOf n2 (m2 * 2 ^ (e2 - e).toNat))

/-- a = b; −0 equals +0; false for a NaN (R86). -/
def eqV (a b : FVal) : Bool :=
  match a, b with
  | .nan _, _ => false
  | _, .nan _ => false
  | .inf n, .inf k => n == k
  | .inf _, .fin _ _ _ => false
  | .fin _ _ _, .inf _ => false
  | .fin n1 m1 e1, .fin n2 m2 e2 =>
    let e := min e1 e2
    decide (signedOf n1 (m1 * 2 ^ (e1 - e).toNat) = signedOf n2 (m2 * 2 ^ (e2 - e).toNat))

/-- The value's sign. -/
def FVal.sign : FVal → Bool
  | .nan _ => false
  | .inf n => n
  | .fin n _ _ => n

/-- FMIN's and FMAX's order, with −0 below +0 (R85). -/
def belowV (a b : FVal) : Bool := ltV a b || (eqV a b && a.sign && !b.sign)

/-- FMIN (mx = false) or FMAX (mx = true) on encodings a and b (R85). -/
def minMaxF (f : FFmt) (mx : Bool) (a b : Nat) : Nat × FFlags :=
  let va := decodeF f a
  let vb := decodeF f b
  let fl := flagIf (va.isSnan || vb.isSnan) flagNV
  if va.isNan && vb.isNan then (canonNaN f, fl)
  else if va.isNan then (b, fl)
  else if vb.isNan then (a, fl)
  else if belowV va vb then (if mx then b else a, fl)
  else (if mx then a else b, fl)

/-- The comparisons of R86: 0 equal, 1 less, 2 less or equal. -/
def cmpF (f : FFmt) (rel : Nat) (a b : Nat) : Bool × FFlags :=
  let va := decodeF f a
  let vb := decodeF f b
  let anyNan := va.isNan || vb.isNan
  let anySnan := va.isSnan || vb.isSnan
  match rel with
  | 0 => (eqV va vb, flagIf anySnan flagNV)
  | 1 => (ltV va vb, flagIf anyNan flagNV)
  | _ => (ltV va vb || eqV va vb, flagIf anyNan flagNV)

/-- FCLASS's one-hot mask (R87). -/
def classF (f : FFmt) (bits : Nat) : Nat :=
  match decodeF f bits with
  | .nan s => if s then 2 ^ 8 else 2 ^ 9
  | .inf n => if n then 2 ^ 0 else 2 ^ 7
  | .fin n m _ =>
    if m = 0 then (if n then 2 ^ 3 else 2 ^ 4)
    else if m < 2 ^ f.fb then (if n then 2 ^ 2 else 2 ^ 5)
    else (if n then 2 ^ 1 else 2 ^ 6)

/-- The value rounded to an integer in a mode, and whether it was inexact. -/
def toIntV (rm : RMode) (n : Bool) (m : Nat) (e : Int) : Int × Bool :=
  let r := roundTo rm n m e 0
  (signedOf n r.1, r.2)

/-- A float to an integer clamped to lo … hi: NaN gives 0; a clamped value raises invalid, else inexact when not
integral (R88, R245). -/
def floatToInt (rm : RMode) (lo hi : Int) (v : FVal) : Int × FFlags :=
  match v with
  | .nan _ => (0, flagNV)
  | .inf n => (if n then lo else hi, flagNV)
  | .fin n m e =>
    let r := toIntV rm n m e
    if r.1 < lo then (lo, flagNV)
    else if hi < r.1 then (hi, flagNV)
    else (r.1, flagIf r.2 flagNX)

/-- An integer to a float by one rounding; zero is +0 (R89). -/
def intToFloat (f : FFmt) (rm : RMode) (x : Int) : Nat × FFlags := roundF f rm (decide (x < 0)) x.natAbs 0

/-- A float converted to another format by one rounding (R90, R245). -/
def convF (f : FFmt) (rm : RMode) (v : FVal) : Nat × FFlags :=
  match v with
  | .nan s => nanResult f s
  | .inf n => (encInf f n, 0)
  | .fin n m e => roundF f rm n m e

/-- FNEG and FABS on an encoding: the sign inverted or cleared, a NaN canonical, no flag (R91). -/
def negAbsF (f : FFmt) (clear : Bool) (bits : Nat) : Nat :=
  if (decodeF f bits).isNan then canonNaN f
  else
    let mag := bits % 2 ^ (f.fb + f.eb)
    let neg := decide (bits / 2 ^ (f.fb + f.eb) % 2 = 1)
    mag + signBit f (if clear then false else !neg)

/-- The number of fraction bits with which VEXP2 works (log entry 12). -/
def exp2Prec : Nat := 320

/-- 2^(2^−i) in fixed point, by repeated square roots from 2. -/
def exp2Root : Nat → Nat
  | 0 => 2 * 2 ^ exp2Prec
  | i + 1 => isqrt (exp2Root i * 2 ^ exp2Prec)

/-- The product of 2^(2^−i) over the one bits i = k … 1 of fr × 2^−k, in fixed point: acc enters, r is the root of
the present bit. -/
def exp2Frac (fr k : Nat) : Nat → Nat → Nat → Nat
  | 0, _, acc => acc
  | n + 1, r, acc =>
    let r' := isqrt (r * 2 ^ exp2Prec)
    let i := k - n
    let acc' := if fr / 2 ^ (k - i) % 2 = 1 then acc * r' / 2 ^ exp2Prec else acc
    exp2Frac fr k n r' acc'

/-- 2^a correctly rounded (R242 VEXP2, R214). The integer part of a is exact; the fractional part is worked in
fixed point with a sticky last bit, since no power of two with a fractional exponent is a dyadic number. -/
def exp2V (f : FFmt) (rm : RMode) (v : FVal) : Nat × FFlags :=
  match v with
  | .nan s => nanResult f s
  | .inf n => if n then (0, 0) else (encInf f false, 0)
  | .fin n m e =>
    if 0 ≤ e + (bitLen m : Int) - 12 ∧ m ≠ 0 then
      -- |a| is at least 2^11: far out of every format's range
      if n then roundF f rm false 1 (-2000) else roundF f rm false 1 2000
    else if 0 ≤ e then roundF f rm false 1 (signedOf n (m * 2 ^ e.toNat))
    else
      let k := (-e).toNat
      let x : Int := signedOf n m
      let ip : Int := x / (2 ^ k : Nat)
      let fr : Nat := (x % (2 ^ k : Nat)).toNat
      if fr = 0 then roundF f rm false 1 ip
      else
        let p := exp2Frac fr k k (2 * 2 ^ exp2Prec) (2 ^ exp2Prec)
        roundF f rm false (2 * p + 1) (ip - (exp2Prec : Int) - 1)

end Sys2Proof.Machine
end

