-- ==== Sys2Proof/Machine/Ops.lean ====
section
/-! DEFINITION. The operations every meaning is written over: the executing context, its registers, how an
instruction ends, the checks of steps 3 to 7 of R21, taking a trap and returning from one (R299 to R304), and the
fault queue (R306 to R308). -/

namespace Sys2Proof.Machine

/-! ### Contexts and registers -/

/-- A context of a core, with an unlisted one as after reset. -/
def Core.ctx (c : Core) (k : Nat) : Ctx := fget (if k = 0 then Ctx.zero else Ctx.fresh) c.ctxs k

/-- Write a context of a core. -/
def Core.setCtx (c : Core) (k : Nat) (x : Ctx) : Core := { c with ctxs := fset c.ctxs k x }

/-- A context by core and number. -/
def State.ctx (s : State) (g k : Nat) : Ctx := (s.core g).ctx k

/-- Write a context. -/
def State.setCtx (s : State) (g k : Nat) (x : Ctx) : State := s.setCore g ((s.core g).setCtx k x)

/-- The same part with another executing context. -/
def State.at (s : State) (q : Nat × Nat) : State := { s with cur := q }

/-- The executing core's number. -/
def State.coreNo (s : State) : Nat := s.cur.1

/-- The executing context's number. -/
def State.ctxNo (s : State) : Nat := s.cur.2

/-- The executing context. -/
def State.me (s : State) : Ctx := s.ctx s.cur.1 s.cur.2

/-- Write the executing context. -/
def State.setMe (s : State) (x : Ctx) : State := s.setCtx s.cur.1 s.cur.2 x

/-- The executing core. -/
def State.myCore (s : State) : Core := s.core s.cur.1

/-- Write the executing core. -/
def State.setMyCore (s : State) (c : Core) : State := s.setCore s.cur.1 c

/-- The global context number (R7). -/
def gctx (g k : Nat) : Nat := g * 16 + k

/-- The number of contexts of a core (R8). -/
def Core.count (c : Core) : Nat := if c.wide then 8 else 16

/-- The number of registers of a context (R37). -/
def Core.regCount (c : Core) : Nat := if c.wide then 64 else 32

/-- A register field names the shadow bank: fields 24 to 31 while an arrival-interrupt handler runs (R43). -/
def inShadow (ih : Bool) (n : RegNo) : Bool := ih && decide (24 ≤ n.toNat) && decide (n.toNat < 32)

/-- A register of a bank by number; g0 reads 0, full, untagged (R38). -/
def Ctx.regIn (c : Ctx) (sh : Bool) (n : RegNo) : GReg :=
  if n = 0 then GReg.zero
  else if sh then c.shadow.getD (n.toNat - 24) GReg.zero
  else c.regs[n.toNat]'(n.isLt)

/-- Write a register of a bank; a write to g0 is discarded (R38). -/
def Ctx.setRegIn (c : Ctx) (sh : Bool) (n : RegNo) (v : GReg) : Ctx :=
  if n = 0 then c
  else if sh then { c with shadow := c.shadow.setIfInBounds (n.toNat - 24) v }
  else { c with regs := c.regs.set n.toNat v (n.isLt) }

/-- The register a field names in the context's present bank (R43). -/
def Ctx.reg (c : Ctx) (n : RegNo) : GReg := c.regIn (inShadow c.ih n) n

/-- Write the register a field names in the present bank. -/
def Ctx.setReg (c : Ctx) (n : RegNo) (v : GReg) : Ctx := c.setRegIn (inShadow c.ih n) n v

/-- The fill of a pending register lands (R39); one that a REPART has given up reads 0 from then on (R95). -/
def Ctx.fillReg (c : Ctx) (sh : Bool) (n : RegNo) (v : GReg) : Ctx :=
  if !sh && c.void.contains n.toNat then { c.setRegIn sh n GReg.zero with void := c.void.filter fun i => decide (i ≠ n.toNat) }
  else c.setRegIn sh n v

/-- A full register holding a value, with or without a tag (R39, R40). -/
def GReg.of (v : Word) (tag : Bool) : GReg := ⟨v, .full, tag, none⟩

/-- The value a field names in the executing context. -/
def State.g (s : State) (n : RegNo) : Word := (s.me.reg n).val

/-- The tag of the register a field names in the executing context. -/
def State.gtag (s : State) (n : RegNo) : Bool := (s.me.reg n).tag

/-- Write rd full with tag 0 (R64). -/
def State.put (s : State) (n : RegNo) (v : Word) : State := s.setMe (s.me.setReg n (GReg.of v false))

/-- Write rd full with a tag. -/
def State.putTagged (s : State) (n : RegNo) (v : Word) (t : Bool) : State :=
  s.setMe (s.me.setReg n (GReg.of v t))

/-- Leave rd pending (R39). -/
def State.putPending (s : State) (n : RegNo) : State :=
  s.setMe (s.me.setReg n { s.me.reg n with st := .pending, tag := false, acq := none })

/-- The second register of a pair (R41). -/
def pairOf (n : RegNo) : RegNo := n + 1

/-! ### How an instruction ends -/

/-- How an instruction ends: with its effect, with a trap and no effect, with a page fault of R145, or parked. -/
inductive Eff where
  | done (s : State)
  | trap (cause : Nat) (tval : Word)
  | pageFault (cause : Nat) (tval : Word)
  | park (s : State) (p : Park)

/-- The mask count after an instruction has completed (R180). -/
def tick (n : BitVec 6) : BitVec 6 := if n = 0 then 0 else n - 1

/-- The executing thread completes its instruction and goes on at pc (R94, R180). -/
def State.goto (s : State) (pc : Word) : State :=
  s.setMe { s.me with pc := pc, icount := tick s.me.icount, park := none, relMark := none, inval := none, fetched := none }

/-- The executing thread completes its instruction and goes on at PC + 4. -/
def State.next4 (s : State) : State := s.goto (s.me.pc + 4)

/-- The thread parks and re-executes the instruction later (R1). -/
def State.parkMe (s : State) (p : Park) : State := s.setMe { s.me with park := some p, parkTime := s.clock }

/-! ### The fault queue (R306 to R308) -/

/-- The queue a core's records go to: its basin's, or the atelier's for an unassigned bed, M-mode code, or a basin
without a queue (R306, R393). -/
def faultQueueOf (s : State) (basin : Nat) : Nat :=
  if basin < 64 ∧ (fget Basin.fresh s.basins basin).fqhdr ≠ 0 then basin else 64

/-- The header address of a queue; 0 while none is set (R393, R395). -/
def queueHeader (s : State) (q : Nat) : Nat :=
  if q < 64 then (fget Basin.fresh s.basins q).fqhdr.toNat else s.afqhdr.toNat

/-- The number of entries of a record (R308). -/
def FaultRec.entries (r : FaultRec) : Nat := if r.kind = 3 then 3 else 1

/-- The bytes of a record at sequence number seq (R308). -/
def FaultRec.words (r : FaultRec) (seq : Nat) : List Nat :=
  [seq % 2 ^ 32 * 2 ^ 32 + r.entries * 2 ^ 16 + r.kind * 2 ^ 8 + r.cause,
   r.ticket % 2 ^ 16 * 2 ^ 48 + r.source % 2 ^ 16,
   r.epc.toNat, r.tval.toNat, r.extra.toNat, 0, 0, 0] ++
  (if r.kind = 3 then (List.range 16).map fun i => (r.parts.getD i 0).toNat else [])

/-- How the part's stores to a queue reach memory: in the ways of the queue's basin (R386). -/
def queueVia (q : Nat) : Via := ⟨q, none⟩

/-- Store a record's entries from index put on, wrapping at size entries (R307 step 1). -/
def storeEntries (s : State) (v : Via) (hdr size put : Nat) : Nat → List Nat → State
  | _, [] => s
  | i, w :: r =>
    let a := hdr + 64 + ((put + i / 8) % max 1 size) * 64 + (i % 8) * 8
    storeEntries (perform64Via s v a (BitVec.ofNat 64 w)) v hdr size put (i + 1) r

/-- Post a record whose queue has room (R307 steps 1 and 2); none when it has no room. -/
def tryPost (s : State) (r : FaultRec) : Option State :=
  let h := queueHeader s r.queue
  let put := read64 s.mem h
  let get := read64 s.mem (h + 8)
  let size := read64 s.mem (h + 16)
  if r.entries ≤ size.toNat - (put - get).toNat then
    let s1 := storeEntries s (queueVia r.queue) h size.toNat put.toNat 0 (r.words put.toNat)
    some (perform64Via s1 (queueVia r.queue) h (put + BitVec.ofNat 64 r.entries))
  else none

/-- LOST of a queue counts a record (R307). -/
def countLost (s : State) (q : Nat) : State :=
  let h := queueHeader s q
  perform64Via s (queueVia q) (h + 24) (read64 s.mem (h + 24) + 1)

/-- Post a record (R307): with no room it waits, if it may and none waits for its context or copy already, and
otherwise LOST counts it. A record for the atelier while AFQHDR is 0 is counted in AFQLOST (R395). -/
def post (s : State) (r : FaultRec) : State :=
  let h := queueHeader s r.queue
  if h = 0 then { s with afqlost := s.afqlost + 1 }
  else
    match tryPost s r with
    | some s' => s'
    | none =>
      match r.waitKey with
      | some k =>
        if s.faultWait.any (fun w => decide (w.waitKey = some k)) then
          countLost s r.queue
        else { s with faultWait := s.faultWait ++ [r] }
      | none => countLost s r.queue

/-! ### Traps (R299 to R304) -/

/-- The causes of R302. -/
def causeILL : Nat := 0x01
def causeABSENT : Nat := 0x02
def causePRIV : Nat := 0x03
def causeREGEMPTY : Nat := 0x04
def causeREGNONE : Nat := 0x05
def causeMISALIGN : Nat := 0x06
def causeFETCH : Nat := 0x07
def causeLOADF : Nat := 0x08
def causeSTOREF : Nat := 0x09
def causeTAGSTORE : Nat := 0x0A
def causeHANDLE : Nat := 0x0B
def causePACKET : Nat := 0x0C
def causeSTREAM : Nat := 0x0D
def causeENGINE : Nat := 0x0E
def causeSYSCALL : Nat := 0x11
def causeBREAK : Nat := 0x12
def causeDEADLOCK : Nat := 0x13
def causeSAVEFULL : Nat := 0x14
def causeCHECKPOINT : Nat := 0x15
def causeRESET : Nat := 0x16

/-- The handler mode (R299): S for a thread in U or S, M for one in M. -/
def Mode.handler : Mode → Mode
  | .m => .m
  | _ => .s

/-- The queue of a core's faults: the basin of its bed (R303 TENANT), or the atelier's for M-mode code and unassigned
beds (R306). -/
def faultBasin (s : State) (g : Nat) (md : Mode) : Nat :=
  if md = .m ∨ (s.core g).tenant.getLsbD 6 then 64 else (s.core g).tenant.toNat % 64

/-- A record of kind DOUBLE (R301, R308) with a save handle, to one queue. -/
def doubleRec (s : State) (g k q : Nat) (handle : Word) : FaultRec :=
  let c := s.ctx g k
  let ct := match c.stop with
    | some (.double ca tv) => (ca, tv)
    | _ => (c.cause.toNat, c.tval)
  ⟨q, 2, ct.1, 0, gctx g k, c.pc, ct.2, handle, [], none⟩

/-- A double trap (R301). Context 0 halts, and records with handle 0 go to its basin's queue and to the atelier's;
any other thread stops and is saved by the part, which posts the record with the save handle. -/
def doubleTrap (s : State) (g k : Nat) (cause : Nat) (tval : Word) : State :=
  if k = 0 then
    let s1 := s.setCtx g k { s.ctx g k with stop := some (.double cause tval), park := none, range := none }
    let q := faultQueueOf s (faultBasin s g (s.ctx g k).mode)
    let s2 := post s1 (doubleRec s1 g k q 0)
    let s3 := if q = 64 then s2 else post s2 (doubleRec s1 g k 64 0)
    s3.setCtx g k { s3.ctx g k with stop := some .dead }
  else
    let s1 := s.setCtx g k { s.ctx g k with stop := some (.double cause tval), park := none, range := none }
    { s1.bump with saves := s1.saves ++ [⟨s1.serial, g, k, 4, none, false, true, false, none, false⟩] }

/-- The registers a trap writes (R300): EPC, CAUSE, TVAL, PMODE, the handler mode, TH, the mask count and the PC. -/
def Ctx.enter (c : Ctx) (tvec : Word) (cause : Nat) (tval epc : Word) : Ctx :=
  { c with
    epc := epc, cause := BitVec.ofNat 8 cause, tval := tval,
    pmode := BitVec.ofNat 2 c.mode.code, mode := c.mode.handler, th := true, icount := 0, pc := tvec,
    park := none, relMark := none, inval := none, fetched := none, range := none }

/-- A context gives up its place among those that wait for the tile engine, if it has one (R255): it stands at its TBIND no more. -/
def leaveTile (s : State) (g k : Nat) : State :=
  let c := s.core g
  if c.tile.waiters.contains k then s.setCore g { c with tile := { c.tile with waiters := c.tile.waiters.filter fun w => decide (w ≠ k) } }
  else s

/-- Take a trap in a context (R300): with TH = 1 it is a double trap. -/
def takeTrap (s0 : State) (g k : Nat) (cause : Nat) (tval epc : Word) : State :=
  let s := leaveTile s0 g k
  if (s.ctx g k).th then doubleTrap s g k cause tval
  else s.setCtx g k ((s.ctx g k).enter (s.core g).tvec cause tval epc)

/-- A page fault of R145: taken as a trap, but in S-mode code posted as a record of kind THREAD while the thread
stops at the instruction (R300); a fetch fault at TVEC with TH = 1 is a double trap in every mode. -/
def takePageFault (s0 : State) (g k : Nat) (cause : Nat) (tval : Word) : State :=
  let s := leaveTile s0 g k
  let c := s.ctx g k
  if c.mode = .s ∧ !(c.th && decide (cause = causeFETCH) && decide (c.pc = (s.core g).tvec)) then
    let s1 := s.setCtx g k { c with stop := some .fault, park := none, relMark := none, inval := none, fetched := none, range := none }
    post s1 ⟨faultQueueOf s (faultBasin s g c.mode), 0, cause, 0, gctx g k, c.pc, tval, 0, [], some (gctx g k)⟩
  else takeTrap s g k cause tval c.pc

/-- Return from a trap (R316): the mode of PMODE, TH := 0, PC := EPC; a misaligned EPC takes MISALIGN. -/
def Ctx.eret (c : Ctx) : Ctx :=
  { c with mode := Mode.ofCode c.pmode.toNat, th := false, pc := c.epc }

/-- Return from an arrival-interrupt handler (R181). -/
def Ctx.iret (c : Ctx) : Ctx := { c with ih := false, icount := 0, pc := c.iepc }

/-- The end of the executing instruction as the outcome of the step. -/
def finish (s : State) (e : Eff) : Host.Outcome State Fault Refusal :=
  match e with
  | .done s' => .next s'
  | .trap cause tval => .next (takeTrap s s.cur.1 s.cur.2 cause tval s.me.pc)
  | .pageFault cause tval => .next (takePageFault s s.cur.1 s.cur.2 cause tval)
  | .park s' p => .next (s'.parkMe p)

/-! ### Steps 3 to 7 of R21 -/

/-- The word of an instruction as TVAL holds it (R302). -/
def wordOf (i : Instr) : Word := BitVec.ofNat 64 ((encodeNat i).getD 0)

/-- What an instruction uses of the registers: its register fields in the bit order of the word, its sources with
the trap bit that governs each (false where none does), and its destinations. -/
structure Use where
  fields : List RegNo
  srcs : List (RegNo × Bool)
  dsts : List RegNo
  deriving DecidableEq, Repr

/-- Step 5 of R21: the first field that names a register the context does not have (R37). -/
def Use.none? (u : Use) (count : Nat) : Option RegNo := u.fields.find? fun n => decide (count ≤ n.toNat)

/-- The sources that are empty, pending ones included (R21 steps 6 and 7). -/
def Use.emptySrcs (u : Use) (c : Ctx) : List (RegNo × Bool) := u.srcs.filter fun p => (c.reg p.1).st != .full

/-- The destinations whose fill is pending (step 7). -/
def Use.pendingDsts (u : Use) (c : Ctx) : List RegNo := u.dsts.filter fun n => (c.reg n).st == .pending

/-- The park of step 7, on pairs (bank, number): on the sources, or, when they are full, on the destinations. -/
def Use.waitsFor (u : Use) (c : Ctx) : Option Park :=
  match u.emptySrcs c, u.pendingDsts c with
  | p :: l, _ => some (.regs ((p :: l).map fun p => (inShadow c.ih p.1, p.1.toNat)))
  | [], n :: l => some (.dests ((n :: l).map fun n => (inShadow c.ih n, n.toNat)))
  | [], [] => none

/-- The acquires that the sources still owe (R163): by cores other than the present one. -/
def Use.acquires (u : Use) (c : Ctx) : List Acq := u.srcs.filterMap fun p => (c.reg p.1).acq

/-- The registers of the sources owe no acquire any more. -/
def Ctx.settled (c : Ctx) : List (RegNo × Bool) → Ctx
  | [] => c
  | p :: r => Ctx.settled (c.setReg p.1 { c.reg p.1 with acq := none }) r

/-- The scope of an acquire made on core g (R163, R203). -/
def Acq.scope (a : Acq) (g : Nat) : Nat := if a.sys then 4 else scopeOf a.core g

/-- An acquire of a carrier by the executing thread (R163, R406): when every store the release covers is visible at
the narrowest scope that encloses the two cores, L1 is flash-invalidated where that scope is wider than core;
otherwise an escalation is asked for and the thread parks. -/
def acquireAll (s : State) (l : List Acq) (k : State → Eff) : Eff :=
  match l.find? fun a => !visibleAt s (a.scope s.cur.1) a.core a.mark with
  | some a =>
    .park { s.bump with escs := s.escs ++ [⟨s.serial, s.cur.1, s.cur.2, a.core, a.mark, false⟩] } (.escalation s.serial)
  | none => if l.any (fun a => decide (2 ≤ a.scope s.cur.1)) then k (flashL1 s s.cur.1) else k s

/-- Steps 5 to 7 of R21 for the executing context, and the acquires its sources owe (R163); the instruction's own
description follows in `k`. Of several empty registers with trap bit 1 the trap names the first in the order ra, rb, rd (log entry
42). -/
def gate (s : State) (u : Use) (k : State → Eff) : Eff :=
  match u.none? s.myCore.regCount with
  | some n => .trap causeREGNONE (BitVec.ofNat 64 n.toNat)
  | none =>
    match (u.emptySrcs s.me).find? (fun p => p.2) with
    | some p => .trap causeREGEMPTY (BitVec.ofNat 64 p.1.toNat)
    | none =>
      match u.waitsFor s.me with
      | some p => .park s p
      | none =>
        match u.acquires s.me with
        | [] => k s
        | l => acquireAll s l fun s' => k (s'.setMe (s'.me.settled u.srcs))

/-- Step 4 of R21 for an instruction with a lowest mode and a context condition (R35): PRIV with the word. -/
def privGate (s : State) (i : Instr) (lowest : Mode) (zeroOnly : Bool) (k : Eff) : Eff :=
  if lowest.code ≤ s.me.mode.code ∧ (zeroOnly = false ∨ s.cur.2 = 0) then k else .trap causePRIV (wordOf i)

/-- Step 3 of R21: a unit whose CAPS bit is zero (R18, R34). -/
def capsGate (s : State) (i : Instr) (bit : Nat) (k : Eff) : Eff :=
  if s.caps.getLsbD bit then k else .trap causeABSENT (wordOf i)

end Sys2Proof.Machine

namespace Sys2Proof

open Sys2Proof.Machine

/-! ### Uses by format (R22 to R25) -/

/-- rd, ra, rb with both trap bits. -/
def R3.use (o : R3) : Use := ⟨[o.d, o.a, o.b], [(o.a, o.x), (o.b, o.y)], [o.d]⟩
/-- As R3, with rd also a source that always parks (CSEL, FMA; R25). -/
def R3.useRd (o : R3) : Use := ⟨[o.d, o.a, o.b], [(o.a, o.x), (o.b, o.y), (o.d, false)], [o.d]⟩
/-- rd and ra. -/
def R2.use (o : R2) : Use := ⟨[o.d, o.a], [(o.a, o.x)], [o.d]⟩
/-- A pair rd, rd + 1 and ra (R41). -/
def R2.usePair (o : R2) : Use := ⟨[o.d, o.a], [(o.a, o.x)], [o.d, pairOf o.d]⟩
/-- ra and rb. -/
def Rab.use (o : Rab) : Use := ⟨[o.a, o.b], [(o.a, o.x), (o.b, o.y)], []⟩
/-- ra. -/
def Ra.use (o : Ra) : Use := ⟨[o.a], [(o.a, o.x)], []⟩
/-- rd. -/
def Rd.use (o : Rd) : Use := ⟨[o.d], [], [o.d]⟩
/-- I format. -/
def Imm.use (o : Imm) : Use := ⟨[o.d, o.a], [(o.a, o.x)], [o.d]⟩
/-- SHI. -/
def Shi.use (o : Shi) : Use := ⟨[o.d, o.a], [(o.a, o.x)], [o.d]⟩
/-- U and J formats. -/
def Up.use (o : Up) : Use := ⟨[o.d], [], [o.d]⟩
/-- JT. -/
def Jt.use (o : Jt) : Use := ⟨[o.a, o.b], [(o.a, o.x), (o.b, o.y)], []⟩
/-- B format. -/
def Br.use (o : Br) : Use := ⟨[o.a, o.b], [(o.a, o.x), (o.b, o.y)], []⟩
/-- A load of one register. -/
def Ld.use (o : Ld) : Use := ⟨[o.d, o.a], [(o.a, o.x)], [o.d]⟩
/-- A load of a pair. -/
def Ld.usePair (o : Ld) : Use := ⟨[o.d, o.a], [(o.a, o.x)], [o.d, pairOf o.d]⟩
/-- A store of one register. -/
def St.use (o : St) : Use := ⟨[o.d, o.a], [(o.a, o.x), (o.d, o.y)], []⟩
/-- A store of a pair. -/
def St.usePair (o : St) : Use := ⟨[o.d, o.a], [(o.a, o.x), (o.d, o.y), (pairOf o.d, o.y)], []⟩
/-- An atomic whose rd is only a destination. -/
def Am.use (o : Am) : Use := ⟨[o.d, o.a, o.b], [(o.a, false), (o.b, false)], [o.d]⟩
/-- CAS and ADDBND, which read rd (R25). -/
def Am.useRd (o : Am) : Use := ⟨[o.d, o.a, o.b], [(o.a, false), (o.b, false), (o.d, false)], [o.d]⟩
/-- X format with three registers, rd a destination. -/
def X3.use (o : X3) : Use := ⟨[o.d, o.a, o.b], [(o.a, false), (o.b, false)], [o.d]⟩
/-- X format with rd a pair. -/
def X3.usePair (o : X3) : Use := ⟨[o.d, o.a, o.b], [(o.a, false), (o.b, false)], [o.d, pairOf o.d]⟩
/-- SEND. -/
def Snd.use (o : Snd) : Use := ⟨[o.d, o.a, o.b], [(o.a, false), (o.b, false)], [o.d]⟩
/-- X format with rd and ra. -/
def X2.use (o : X2) : Use := ⟨[o.d, o.a], [(o.a, false)], [o.d]⟩
/-- X format with rd a pair and ra. -/
def X2.usePair (o : X2) : Use := ⟨[o.d, o.a], [(o.a, false)], [o.d, pairOf o.d]⟩
/-- F format of a write: g is a source that parks. -/
def Fld.useSrc (o : Fld) : Use := ⟨[o.g], [(o.g, false)], []⟩
/-- F format of a read: g is a destination. -/
def Fld.useDst (o : Fld) : Use := ⟨[o.g], [], [o.g]⟩
/-- F format with one selector, a write. -/
def Fone.useSrc (o : Fone) : Use := ⟨[o.g], [(o.g, false)], []⟩
/-- F format with one selector, a read. -/
def Fone.useDst (o : Fone) : Use := ⟨[o.g], [], [o.g]⟩
/-- STRADV and VSPLAT. -/
def Sg.use (o : Sg) : Use := ⟨[o.g], [(o.g, false)], []⟩
/-- SRR. -/
def Srd.use (o : Srd) : Use := ⟨[o.d], [], [o.d]⟩
/-- SRW, SRS and SRC read rd as data, governed by ta (R25). -/
def Swr.use (o : Swr) : Use := ⟨[o.d], [(o.d, o.x)], []⟩

end Sys2Proof
end

