-- ==== Sys2Proof/Machine/Operands.lean ====
section
/-! DEFINITION. Operand forms and the integer and FP32 functions of the scalar instructions (R23, R64 to R91). -/

namespace Sys2Proof.Machine

/-! ### Immediates (R23) -/

/-- imm13, sign-extended. -/
def immI (i : BitVec 13) : Word := i.signExtend 64
/-- imm20 of U: sext(cat(imm20, 0x000)[31:0]). -/
def immU (i : BitVec 20) : Word := ((i.zeroExtend 32) <<< 12).signExtend 64
/-- disp20 of J, in bytes. -/
def dispJ (i : BitVec 20) : Word := i.signExtend 64 <<< 2
/-- disp12 of B, in bytes. -/
def dispB (i : BitVec 12) : Word := i.signExtend 64 <<< 2
/-- The address of an M-format access: G[ra] + sext(imm8) × size (R147). -/
def addrM (base : Word) (i : BitVec 8) (size : Nat) : Word := base + i.signExtend 64 * BitVec.ofNat 64 size
/-- The address is a multiple of 4. -/
def aligned4 (a : Word) : Bool := decide (a.toNat % 4 = 0)

/-! ### Integers (R67 to R73) -/

/-- 1 or 0. -/
def boolWord (b : Bool) : Word := if b then 1 else 0
/-- A shift amount b[5:0] (R68). -/
def sh6 (b : Word) : Nat := b.toNat % 64
/-- A shift amount b[4:0] (R72). -/
def sh5 (b : Word) : Nat := b.toNat % 32
/-- Sign-extension of the low 32 bits (R72). -/
def sextW (a : Word) : Word := (a.setWidth 32).signExtend 64
/-- ROL by n (R68). -/
def rolW (a : Word) (n : Nat) : Word := a.rotateLeft n
/-- ROR by n (R68). -/
def rorW (a : Word) (n : Nat) : Word := a.rotateRight n
/-- The signed minimum: a if s(a) ≤ s(b) (R69). -/
def minS (a b : Word) : Word := if a.toInt ≤ b.toInt then a else b
/-- The signed maximum. -/
def maxS (a b : Word) : Word := if b.toInt ≤ a.toInt then a else b
/-- The unsigned minimum. -/
def minU (a b : Word) : Word := if a.toNat ≤ b.toNat then a else b
/-- The unsigned maximum. -/
def maxU (a b : Word) : Word := if b.toNat ≤ a.toNat then a else b
/-- Bits [127:64] of an exact product (R70). -/
def highOf (p : Int) : Word := BitVec.ofInt 64 (p / 2 ^ 64)

/-- The quotient of R71 for exact operands: truncated, all ones for a zero divisor, wrapping for the one overflow. -/
def quotOf (x y : Int) : Int := if y = 0 then -1 else Int.tdiv x y
/-- The remainder of R71. -/
def remOf (x y : Int) : Int := if y = 0 then x else Int.tmod x y

/-- DIV (R71). -/
def divS (a b : Word) : Word := BitVec.ofInt 64 (quotOf a.toInt b.toInt)
/-- DIVU. -/
def divU (a b : Word) : Word := BitVec.ofInt 64 (quotOf a.toNat b.toNat)
/-- REM. -/
def remS (a b : Word) : Word := BitVec.ofInt 64 (remOf a.toInt b.toInt)
/-- REMU. -/
def remU (a b : Word) : Word := BitVec.ofInt 64 (remOf a.toNat b.toNat)

/-- ADDW (R72). -/
def addW (a b : Word) : Word := sextW (a + b)
/-- SUBW. -/
def subW (a b : Word) : Word := sextW (a - b)
/-- MULW. -/
def mulW (a b : Word) : Word := sextW (a * b)
/-- SLLW. -/
def sllW (a b : Word) : Word := sextW (a <<< sh5 b)
/-- SRLW. -/
def srlW (a b : Word) : Word := ((a.setWidth 32) >>> sh5 b).signExtend 64
/-- SRAW. -/
def sraW (a b : Word) : Word := ((a.setWidth 32).sshiftRight (sh5 b)).signExtend 64

/-- CLZ: 64 for 0 (R73). -/
def clzW (a : Word) : Word := BitVec.ofNat 64 (64 - bitLen a.toNat)
/-- The number of trailing zero bits among the lowest n; n when all are zero. -/
def ctzN (a : Nat) : Nat → Nat
  | 0 => 0
  | n + 1 => if a % 2 = 1 then 0 else 1 + ctzN (a / 2) n
/-- CTZ: 64 for 0. -/
def ctzW (a : Word) : Word := BitVec.ofNat 64 (ctzN a.toNat 64)
/-- The number of one bits among the lowest n. -/
def popN (a : Nat) : Nat → Nat
  | 0 => 0
  | n + 1 => a % 2 + popN (a / 2) n
/-- POPC. -/
def popW (a : Word) : Word := BitVec.ofNat 64 (popN a.toNat 64)
/-- The lowest n bits in reverse order. -/
def revN (a : Nat) : Nat → Nat
  | 0 => 0
  | n + 1 => a % 2 * 2 ^ n + revN (a / 2) n
/-- BREV: bit i moves to bit 63 − i. -/
def brevW (a : Word) : Word := BitVec.ofNat 64 (revN a.toNat 64)
/-- BSWAP: byte i moves to byte 7 − i. -/
def bswapW (a : Word) : Word := leWord (leBytes 8 a.toNat).reverse

/-! ### FP32 (R66, R83 to R91) -/

/-- The FP32 input of a register: [31:0] (R66). -/
def f32 (a : Word) : FVal := decodeF fp32 (a.toNat % 2 ^ 32)
/-- A result with flags as a zero-extended word. -/
def fpRes (p : Nat × FFlags) : Word × FFlags := (BitVec.ofNat 64 p.1, p.2)
/-- FADD. -/
def faddW (rm : RMode) (a b : Word) : Word × FFlags := fpRes (addV fp32 rm (f32 a) (f32 b))
/-- FSUB. -/
def fsubW (rm : RMode) (a b : Word) : Word × FFlags := fpRes (subV fp32 rm (f32 a) (f32 b))
/-- FMUL. -/
def fmulW (rm : RMode) (a b : Word) : Word × FFlags := fpRes (mulV fp32 rm (f32 a) (f32 b))
/-- FDIV. -/
def fdivW (rm : RMode) (a b : Word) : Word × FFlags := fpRes (divV fp32 rm (f32 a) (f32 b))
/-- FSQRT. -/
def fsqrtW (rm : RMode) (a : Word) : Word × FFlags := fpRes (sqrtV fp32 rm (f32 a))
/-- FMA, with c the old rd (R84). -/
def fmaW (rm : RMode) (a b c : Word) : Word × FFlags := fpRes (fmaV fp32 rm (f32 a) (f32 b) (f32 c))
/-- FMIN and FMAX. -/
def fminmaxW (mx : Bool) (a b : Word) : Word × FFlags :=
  fpRes (minMaxF fp32 mx (a.toNat % 2 ^ 32) (b.toNat % 2 ^ 32))
/-- FEQ, FLT, FLE (relations 0, 1, 2). -/
def fcmpW (rel : Nat) (a b : Word) : Word × FFlags :=
  let r := cmpF fp32 rel (a.toNat % 2 ^ 32) (b.toNat % 2 ^ 32)
  (boolWord r.1, r.2)
/-- FCLASS. -/
def fclassW (a : Word) : Word := BitVec.ofNat 64 (classF fp32 (a.toNat % 2 ^ 32))
/-- FTOI: truncates towards zero (R88). -/
def ftoiW (a : Word) : Word × FFlags :=
  let r := floatToInt .rtz (-(2 ^ 63)) (2 ^ 63 - 1) (f32 a)
  (BitVec.ofInt 64 r.1, r.2)
/-- FTOIU. -/
def ftoiuW (a : Word) : Word × FFlags :=
  let r := floatToInt .rtz 0 (2 ^ 64 - 1) (f32 a)
  (BitVec.ofInt 64 r.1, r.2)
/-- ITOF (R89). -/
def itofW (rm : RMode) (a : Word) : Word × FFlags := fpRes (intToFloat fp32 rm a.toInt)
/-- ITOFU. -/
def itofuW (rm : RMode) (a : Word) : Word × FFlags := fpRes (intToFloat fp32 rm a.toNat)
/-- FTOBF (R90). -/
def ftobfW (rm : RMode) (a : Word) : Word × FFlags := fpRes (convF bf16 rm (f32 a))
/-- BFTOF: exact. -/
def bftofW (a : Word) : Word × FFlags := fpRes (convF fp32 .rne (decodeF bf16 (a.toNat % 2 ^ 16)))
/-- FTOH. -/
def ftohW (rm : RMode) (a : Word) : Word × FFlags := fpRes (convF fp16 rm (f32 a))
/-- HTOF: exact. -/
def htofW (a : Word) : Word × FFlags := fpRes (convF fp32 .rne (decodeF fp16 (a.toNat % 2 ^ 16)))
/-- FNEG (R91). -/
def fnegW (a : Word) : Word := BitVec.ofNat 64 (negAbsF fp32 false (a.toNat % 2 ^ 32))
/-- FABS. -/
def fabsW (a : Word) : Word := BitVec.ofNat 64 (negAbsF fp32 true (a.toNat % 2 ^ 32))

end Sys2Proof.Machine
end

