-- ==== Sys2Proof/Machine/Access.lean ====
section
/-! DEFINITION. How an access reaches memory: virtual numbering (R385), address spaces and reserved regions (R127,
R139, R140), page tables and translation (R141 to R145), write buffers, L1 and slices (R133 to R135, R158, R159). -/

namespace Sys2Proof.Machine

/-! ### Virtual numbers (R385) -/

/-- The physical tower of a virtual tower, if it names one (R385, R393 VTMAP). -/
def physTower (s : State) (b v : Nat) : Option Nat :=
  let p := (s.basin b).vtmap.toNat / 16 ^ v % 16
  if v < 8 ∧ p < 8 then some p else none

/-- The virtual tower of a physical tower. -/
def virtTower (s : State) (b p : Nat) : Option Nat := (List.range 8).find? fun v => decide (physTower s b v = some p)

/-- The basin's beds on a physical tower, in the order of their assignment. -/
def Basin.bedsOn (x : Basin) (t : Nat) : List Nat := (x.beds.filter fun p => decide (p.1 = t)).map Prod.snd

/-- The physical core of a virtual core, if it names one (R385). -/
def physCore (s : State) (b v : Nat) : Option Nat :=
  match physTower s b (v / 256) with
  | none => none
  | some t =>
    match ((s.basin b).bedsOn t)[v % 256 / 16]? with
    | none => none
    | some bed => some (t * 256 + bed * 16 + v % 16)

/-- The virtual core of a physical core of the basin (R385). -/
def virtCore (s : State) (b g : Nat) : Option Nat :=
  match virtTower s b (towerOf g) with
  | none => none
  | some v =>
    match ((s.basin b).bedsOn (towerOf g)).findIdx? fun bed => decide (bed = g % 256 / 16) with
    | none => none
    | some k => some (v * 256 + k * 16 + g % 16)

/-- The basin of a core's bed, or none for an unassigned bed and an atelier core (R303 TENANT, R97). -/
def coreBasin (s : State) (g : Nat) : Option Nat :=
  if (s.core g).tenant.getLsbD 6 then none else some ((s.core g).tenant.toNat % 64)

/-! ### Translation -/

/-- Where an access goes: the physical address, the placement bit of its page, and whether it is the core's own
scratchpad through the local alias or its own physical window, which carries tags (R132). -/
structure Where where
  pa : Nat
  vault : Bool
  own : Bool
  deriving DecidableEq, Repr

/-- The outcome of a translation: a place, a page fault of R145, any other fault, or a walk that must be made. -/
inductive Tr where
  | ok (w : Where)
  | page
  | bad
  | miss
  deriving DecidableEq, Repr

/-- The mode and basin an access is made with (R140, R287). -/
structure Who where
  core : Nat
  mode : Mode
  basin : Nat
  deriving DecidableEq, Repr

/-- An offset of a core's scratchpad is refused to a mode as reserved (R127): the channel pool to U and S, the save
area to U. -/
def reservedOff (c : Core) (md : Mode) (o : Nat) : Bool :=
  match md with
  | .m => false
  | .s => decide (o < 0x10000)
  | .u => decide (o < 0x10000) ||
      (decide (c.savebase.toNat ≤ o) && decide (o < c.savebase.toNat + c.savesize.toNat))

/-- The permissions of R145 for a translation. -/
def Xlat.permits (x : Xlat) (md : Mode) (a : Access) : Bool :=
  (match md with
   | .u => x.user
   | _ => true) &&
  (match a with
   | .fetch => x.exec
   | .load => x.read
   | .store => x.write
   | .atomic => x.read && x.write)

/-- The translation's page holds the address. -/
def Xlat.covers (x : Xlat) (b va : Nat) : Bool := decide (x.basin = b) && decide (va / 2 ^ x.bits = x.vbase / 2 ^ x.bits)

/-- The place a translation gives an address. -/
def Xlat.place (x : Xlat) (va : Nat) : Where := ⟨x.pbase + va % 2 ^ x.bits, x.vault, false⟩

/-- A scratchpad place reached by core g. -/
def spadPlace (s : State) (who : Who) (owner off : Nat) (own : Bool) (a : Access) : Tr :=
  if a = .fetch then .bad
  else if (s.core owner).units * 65536 ≤ off then .bad
  else if reservedOff (s.core owner) who.mode off then .bad
  else .ok ⟨windowOf owner + off, false, own⟩

/-- The physical addresses of M mode (R139, R140): device registers admit 4 and 8 bytes only, and no atomic (R172). DRAM is taken
as interleaved (R137, log entry 77). -/
def translatePhys (s : State) (who : Who) (pa : Nat) (a : Access) (size : Nat) : Tr :=
  match placeOf s pa with
  | .dram => .ok ⟨pa, false, false⟩
  | .spad g _ => if a = .fetch then .bad else .ok ⟨pa, false, decide (g = who.core)⟩
  | .device => if (a = .load ∨ a = .store) ∧ (size = 4 ∨ size = 8) then .ok ⟨pa, false, false⟩ else .bad
  | .none => .bad

/-- The unpaged ranges of a basin's virtual addresses (R140); none for an address the page table translates. -/
def translateFixed (s : State) (who : Who) (va : Nat) (a : Access) : Option Tr :=
  if 2 ^ 56 ≤ va then some .bad
  else if va < 0x00F0000000000000 then none
  else if va < 0x00F0000000400000 then some (spadPlace s who who.core (va - 0x00F0000000000000) true a)
  else if va < 0x00F8000000000000 then some .bad
  else
    match physCore s who.basin ((va - 0x00F8000000000000) / 0x400000) with
    | none => some .bad
    | some g => some (spadPlace s who g ((va - 0x00F8000000000000) % 0x400000) false a)

/-- A translation with its permissions checked (R145). -/
def Xlat.answer (x : Xlat) (md : Mode) (a : Access) (va : Nat) : Tr :=
  if x.permits md a then .ok (x.place va) else .page

/-- Translation by a thread: through the core's TLB, a miss asking for a walk (R140, R144). -/
def translate (s : State) (who : Who) (va : Word) (a : Access) (size : Nat) : Tr :=
  if who.mode = .m then translatePhys s who va.toNat a size
  else
    match translateFixed s who va.toNat a with
    | some r => r
    | none =>
      match (s.core who.core).tlb.find? fun x => x.covers who.basin va.toNat with
      | some x => x.answer who.mode a va.toNat
      | none => .miss

/-- A page-table entry's fields (R142). -/
def pteBasin (e : Nat) : Nat := e / 2 ^ 50 % 64
/-- ADDR as a physical address. -/
def pteAddr (e : Nat) : Nat := e / 2 ^ 13 % 2 ^ 35 * 2 ^ 13
/-- Bit i of an entry. -/
def pteBit (e i : Nat) : Bool := decide (e / 2 ^ i % 2 = 1)
/-- A reserved field of the entry is non-zero (R142). -/
def pteReserved (e : Nat) : Bool :=
  decide (e / 2 ^ 56 ≠ 0) || decide (e / 2 ^ 48 % 4 ≠ 0) || decide (e / 2 ^ 9 % 16 ≠ 0)

/-- What a walk finds: a leaf with the address of its entry, or a translation fault (R142). -/
inductive Walk where
  | leaf (x : Xlat) (entry : Nat) (zt mk : Bool)
  | fault
  deriving DecidableEq, Repr

/-- The page size of a leaf at a level, as a power of two (R141). -/
def levelBits (level : Nat) : Nat := 16 + 10 * level

/-- Walk a basin's table from a level down (R141, R142). An entry of another basin, with V = 0, with a reserved field
or of the wrong kind for its level is a translation fault; so is a leaf that is misaligned or not in DRAM. -/
def walkFrom (s : State) (b va : Nat) : Nat → Nat → Walk
  | level, table =>
    let ea := table + (va / 2 ^ levelBits level % 1024) * 8
    let e := (read64 s.mem ea).toNat
    if pteBit e 0 = false ∨ pteReserved e = true ∨ pteBasin e ≠ b then .fault
    else if pteBit e 1 then
      if level = 3 ∨ pteAddr e % 2 ^ levelBits level ≠ 0 ∨ placeOf s (pteAddr e) ≠ .dram then .fault
      else .leaf ⟨b, va / 2 ^ levelBits level * 2 ^ levelBits level, levelBits level, pteAddr e, pteBit e 5,
        pteBit e 4, pteBit e 3, pteBit e 2, pteBit e 6⟩ ea (pteBit e 7) (pteBit e 8)
    else
      match level with
      | 0 => .fault
      | l + 1 => walkFrom s b va l (pteAddr e)

/-- The walk of a virtual address of a basin from the root the core holds (R141); on an unassigned bed it always
faults. -/
def walk (s : State) (g b va : Nat) : Walk :=
  if coreBasin s g = some b then walkFrom s b va 3 (s.core g).ptbase.toNat else .fault

/-- The entries that a walk for a basin reads come through the slices of tower t, which hold a token and the data of each (R346,
R353; log entry 13). -/
def walkReads (s : State) (t b va : Nat) : Nat → Nat → State
  | level, table =>
    let ea := table + (va / 2 ^ levelBits level % 1024) * 8
    let e := (read64 s.mem ea).toNat
    let s1 := if placeOf s ea = .dram then readThrough s t (lineOf ea) (homeOf s (lineOf ea)) (basinMask s b) else s
    if pteBit e 0 = false ∨ pteReserved e = true ∨ pteBasin e ≠ b ∨ pteBit e 1 = true then s1
    else
      match level with
      | 0 => s1
      | l + 1 => walkReads s1 t b va l (pteAddr e)

/-- The state after the reads of core g's walk of a virtual address of a basin. -/
def walked (s : State) (g b va : Nat) : State :=
  if coreBasin s g = some b then walkReads s (sliceTower s g) b va 3 (s.core g).ptbase.toNat else s

/-- A line that L2 holds, or whose tokens are on their way, becomes a zero line at its home, as by L2ZERO (R143, R152); its DRAM
zero mark is set, so that no data is only L2's. -/
def zeroHeld (s : State) (l home mask : Nat) : State :=
  let x := s.line l
  let s1 := if x.slices = [] ∧ x.ctl.tok = 8 then s else gatherHome s l home mask true
  let x1 := s1.line l
  { s1.setLine l { x1 with
      ctl := { x1.ctl with zero := true, hd := false }
      slices := x1.slices.map fun p => (p.1, { p.2 with form := .zero }) } with
    msgs := s1.msgs.filter fun m => !(decide (m.line = l) && decide (m.body = .dmark)), stale := fdel s1.stale l }

/-- Zero-on-touch (R143): the entry's ZT and MK end at 0, the zero mark of every line of the page is set, and lines that L2
holds become zero lines. -/
def touchZero (s : State) (x : Xlat) (entry : Nat) : State :=
  let e := (read64 s.mem entry) &&& ~~~(0x180#64)
  let lo := x.pbase / 128
  let n := 2 ^ x.bits / 128
  let inPage (l : Nat) : Bool := decide (lo ≤ l) && decide (l < lo + n)
  let s1 := perform64Via (takeImages s (lo / 512) (n / 512)) ⟨x.basin, none⟩ entry e
  let s2 := ((s1.lines.map Prod.fst).filter inPage).foldl
    (fun s l => zeroHeld s l (homeSlice s x.vault (128 * l)) (basinMask s x.basin)) s1
  { s2 with
    mem := clearRange s2.mem x.pbase (2 ^ x.bits)
    zeroed := if s2.zeroed.contains (lo, n) then s2.zeroed else s2.zeroed ++ [(lo, n)] }

/-- Translation by an agent without a TLB of its own (an engine's piece, a take's increment, an easel): the walk is
made at once, and zero-on-touch with it; one that finds MK = 1 has to wait (R143). -/
def translateNow (s : State) (who : Who) (va : Word) (a : Access) (size : Nat) : Tr × State :=
  if who.mode = .m then (translatePhys s who va.toNat a size, s)
  else
    match translateFixed s who va.toNat a with
    | some r => (r, s)
    | none =>
      let s1 := walked s who.core who.basin va.toNat
      match walk s who.core who.basin va.toNat with
      | .fault => (.page, s1)
      | .leaf x entry zt mk =>
        if mk then (.miss, s1) else (x.answer who.mode a va.toNat, if zt then touchZero s1 x entry else s1)

/-- The mode and basin of the executing thread (R140). -/
def State.who (s : State) : Who := ⟨s.cur.1, s.me.mode, ((coreBasin s s.cur.1).getD 64)⟩

/-! ### Write buffers, L1 and what a load sees -/

/-- The line entry's bytes that cover an address, newest last. -/
def WEntry.at (e : WEntry) (pa : Nat) : List WByte :=
  if e.line = lineOf pa then e.bytes.filter fun b => decide (b.off = pa % 128) else []

/-- The newest byte of a list of entries that covers an address and that p admits. -/
def newest (l : List WEntry) (pa : Nat) (p : WByte → Bool) : Option WByte :=
  ((l.flatMap fun e => e.at pa).filter p).getLast?

/-- A byte of core g's write buffer is forwarded to a context: its own bytes, and any plain or core-scope byte
(R158). -/
def forwards (me : Nat) (b : WByte) : Bool := decide (b.gctx = me) || decide (b.scope ≤ 1)

/-- A byte of the outbound buffer is forwarded to a context of its tower: its own bytes, and any plain, core or die
byte (R158). -/
def outForwards (me : Nat) (b : WByte) : Bool := decide (b.gctx = me) || decide (b.scope ≤ 2)

/-- The core that a buffered byte came from; a copy engine's bytes bear a context number of its own (R164). -/
def WByte.core (b : WByte) : Nat := b.gctx / 16 % 2 ^ 16

/-- A byte of the outbound buffer is forwarded to context me of core g (R158): the buffer serves the cores of its tower, and
an atelier core that is attached to it finds the bytes of its own contexts. -/
def outServes (g me : Nat) (b : WByte) : Bool := outForwards me b && (!isAtelier g || decide (b.core = g))

/-- A load by context me of core g sees this byte below L1: outbound bytes of the tower, then memory (R134, R135). -/
def belowByte (s : State) (g me : Nat) (pa : Nat) : Byte :=
  match newest (s.tower (sliceTower s g)).outbound pa (outServes g me) with
  | some b => b.val
  | none => readByte s.mem pa

/-- The core's own bytes that its tower's outbound buffer still holds and that are visible to the context: L1 takes them when
they are performed, and until then they are found before it (R159). -/
def ownBelow (s : State) (g me pa : Nat) : Option WByte :=
  newest (s.tower (sliceTower s g)).outbound pa fun b => outForwards me b && decide (b.core = g)

/-- A byte as a load sees it (R134, R158, R159): the write buffer newest first, then, when useL1 says so and L1 holds the
line, the core's own stores on their way and L1, else the slices. -/
def seenByte (s : State) (g me : Nat) (useL1 : Bool) (pa : Nat) : Byte :=
  match newest (s.core g).wbuf pa (forwards me) with
  | some b => b.val
  | none =>
    match (if useL1 then flook (s.core g).l1 (lineOf pa) else none) with
    | some l =>
      (match ownBelow s g me pa with
       | some b => b.val
       | none => l.getD (pa % 128) 0)
    | none => belowByte s g me pa

/-- n bytes as a load sees them. -/
def seenBytes (s : State) (g me : Nat) (useL1 : Bool) (pa : Nat) : Nat → List Byte
  | 0 => []
  | n + 1 => seenByte s g me useL1 pa :: seenBytes s g me useL1 (pa + 1) n

/-- A load overlaps a byte that another context has buffered with die, dev or sys scope (R158). -/
def overlaps (s : State) (g me pa n : Nat) : Bool :=
  (s.core g).wbuf.any fun e => decide (e.line = lineOf pa) && e.bytes.any fun b =>
    decide (pa % 128 ≤ b.off) && decide (b.off < pa % 128 + n) && decide (b.gctx ≠ me) && decide (2 ≤ b.scope)

/-- The lines that fit L1: 64 KiB in each of its units (R9, R126). -/
def l1Lines (c : Core) : Nat := 512 * (16 - c.units)

/-- L1 drops a line. -/
def dropLine (s : State) (g l : Nat) : State := s.setCore g { s.core g with l1 := fdel (s.core g).l1 l }

/-- The tower's outbound buffer holds stores of a core to a line. -/
def ownQueued (s : State) (g l : Nat) : Bool :=
  (s.tower (sliceTower s g)).outbound.any fun e => decide (e.line = l) && e.bytes.any fun b => decide (b.core = g)

/-- L1 takes the line as the core sees it below L1 (R133: L1 is filled by loads). A full L1 gives up a line of the part's
choice, and a line to which the core has stores in the outbound buffer is not kept (log entry 67). -/
def fillL1 (s : State) (g me pa : Nat) : State :=
  let c := s.core g
  let l := lineOf pa
  if ownQueued s g l then dropLine s g l
  else if l1Lines c = 0 then s
  else
    let bytes := (List.range 128).map fun i => belowByte s g me (128 * l + i)
    if (flook c.l1 l).isSome || decide (c.l1.length < l1Lines c) then s.setCore g { c with l1 := fset c.l1 l bytes }
    else
      let (i, s1) := freeBelow s c.l1.length
      s1.setCore g { c with l1 := fset (c.l1.eraseIdx i) l bytes }

/-- The bank of a line in the core's write buffer (R134): its slice number modulo 16. -/
def bankOf (slice : Nat) : Nat := slice % 16

/-- The entries of a bank, oldest first. -/
def bankEntries (c : Core) (bank : Nat) : List WEntry := c.wbuf.filter fun e => decide (bankOf e.slice = bank)

/-- Add bytes to the youngest entry of the bank when it holds the line (R134), in a list in which entries stand
oldest first. -/
def mergeLast (l : List WEntry) (bank line : Nat) (bs : List WByte) : Option (List WEntry) :=
  let rec go : List WEntry → Option (List WEntry)
    | [] => none
    | e :: r =>
      if decide (bankOf e.slice = bank) then
        if decide (e.line = line) then some ({ e with bytes := e.bytes ++ bs } :: r) else none
      else (go r).map (e :: ·)
  (go l.reverse).map List.reverse

/-- The buffered bytes of a store. -/
def storeBytes (off scope gc stamp basin : Nat) : List Byte → List WByte
  | [] => []
  | b :: r => ⟨off, b, scope, gc, stamp, basin⟩ :: storeBytes (off + 1) scope gc stamp basin r

/-- L1's copy of a line is updated by the core's own store, when it is performed (R133, R159). -/
def updateL1 (s : State) (g pa : Nat) (bs : List Byte) : State :=
  match flook (s.core g).l1 (lineOf pa) with
  | none => s
  | some l =>
    let l' := (List.range 128).map fun i =>
      if pa % 128 ≤ i then bs.getD (i - pa % 128) (l.getD i 0) else l.getD i 0
    s.setCore g { s.core g with l1 := fset (s.core g).l1 (lineOf pa) l' }

/-- A store enters the write buffer of core g (R134), with the next stamp; none when its bank is full. -/
def buffer (s : State) (g k : Nat) (w : Where) (scope : Nat) (bs : List Byte) : Option State :=
  let c := s.core g
  let home := homeSlice s w.vault w.pa
  let slice := home % 256
  let bank := bankOf slice
  let line := lineOf w.pa
  let new := storeBytes (w.pa % 128) scope (gctx g k) s.serial ((coreBasin s g).getD 64) bs
  let s1 := s.bump
  match mergeLast c.wbuf bank line new with
  | some l => some (s1.setCore g { s1.core g with wbuf := l })
  | none =>
    if (bankEntries c bank).length < 4 then
      some (s1.setCore g { s1.core g with wbuf := c.wbuf ++ [⟨line, home, slice, new, 0⟩] })
    else none

/-- Perform an entry's bytes at the home, whose tokens have been settled, oldest first (R158); the issuing core's copy of the
line takes them (R159). -/
def performEntry (s : State) (line : Nat) : List WByte → State
  | [] => s
  | b :: r => performEntry (updateL1 (writeLine s (128 * line + b.off) [b.val]) b.core (128 * line + b.off) [b.val]) line r

/-- The basin whose ways an entry allocates in: that of its newest byte. -/
def WEntry.basin (e : WEntry) : Nat := (e.bytes.getLast?.map WByte.basin).getD 64

/-! ### Tags and full/empty bits of scratchpad words (R131, R132) -/

/-- A word of a scratchpad is tagged. -/
def tagAt (s : State) (g off : Nat) : Bool := (s.core g).spTag.contains (off / 8 * 8)

/-- Insert into a sorted list without repeats. -/
def insertSorted (x : Nat) : List Nat → List Nat
  | [] => [x]
  | y :: r => if x < y then x :: y :: r else if x = y then y :: r else y :: insertSorted x r

/-- Set or clear a scratchpad word's tag. -/
def setTag (s : State) (g off : Nat) (t : Bool) : State :=
  let w := off / 8 * 8
  let c := s.core g
  s.setCore g { c with spTag := if t then insertSorted w c.spTag else c.spTag.filter fun x => decide (x ≠ w) }

/-- Clear the tags of the words that off … off + n − 1 touches, and what a PUT left there (R132, R174). -/
def clearTags (s : State) (g off n : Nat) : State :=
  let c := s.core g
  s.setCore g { c with
    spTag := c.spTag.filter fun x => decide (x + 8 ≤ off) || decide (off + n ≤ x)
    spRel := c.spRel.filter fun p => decide (p.1 + 8 ≤ off) || decide (off + n ≤ p.1) }

/-- A word of a scratchpad is full (R131). -/
def fullAt (s : State) (g off : Nat) : Bool := !((s.core g).spEmpty.contains off)

/-- Set or clear a word's full/empty bit. -/
def setFull (s : State) (g off : Nat) (full : Bool) : State :=
  let c := s.core g
  s.setCore g { c with spEmpty := if full then c.spEmpty.filter fun x => decide (x ≠ off) else insertSorted off c.spEmpty }

/-- A scope as core g means it (R154): die scope on an atelier core behaves as dev. -/
def scopeOn (g scope : Nat) : Nat := if isAtelier g && decide (scope = 2) then 3 else scope

/-- Bytes written into a scratchpad by an agent that carries no tags (R132): the words' tags become 0. -/
def writeSpad (s : State) (g off : Nat) (bs : List Byte) : State :=
  perform (clearTags s g off bs.length) (windowOf g + off) bs

/-- A store without tags is performed at a place, for an access (R132, R137, R386). -/
def storeVia (s : State) (v : Via) (pa : Nat) (bs : List Byte) : State :=
  match placeOf s pa with
  | .spad g off => writeSpad s g off bs
  | _ => performVia s v pa bs

/-- How a basin's access reaches a place that a translation gives. -/
def Where.via (w : Where) (b : Nat) : Via := ⟨b, some w.vault⟩

/-- n bytes of a scratchpad. -/
def readSpad (s : State) (g off n : Nat) : List Byte := readBytes s.mem (windowOf g + off) n

/-! ### Where a late result goes (R39) -/

/-- A saved thread is named by core number 4096 + n, where n is its frame (log entry 11). -/
def frameKey : Nat := 4096

/-- The live frame with an identity, and its core. -/
def findFrame (s : State) (id : Nat) : Option (Nat × Frame) :=
  s.cores.findSome? fun p => (p.2.frames.find? fun f => decide (f.id = id)).map fun f => (p.1, f)

/-- The index of a register in a frame: g0 up, then the shadow bank (R310). -/
def Frame.regIndex (f : Frame) (sh : Bool) (n : Nat) : Nat := if sh then (if f.wide then 64 else 32) + (n - 24) else n

/-- The offset of the register states in a frame (R310). -/
def Frame.stateOff (f : Frame) : Nat := if f.wide then 192 + 512 + 64 else 192 + 256 + 64

/-- The code of a register state in a frame (R310). -/
def RegSt.code : RegSt → Nat
  | .full => 0
  | .pending => 1
  | .empty => 2

/-- Replace a frame of a core. -/
def setFrame (s : State) (g : Nat) (f : Frame) : State :=
  s.setCore g { s.core g with frames := (s.core g).frames.map fun x => if x.id = f.id then f else x }

/-- Write bytes of a frame, without tags, where it lies. -/
def frameWrite (s : State) (g : Nat) (f : Frame) (off : Nat) (bs : List Byte) : State :=
  if f.spilled then performVia s ⟨f.basin, none⟩ (f.base + off) bs else writeSpad s g (f.off + off) bs

/-- Bytes of a frame. -/
def frameRead (s : State) (f : Frame) (off n : Nat) : List Byte := readBytes s.mem (f.base + off) n

/-- A word of a frame. -/
def frameWord (s : State) (f : Frame) (off : Nat) : Word := read64 s.mem (f.base + off)

/-- The tag of a word of a frame (R310). -/
def frameTag (s : State) (g : Nat) (f : Frame) (off : Nat) : Bool :=
  if f.spilled then f.tags.contains off else tagAt s g (f.off + off)

/-- Set or clear the tag of a word of a frame. -/
def setFrameTag (s : State) (g : Nat) (f : Frame) (off : Nat) (t : Bool) : State :=
  if f.spilled then
    setFrame s g { f with tags := if t then insertSorted off f.tags else f.tags.filter fun x => decide (x ≠ off) }
  else setTag s g (f.off + off) t

/-- Write a register state into the states of a frame at an address: 2 bits per register, register i at bits 2i. -/
def setFrameState (s : State) (addr i : Nat) (st : RegSt) : State :=
  let a := addr + i / 4
  let sh := 2 * (i % 4)
  let b := (readByte s.mem a).toNat
  let b' := b - b / 2 ^ sh % 4 * 2 ^ sh + st.code * 2 ^ sh
  { s with mem := writeByte s.mem a (BitVec.ofNat 8 b') }

/-- A register of a frame takes a value, full (R39). -/
def fillFrame (s : State) (id : Nat) (sh : Bool) (n : Nat) (v : GReg) : State :=
  match findFrame s id with
  | none => s
  | some (g, f) =>
    let i := f.regIndex sh n
    let o := 192 + 8 * i
    let f1 := match v.acq with
      | some a => { f with owed := f.owed ++ [(sh, n, a)] }
      | none => f
    let s1 := frameWrite (setFrame s g f1) g f1 o (leBytes 8 v.val.toNat)
    setFrameState (setFrameTag s1 g f1 o v.tag) (f.base + f.stateOff) i .full

/-- A late result fills a register of a context, or of a saved context's image (R39). A fill of g0 is discarded. -/
def deliver (s : State) (g k : Nat) (sh : Bool) (n : RegNo) (v : GReg) : State :=
  if n = 0 then s
  else if frameKey ≤ g then fillFrame s (g - frameKey) sh n.toNat v
  else s.setCtx g k ((s.ctx g k).fillReg sh n v)

end Sys2Proof.Machine
end

