-- ==== Sys2Proof/Machine/Tokens.lean ====
section
/-! DEFINITION. Line tokens: requests, answers and the weir (R345 to R359 of spec/27_tokens_and_dies.md). A message
lies in `msgs` from its injection until its receive step; a receiver applies the messages of an ordered class in the
order of their logical link (R350). -/

namespace Sys2Proof.Machine

/-- The class of a coherence message is ordered (R350): all but REQ. -/
def TokBody.ordered : TokBody → Bool
  | .treq _ _ => false
  | _ => true

/-- Class numbers: REQ 0, RSP 1, PER 2, CTL 5 (R350). -/
def TokBody.cls : TokBody → Nat
  | .treq _ _ => 0
  | .tok _ _ _ _ _ => 1
  | .dmark => 1
  | .reply _ => 1
  | .data _ => 1
  | .census _ => 5
  | _ => 2

/-- Send to the same-index slice of every listed tower and to the line's controller (R351). -/
def sendAll (s : State) (src line home : Nat) (b : TokBody) : List Nat → State
  | [] => sendTok s src (ctlTower line) true line home b
  | t :: r => sendAll (sendTok s src t false line home b) src line home b r

/-- The body changes a controller's state of the line, so that it waits for the page's before-image (R361). -/
def TokBody.alters : TokBody → Bool
  | .treq _ _ => true
  | .tok _ _ _ _ _ => true
  | .dmark => true
  | .pact _ _ => true
  | .reply _ => true
  | .census _ => true
  | _ => false

/-- Message n is the next its receiver applies: no earlier message of the same class and link, when the class is
ordered (R350); it has left a guarded tower's hold queue (R362), and a page it changes has its before-image (R361). Census
control is not held. -/
def tokReady (s : State) (n : Nat) : Option TokMsg :=
  match s.msgs[n]? with
  | none => none
  | some m =>
    if m.body.ordered && (s.msgs.take n).any (fun o =>
        decide (o.src = m.src) && decide (o.dst = m.dst) && decide (o.body.cls = m.body.cls)) ||
        (decide (m.body.cls ≠ 5) && heldBack s m.src m.dst m.stamp) ||
        (m.toCtl && m.body.alters && !pageSaved s (m.line / 512))
    then none else some m

/-- Take message n out of flight; a guarded receiver's peer keeps it (R362). -/
def dropMsg (s : State) (n : Nat) : State :=
  let s1 := { s with msgs := s.msgs.eraseIdx n }
  match s.msgs[n]? with
  | some m => if m.src = m.dst then s1 else keepReplay s1 m.dst (.tok m)
  | none => s1

/-- Ask for tokens (R353, R354): the first TREQ, to every other tower's slice and the controller. A slice has at most
one request outstanding for a line; an access that needs another waits behind it. -/
def askTokens (s : State) (t l home : Nat) (write : Bool) (basin : Nat) : State :=
  let x := s.line l
  if (flook x.reqs t).isSome then s
  else
    sendAll (s.setLine l { x with reqs := fset x.reqs t ⟨write, 1, basin, home, none⟩ }) t l home (.treq write t)
      ((presentTowers s).filter fun d => decide (d ≠ t))

/-- The tokens a slice's tag holds once a TOK has arrived; the eighth clears its RSET (R348). -/
def addTok (g : SliceTag) (count : Nat) (owner zero data : Bool) (rset used : Nat) : SliceTag :=
  { g with
    tok := g.tok + count, owner := g.owner || owner, rset := if g.tok + count = 8 then 0 else g.rset ||| rset, used := used
    form := if data then .data else if zero then .zero else g.form }

/-- A request is satisfied by a tag (R353): a read by a token with valid data, a write by all eight. -/
def TokReq.met (r : TokReq) (g : SliceTag) : Bool :=
  decide (g.form ≠ .tokenOnly) && (if r.write then decide (g.tok = 8) else decide (1 ≤ g.tok))

/-- A persistent requester is done (R356 step 3): PDONE goes to the weir, and a read requester keeps one token and
sends the rest to the controller first. -/
def persistDone (s : State) (t l home : Nat) (write : Bool) : State :=
  let x := s.line l
  let s1 := match flook x.slices t with
    | some g =>
      if !write && decide (1 < g.tok) && !g.owner then
        sendTok (s.setLine l { x with slices := fset x.slices t { g with tok := 1 } }) t (ctlTower l) true l home
          (.tok (g.tok - 1) false false false 0)
      else s
    | none => s
  sendTok s1 t (home / 256) false l home .pdone

/-- A thread of the tower, a queued store or an atomic waits for the tokens of a line there. -/
def lineWanted (s : State) (t l : Nat) : Bool :=
  (s.cores.any fun p => decide (sliceTower s p.1 = t) && p.2.ctxs.any fun q =>
    match q.2.park with
    | some (.load op) => decide (lineOf op.addr = l)
    | some (.lineTokens m _) => decide (m = l)
    | some .fetch =>
      (match translate s ⟨p.1, q.2.mode, (coreBasin s p.1).getD 64⟩ q.2.pc .fetch 4 with
       | .ok w => decide (lineOf w.pa = l)
       | _ => false)
    | _ => false) ||
  (s.towers.any fun p => p.2.outbound.any fun e => decide (e.line = l) && decide (e.home / 256 = t)) ||
  (s.atoms.any fun a => a.reply.isNone && decide (lineOf a.addr = l) && decide (homeSlice s a.vault a.addr / 256 = t))

/-- The tag after tokens have come: a request that is met ends, but one that is active in the weir, whose access is still to
complete (R356 step 3). -/
def settleReq (s : State) (t l : Nat) : State :=
  let x := s.line l
  match flook x.reqs t, flook x.slices t with
  | some r, some g =>
    if r.met g then
      let s1 := s.setLine l { x with reqs := fdel x.reqs t }
      match x.activeAt t with
      | some (q, w) =>
        if q = t then (if lineWanted s t l then s else persistDone s1 t l r.home w) else s1
      | none => s1
    else s
  | _, _ => s

/-- An access to a line has been completed at the slice of tower t: an active persistent request that it waited for is done
(R356 step 3). -/
def accessDone (s : State) (t l : Nat) (write : Bool) : State :=
  let x := s.line l
  match flook x.reqs t, flook x.slices t, x.activeAt t with
  | some r, some g, some (q, w) =>
    if q = t ∧ r.met g = true ∧ (r.write = true → write = true) then
      persistDone (s.setLine l { x with reqs := fdel x.reqs t }) t l r.home w
    else s
  | _, _, _ => s

/-- Tokens reach the controller (R348, R355): the owner token with data writes the line to DRAM; with a zero flag it
sets the zero mark; a gathered line clears RSET. Data that comes without the owner token is no newer than DRAM's. -/
def ctlReceive (s : State) (l count : Nat) (owner zero data : Bool) (rset : Nat) : State :=
  let x := s.line l
  let c := x.ctl
  let tok := c.tok + count
  let c' : CtlTok := { c with
    tok := tok, own := c.own || owner
    zero := if owner && zero then true else if owner && data then false else c.zero
    hd := if owner && (data || zero) then false else c.hd
    rset := if tok = 8 then 0 else c.rset ||| rset }
  let s1 := s.setLine l { x with ctl := c' }
  if owner && (data || zero) then { s1 with stale := fdel s1.stale l } else s1

/-- Data comes to the slice of tower t without a token (R356): its tag takes it, or the request keeps it until a token comes. -/
def sliceData (s : State) (t l home : Nat) (zero : Bool) : State :=
  let x := s.line l
  match flook x.slices t, flook x.reqs t with
  | some g, r =>
    if g.form = .tokenOnly then
      let mask := basinMask s ((r.map TokReq.basin).getD 64)
      let s1 := if zero then s else takeFrame s t l home mask
      settleReq (s1.setLine l { s1.line l with slices := fset (s1.line l).slices t { g with form := if zero then .zero else .data } }) t l
    else s
  | none, some r => s.setLine l { x with reqs := fset x.reqs t { r with ahead := some zero } }
  | none, none => s

/-- Tokens reach the slice of tower t (R354, R356): forwarded to an active persistent requester, kept with a tag, or
sent on to the controller when the slice has no tag and can allocate none. A tag that no request has asked for may take any way
(DESIGN CHOICE, log entry 82), and the first token of a request takes the data that came ahead of it (log entry 66). -/
def sliceReceive (s : State) (t l home count : Nat) (owner zero data : Bool) (rset : Nat) : State :=
  let x := s.line l
  match x.activeAt t with
  | some (q, _) =>
    if q = t then keep s x
    else if owner then passActive (keep s x) t l home
    else sendTok s t q false l home (.tok count owner zero data rset)
  | none => keep s x
where
  /-- Keep the tokens with the tag, allocating one when there is none; data takes a frame. -/
  keep (s : State) (x : LineTok) : State :=
    let req := flook x.reqs t
    let mask := basinMask s ((req.map TokReq.basin).getD 64)
    let ahead := if data || zero then none else req.bind TokReq.ahead
    let data := data || ahead == some false
    let zero := zero || ahead == some true
    let tag : Option (SliceTag × State) := match flook x.slices t with
      | some g => some (g, if data && decide (g.form ≠ .data) then takeFrame s t l home mask else s)
      | none => (allocWay s t l home mask data).map fun p => (⟨.tokenOnly, 0, false, 0, p.1, s.clock, home⟩, p.2)
    match tag with
    | none => sendTok s t (ctlTower l) true l home (.tok count owner zero data rset)
    | some (g, s1) =>
      settleReq (s1.setLine l { s1.line l with
        slices := fset (s1.line l).slices t (addTok g count owner zero data rset s.clock) }) t l

/-- What the controller answers to a TREQ (R354). -/
def ctlAnswer (s : State) (l home : Nat) (write : Bool) (req : Nat) : State :=
  let x := s.line l
  let c := x.ctl
  if write then
    if c.tok = 0 then s
    else
      sendTok (s.setLine l { x with ctl := { c with tok := 0, own := false, rset := c.rset ||| 2 ^ req } })
        (ctlTower l) req false l home (.tok c.tok c.own (c.own && c.zero) (c.own && !c.zero) (if c.own then c.rset else 0))
  else if c.own = true ∧ 2 ≤ c.tok then
    sendTok (s.setLine l { x with ctl := { c with tok := c.tok - 1, rset := c.rset ||| 2 ^ req } })
      (ctlTower l) req false l home (.tok 1 false c.zero (!c.zero) 0)
  else s

/-- What the slice of tower t answers to a TREQ (R354, R358). A slice that owns the line under another placement sends the
data with the owner token (log entry 65). -/
def sliceAnswer (s : State) (t l home : Nat) (write : Bool) (req : Nat) : State :=
  let x := s.line l
  match flook x.slices t with
  | none => s
  | some g =>
    if write then
      if t = home / 256 then s
      else
        sendTok (s.setLine l { x with slices := fdel x.slices t }) t req false l home
          (.tok g.tok g.owner (g.owner && decide (g.form = .zero)) (g.owner && decide (g.form = .data)) 0)
    else
      let writing := match flook x.reqs t with
        | some r => r.write
        | none => false
      if g.owner = true ∧ 2 ≤ g.tok ∧ g.form ≠ .tokenOnly ∧ writing = false then
        sendTok (s.setLine l { x with slices := fset x.slices t { g with tok := g.tok - 1, rset := g.rset ||| 2 ^ req } })
          t req false l home (.tok 1 false (decide (g.form = .zero)) (decide (g.form = .data)) 0)
      else s

/-- The entries of requester index q in the weir of a home slice (R356: two per tower index). -/
def weirCount (s : State) (home : Nat) (q : Nat) : Nat :=
  (s.lines.map fun p => (p.2.weir.filter fun e => decide (e.home = home) && decide (e.requester = q)).length).sum

/-- The requests in the FIFO of a home slice's weir (R356). -/
def weirWaiting (s : State) (home : Nat) : Nat :=
  (s.lines.map fun p => (p.2.fifo.filter fun e => decide (e.home = home)).length).sum

/-- Activate the first entry of a line when none is active (R356): PACT goes to every slice and the controller. A write waits
for the censuses that the line is due (R367). -/
def weirNext (s : State) (l home : Nat) : State :=
  let x := s.line l
  match x.weir with
  | [] => s
  | e :: r =>
    if e.st = .placed ∧ x.maker = none ∧ (e.write = false ∨ x.due = []) then
      let ts := presentTowers s
      sendAll (s.setLine l { x with weir := { e with st := .activating, acks := ts.length + 1 } :: r })
        (home / 256) l home (.pact e.write e.requester) ts
    else s

/-- An event that is not enabled changes nothing (log entry 7). -/
def event (s : State) : Host.Outcome State Fault Refusal := .next s

/-- The home slice of a line, as a tag, a request or a message for it names it, or else that of interleaved placement. -/
def knownHome (s : State) (l : Nat) : Nat :=
  let x := s.line l
  ((((x.slices.head?.map fun p => p.2.home).or (x.reqs.head?.map fun p => p.2.home)).or
    ((s.msgs.find? fun m => decide (m.line = l)).map fun m => m.home))).getD (homeSlice s false (128 * l))

/-- The tower whose controller or home slice holds the owner token of a line, and whether it is the home slice; none while the token
is on its way. -/
def LineTok.owner (x : LineTok) (l : Nat) : Option (Nat × Bool) :=
  match x.ownerSlice with
  | some h => some (h, true)
  | none => if x.ctl.own then some (ctlTower l, false) else none

/-- The owner holder of a line that is due begins the census for the first tower (R367): CENSUS goes to every same-index slice
and the controller (R351), unless a persistent request for the line is being served. Every recipient answers but that tower's
slice and the maker itself. -/
def startCensus (s : State) (l : Nat) : State :=
  let x := s.line l
  match x.maker, x.due, x.owner l with
  | none, r :: _, some (t, byHome) =>
    if x.weir.any fun e => decide (e.st ≠ .placed) then s
    else
      let ts := presentTowers s
      let n := (ts.filter fun d => decide (d ≠ r) && !(byHome && decide (d = t))).length + if byHome then 1 else 0
      sendAll (s.setLine l { x with maker := some (r, n) }) t l (knownHome s l) (.census byHome) ts
  | _, _, _ => s

/-- TREQ_RECEIVE (R354, R357): a holder answers a transient request, unless a persistent request is active there. A write that
reaches the controller of a line that is due waits there for the census, which begins (R367). -/
def execTreqReceive (n : Nat) (s : State) : Host.Outcome State Fault Refusal :=
  match tokReady s n with
  | some m =>
    match m.body with
    | .treq w q =>
      let s1 := dropMsg s n
      let who := if m.toCtl then 8 else m.dst
      if ((s.line m.line).activeAt who).isSome then event s1
      else if m.toCtl && w && (decide ((s.line m.line).due ≠ []) || (s.line m.line).maker.isSome) then event (startCensus s m.line)
      else if (s.line m.line).maker.isSome then event s1
      else if m.toCtl then event (ctlAnswer s1 m.line m.home w q)
      else event (sliceAnswer s1 m.dst m.line m.home w q)
    | _ => event s
  | none => event s

/-- TOK_RECEIVE (R351, R354, R355, R367): tokens reach a requester, a home or the controller; a reply to a census brings
all the tokens of its sender, if it had any. -/
def execTokReceive (n : Nat) (s : State) : Host.Outcome State Fault Refusal :=
  match tokReady s n with
  | some m =>
    match m.body with
    | .tok c o z d r =>
      let s1 := dropMsg s n
      if m.toCtl then event (passActive (ctlReceive s1 m.line c o z d r) 8 m.line m.home)
      else event (sliceReceive s1 m.dst m.line m.home c o z d r)
    | .reply c =>
      let s0 := dropMsg s n
      let s1 :=
        if c = 0 then s0
        else if m.toCtl then ctlReceive s0 m.line c false false false 0
        else sliceReceive s0 m.dst m.line m.home c false false false 0
      let x := s1.line m.line
      event (s1.setLine m.line { x with maker := x.maker.map fun p => (p.1, p.2 - 1) })
    | .data z => event (sliceData (dropMsg s n) m.dst m.line m.home z)
    | _ => event s
  | none => event s

/-- DMARK_RECEIVE (R348): the controller sets HD. -/
def execDmarkReceive (n : Nat) (s : State) : Host.Outcome State Fault Refusal :=
  match tokReady s n with
  | some m =>
    match m.body with
    | .dmark =>
      let x := s.line m.line
      event ((dropMsg s n).setLine m.line { x with ctl := { x.ctl with hd := true } })
    | _ => event s
  | none => event s

/-- The persistent requests of tower q that are on their way to the weir of a home slice. -/
def preqFlying (s : State) (home q : Nat) : Nat :=
  (s.msgs.filter fun m => decide (m.home = home) && decide (m.src = q) && (match m.body with
    | .preq _ _ => true
    | _ => false)).length

/-- The weir of a home slice has room for a further persistent request of tower q (R356): one of its two entries, or a place of the
FIFO that no other request will need. -/
def weirRoom (s : State) (home q : Nat) : Bool :=
  let extra (t : Nat) : Nat := weirCount s home t + preqFlying s home t - 2
  decide (weirCount s home q + preqFlying s home q < 2) ||
    decide (weirWaiting s home + ((List.range 8).map extra).sum < 32)

/-- TREQ_TIMEOUT (R354): the first failure sends a second TREQ, the second a PREQ to the home slice's weir. A persistent request
whose tokens have come, and whose access no longer waits, is done. A PREQ sets out when the weir has an entry of its tower or one of
the 32 places of its FIFO for it (R350: a receiver reserves space for class PER; log entry 66). -/
def execTreqTimeout (tower line : Nat) (s : State) : Host.Outcome State Fault Refusal :=
  let x := s.line line
  match flook x.reqs tower with
  | some r =>
    let home := r.home
    if r.stage = 1 then
      event (sendAll (s.setLine line { x with reqs := fset x.reqs tower { r with stage := 2 } }) tower line home
        (.treq r.write tower) ((presentTowers s).filter fun d => decide (d ≠ tower)))
    else if r.stage = 2 then
      if weirRoom s home tower = false then event s
      else event (sendTok (s.setLine line { x with reqs := fset x.reqs tower { r with stage := 3 } }) tower (home / 256) false
        line home (.preq r.write tower))
    else
      match flook x.slices tower, x.activeAt tower with
      | some g, some (q, w) =>
        if q = tower ∧ r.met g = true ∧ lineWanted s tower line = false then
          event (persistDone (s.setLine line { x with reqs := fdel x.reqs tower }) tower line home w)
        else event s
      | _, _ => event s
  | none => event s

/-- PREQ_RECEIVE (R356): the weir places the request, or keeps it in its FIFO of 32; while that is full, the message waits (log
entry 66). -/
def execPreqReceive (n : Nat) (s : State) : Host.Outcome State Fault Refusal :=
  match tokReady s n with
  | some m =>
    match m.body with
    | .preq w q =>
      let s1 := dropMsg s n
      let x := s1.line m.line
      if weirCount s1 m.home q < 2 then
        event (weirNext (s1.setLine m.line { x with weir := x.weir ++ [⟨m.home, q, w, .placed, 0⟩] }) m.line m.home)
      else if 32 ≤ weirWaiting s1 m.home then event s
      else event (s1.setLine m.line { x with fifo := x.fifo ++ [⟨m.home, q, w, s1.clock⟩] })
    | _ => event s
  | none => event s

/-- PACT_RECEIVE (R356): the recipient activates the request, acknowledges it and sends its tokens; a requester whose
access is served already says so. -/
def execPactReceive (n : Nat) (s : State) : Host.Outcome State Fault Refusal :=
  match tokReady s n with
  | some m =>
    match m.body with
    | .pact w q =>
      let s1 := dropMsg s n
      let who := if m.toCtl then 8 else m.dst
      let x := s1.line m.line
      let s2 := s1.setLine m.line { x with active := x.active ++ [(who, q, w)] }
      let s3 := sendTok s2 m.dst m.src false m.line m.home .pack
      let s4 := giveActive s3 who m.line m.home w q
      if who = q ∧ (flook (s4.line m.line).reqs q).isNone then
        event (persistDone s4 q m.line m.home w)
      else event s4
    | _ => event s
  | none => event s

/-- PDEACT_RECEIVE (R356): the recipient deactivates the request and acknowledges it. -/
def execPdeactReceive (n : Nat) (s : State) : Host.Outcome State Fault Refusal :=
  match tokReady s n with
  | some m =>
    match m.body with
    | .pdeact _ _ =>
      let s1 := dropMsg s n
      let who := if m.toCtl then 8 else m.dst
      let x := s1.line m.line
      event (sendTok (s1.setLine m.line { x with active := x.active.filter fun p => decide (p.1 ≠ who) })
        m.dst m.src false m.line m.home .pack)
    | _ => event s
  | none => event s

/-- The oldest request of tower q that waits in a home slice's FIFO, with its line (R356). -/
def nextWaiting (s : State) (home q : Nat) : Option (Nat × WeirWait) :=
  let l := s.lines.flatMap fun p => (p.2.fifo.filter fun f => decide (f.home = home) && decide (f.requester = q)).map fun f => (p.1, f)
  l.foldl (fun a p => match a with
    | none => some p
    | some o => if p.2.came < o.2.came then some p else some o) none

/-- Take the next request of a home slice's FIFO into a freed entry of its requester (R356). -/
def weirRefill (s : State) (home q : Nat) : State :=
  match nextWaiting s home q with
  | none => s
  | some (l, f) =>
    let x := s.line l
    weirNext (s.setLine l { x with fifo := x.fifo.erase f, weir := x.weir ++ [⟨home, q, f.write, .placed, 0⟩] }) l home

/-- PACK_RECEIVE (R356): the weir counts an acknowledgement; the last of a deactivation ends the entry, and the next
entry of the line is activated. -/
def execPackReceive (n : Nat) (s : State) : Host.Outcome State Fault Refusal :=
  match tokReady s n with
  | some m =>
    match m.body with
    | .pack =>
      let s1 := dropMsg s n
      let x := s1.line m.line
      match x.weir with
      | [] => event s1
      | e :: r =>
        if 1 < e.acks then event (s1.setLine m.line { x with weir := { e with acks := e.acks - 1 } :: r })
        else
          match e.st with
          | .activating => event (s1.setLine m.line { x with weir := { e with acks := 0, st := .active } :: r })
          | .deactivating => event (weirNext (weirRefill (s1.setLine m.line { x with weir := r }) e.home e.requester) m.line m.home)
          | _ => event s1
    | _ => event s
  | none => event s

/-- PDONE_RECEIVE (R356): the weir sends PDEACT to every recipient. -/
def execPdoneReceive (n : Nat) (s : State) : Host.Outcome State Fault Refusal :=
  match tokReady s n with
  | some m =>
    match m.body with
    | .pdone =>
      let s1 := dropMsg s n
      let x := s1.line m.line
      match x.weir with
      | [] => event s1
      | e :: r =>
        let ts := presentTowers s
        event (sendAll (s1.setLine m.line { x with weir := { e with st := .deactivating, acks := e.acks + ts.length + 1 } :: r })
          (m.home / 256) m.line m.home (.pdeact e.write e.requester) ts)
    | _ => event s
  | none => event s

/-- The home slice holds all eight tokens of a line and valid data, so that it may apply an access (R346, R353); for a basin
with no ways the line is gathered at the controller (R359), once its page has a before-image. A line that is due waits for the
census (R367). -/
def homeHolds (s : State) (l home mask : Nat) : Option State :=
  if (s.line l).due ≠ [] then none
  else if mask % 2 ^ 16 = 0 then (if pageSaved s (l / 512) then some (gatherCtl s l) else none)
  else if (s.line l).writable (home / 256) then some (accessDone s (home / 256) l true)
  else none

/-- A store or an atomic reaches its home slice: with all eight tokens there it may be applied, and the tag becomes a data
line; otherwise the home asks for them (R353). -/
def homeWrite (s : State) (l home mask : Nat) : Option State :=
  (homeHolds s l home mask).map fun s1 => gatherFor s1 l home mask

end Sys2Proof.Machine
end

