-- ==== Sys2Proof/Machine/DevRead.lean ====
section
/-! DEFINITION. What the device registers read as (R391 to R395 of spec/29_host_and_tenancy.md), with what they report on: links
(R349, R352), beds, easels and queues. -/

namespace Sys2Proof.Machine

/-- The neighbours of a tower in link order (R349). -/
def neighbours (t : Nat) : List Nat := [1, 2, 4, 7].map fun m => t ^^^ m

/-- The tower at the other end of a link (R349). -/
def linkPeer (t link : Nat) : Nat := (neighbours t).getD link t

/-- A link joins two present towers and has not failed. -/
def linkUp (s : State) (t link : Nat) : Bool :=
  decide (link < 4) && towerPresent s t && towerPresent s (linkPeer t link) && !(s.guard t).down.contains link

/-- An easel by number. -/
def State.easel (s : State) (e : Nat) : Easel := fget Easel.fresh s.easels e

/-- A queue by number. -/
def State.queue (s : State) (n : Nat) : Option UQueue := flook s.queues n

/-- The value of ECTL (R394). -/
def ectlValue (s : State) (e : Nat) : Word :=
  let x := s.easel e
  let stopped : Bool := match x.que with
    | some n => (s.queue n).any fun u => decide (u.st = 2)
    | none => false
  BitVec.ofNat 64 (x.basin * 2 ^ 8 + x.pri * 16 + (if stopped then 2 else 0) + (if x.que.isSome then 1 else 0))

/-- The OWNER of a bed, in the layout of TENANT (R392). -/
def bedOwner (s : State) (t bed : Nat) : Word := fget 0x40 (s.tower t).owners bed

/-- A move of a bed is in progress. -/
def moving (s : State) (t bed : Nat) : Bool := s.bedMoves.any fun m => decide (m.tower = t) && decide (m.bed = bed)

/-! ### The blocks (R391) -/

/-- A register of the device range by block. -/
inductive DevReg where
  | tower (t off : Nat)
  | die (i off : Nat)
  | basin (b off : Nat)
  | atelier (off : Nat)
  | none
  deriving DecidableEq, Repr

/-- The register at an 8-aligned physical address. -/
def devReg (pa : Nat) : DevReg :=
  if 0x0F0000000000 ≤ pa ∧ pa < 0x0F0008000000 then .tower ((pa - 0x0F0000000000) / 0x1000000) (pa % 0x1000000)
  else if 0x0F1000000000 ≤ pa ∧ pa < 0x0F1002000000 then .die ((pa - 0x0F1000000000) / 0x1000000) (pa % 0x1000000)
  else if 0x0F2000000000 ≤ pa ∧ pa < 0x0F2000040000 then .basin ((pa - 0x0F2000000000) / 0x1000) (pa % 0x1000)
  else if 0x0F3000000000 ≤ pa ∧ pa < 0x0F3000001000 then .atelier (pa % 0x1000)
  else .none

/-- A flag as a number. -/
def bit (b : Bool) (n : Nat) : Nat := if b then 2 ^ n else 0

/-- TWRSTAT (R392). -/
def twrStat (s : State) (t : Nat) : Nat :=
  let x := s.guard t
  ((x.stored.map fun c => c.no).getD 0) % 2 ^ 32 * 2 ^ 32 +
    bit (linkUp s t 0) 8 + bit (linkUp s t 1) 9 + bit (linkUp s t 2) 10 + bit (linkUp s t 3) 11 +
    bit x.resetDue 3 + bit x.stored.isSome 2 + bit x.on 1 + 1

/-- LINKRETRY (R392). -/
def linkRetry (x : Guard) : Nat := fget 0 x.retry 0 + fget 0 x.retry 1 * 2 ^ 16 + fget 0 x.retry 2 * 2 ^ 32 + fget 0 x.retry 3 * 2 ^ 48

/-- A register of a tower block (R392); every register of an absent tower reads 0 (R391). -/
def towerReg (s : State) (t off : Nat) : Nat :=
  if !towerPresent s t then 0
  else if off = 0x000 then twrStat s t
  else if off = 0x008 then (s.guard t).interval * 2 ^ 32 + bit (s.guard t).on 0
  else if off = 0x020 then (s.guard t).ecc.toNat
  else if off = 0x028 then linkRetry (s.guard t)
  else if 0x100 ≤ off ∧ off < 0x180 ∧ off % 8 = 0 then
    let b := (off - 0x100) / 8
    (bedOwner s t b).toNat % 128 + bit (moving s t b) 7
  else 0

/-- A register of a basin block (R393). -/
def basinReg (x : Basin) (off : Nat) : Nat :=
  match off with
  | 0x000 => x.fqhdr.toNat
  | 0x008 => x.ptroot.toNat
  | 0x010 => x.waymask.toNat
  | 0x018 => x.quantum.toNat
  | 0x020 => x.vtmap.toNat
  | 0x028 => bit x.resetting 1 + bit x.isOpen 0
  | _ => 0

/-- A register of an I/O die block (R394). -/
def dieReg (s : State) (i off : Nat) : Nat :=
  let e := 512 * i + off / 16
  if 512 * 16 ≤ off then 0 else if off % 16 = 0 then (s.easel e).eqhdr.toNat else if off % 16 = 8 then (ectlValue s e).toNat else 0

/-- The value of a device register; an address that no table lists reads 0 (R391). -/
def deviceRead (s : State) (pa : Nat) : Word :=
  BitVec.ofNat 64 (match devReg pa with
    | .tower t off => towerReg s t off
    | .die i off => dieReg s i off
    | .basin b off => basinReg (s.basin b) off
    | .atelier 0 => s.afqhdr.toNat
    | .atelier 8 => min s.afqlost (2 ^ 64 - 1)
    | _ => 0)

/-- The bytes of a device register that a load reads (R391). -/
def deviceBytes (s : State) (pa size : Nat) : List Byte := ((leBytes 8 (deviceRead s (pa / 8 * 8)).toNat).drop (pa % 8)).take size

end Sys2Proof.Machine
end

