-- ==== Sys2Proof/Machine/Scalar.lean ====
section
/-! DEFINITION. The scalar instructions: OP, FP, the immediate forms, jumps and branches (R64 to R91 of
spec/05_scalar_instructions.md). JT, which reads memory, stands with the loads. -/

namespace Sys2Proof.Machine

/-- rd := f ra rb (R64). -/
def aluR3 (o : R3) (f : Word → Word → Word) (s : State) : Host.Outcome State Fault Refusal :=
  finish s (gate s o.use fun s => .done (s.put o.d (f (s.g o.a) (s.g o.b))).next4)

/-- rd := f ra (R64). -/
def aluR2 (o : R2) (f : Word → Word) (s : State) : Host.Outcome State Fault Refusal :=
  finish s (gate s o.use fun s => .done (s.put o.d (f (s.g o.a))).next4)

/-- rd := f ra imm (R76). -/
def aluImm (o : Imm) (f : Word → Word → Word) (s : State) : Host.Outcome State Fault Refusal :=
  finish s (gate s o.use fun s => .done (s.put o.d (f (s.g o.a) (immI o.i))).next4)

/-- rd := f ra n (R77). -/
def aluShi (o : Shi) (f : Word → Nat → Word) (s : State) : Host.Outcome State Fault Refusal :=
  finish s (gate s o.use fun s => .done (s.put o.d (f (s.g o.a) o.n.toNat)).next4)

/-- OR flags into the executing thread's FPCTL (R66). -/
def State.orFlags (s : State) (f : FFlags) : State := s.setMe { s.me with fpctl := fpctlOr s.me.fpctl f }

/-- rd and the flags of an FP operation on ra and rb in FPCTL's mode (R66). -/
def fpR3 (o : R3) (f : RMode → Word → Word → Word × FFlags) (s : State) : Host.Outcome State Fault Refusal :=
  finish s (gate s o.use fun s =>
    let r := f (fpctlMode s.me.fpctl) (s.g o.a) (s.g o.b)
    .done ((s.put o.d r.1).orFlags r.2).next4)

/-- rd and the flags of an FP operation on ra. -/
def fpR2 (o : R2) (f : RMode → Word → Word × FFlags) (s : State) : Host.Outcome State Fault Refusal :=
  finish s (gate s o.use fun s =>
    let r := f (fpctlMode s.me.fpctl) (s.g o.a)
    .done ((s.put o.d r.1).orFlags r.2).next4)

/-- A long-latency result (R65): rd is left pending and the fill goes to the register rd names at issue; with rd = g0
only the flags of an FP operation are still to come. -/
def State.launch (s : State) (rd : RegNo) (v : Word) (fl : FFlags) (fp : Bool) : State :=
  let c := s.me
  if rd = 0 ∧ fp = false then s
  else
    let s1 := s.putPending rd
    s1.setMe { s1.me with fills := c.fills ++ [⟨inShadow c.ih rd, rd.toNat, v, fl, fp, none⟩] }

/-- An integer division (R65, R71). -/
def longR3 (o : R3) (f : Word → Word → Word) (s : State) : Host.Outcome State Fault Refusal :=
  finish s (gate s o.use fun s => .done (s.launch o.d (f (s.g o.a) (s.g o.b)) 0 false).next4)

/-- A conditional branch (R82). -/
def branch (o : Br) (c : Word → Word → Bool) (s : State) : Host.Outcome State Fault Refusal :=
  finish s (gate s o.use fun s =>
    if c (s.g o.a) (s.g o.b) then .done (s.goto (s.me.pc + dispB o.i)) else .done s.next4)

/-- ADD (R67): Writes the 64-bit sum of ra and rb to rd. -/
def execAdd (o : R3) (s : State) : Host.Outcome State Fault Refusal :=
  aluR3 o (fun a b => a + b) s

/-- SUB (R67): Writes the 64-bit difference of ra and rb to rd. -/
def execSub (o : R3) (s : State) : Host.Outcome State Fault Refusal :=
  aluR3 o (fun a b => a - b) s

/-- AND (R67): Writes the bitwise and of ra and rb to rd. -/
def execAnd (o : R3) (s : State) : Host.Outcome State Fault Refusal :=
  aluR3 o (fun a b => a &&& b) s

/-- OR (R67): Writes the bitwise or of ra and rb to rd. -/
def execOr (o : R3) (s : State) : Host.Outcome State Fault Refusal :=
  aluR3 o (fun a b => a ||| b) s

/-- XOR (R67): Writes the bitwise exclusive or of ra and rb to rd. -/
def execXor (o : R3) (s : State) : Host.Outcome State Fault Refusal :=
  aluR3 o (fun a b => a ^^^ b) s

/-- ANDN (R67): Writes ra and not rb to rd. -/
def execAndn (o : R3) (s : State) : Host.Outcome State Fault Refusal :=
  aluR3 o (fun a b => a &&& ~~~b) s

/-- ORN (R67): Writes ra or not rb to rd. -/
def execOrn (o : R3) (s : State) : Host.Outcome State Fault Refusal :=
  aluR3 o (fun a b => a ||| ~~~b) s

/-- XNOR (R67): Writes the complement of ra xor rb to rd. -/
def execXnor (o : R3) (s : State) : Host.Outcome State Fault Refusal :=
  aluR3 o (fun a b => ~~~(a ^^^ b)) s

/-- SLL (R68): Shifts ra left by rb[5:0]. -/
def execSll (o : R3) (s : State) : Host.Outcome State Fault Refusal :=
  aluR3 o (fun a b => a <<< sh6 b) s

/-- SRL (R68): Shifts ra right logically by rb[5:0]. -/
def execSrl (o : R3) (s : State) : Host.Outcome State Fault Refusal :=
  aluR3 o (fun a b => a >>> sh6 b) s

/-- SRA (R68): Shifts ra right arithmetically by rb[5:0]. -/
def execSra (o : R3) (s : State) : Host.Outcome State Fault Refusal :=
  aluR3 o (fun a b => a.sshiftRight (sh6 b)) s

/-- ROL (R68): Rotates ra left by rb[5:0]. -/
def execRol (o : R3) (s : State) : Host.Outcome State Fault Refusal :=
  aluR3 o (fun a b => rolW a (sh6 b)) s

/-- ROR (R68): Rotates ra right by rb[5:0]. -/
def execRor (o : R3) (s : State) : Host.Outcome State Fault Refusal :=
  aluR3 o (fun a b => rorW a (sh6 b)) s

/-- SLT (R69): Writes 1 if ra is less than rb signed, else 0. -/
def execSlt (o : R3) (s : State) : Host.Outcome State Fault Refusal :=
  aluR3 o (fun a b => boolWord (decide (a.toInt < b.toInt))) s

/-- SLTU (R69): Writes 1 if ra is less than rb unsigned, else 0. -/
def execSltu (o : R3) (s : State) : Host.Outcome State Fault Refusal :=
  aluR3 o (fun a b => boolWord (decide (a.toNat < b.toNat))) s

/-- MIN (R69): Writes the signed minimum of ra and rb. -/
def execMin (o : R3) (s : State) : Host.Outcome State Fault Refusal :=
  aluR3 o minS s

/-- MAX (R69): Writes the signed maximum of ra and rb. -/
def execMax (o : R3) (s : State) : Host.Outcome State Fault Refusal :=
  aluR3 o maxS s

/-- MINU (R69): Writes the unsigned minimum of ra and rb. -/
def execMinu (o : R3) (s : State) : Host.Outcome State Fault Refusal :=
  aluR3 o minU s

/-- MAXU (R69): Writes the unsigned maximum of ra and rb. -/
def execMaxu (o : R3) (s : State) : Host.Outcome State Fault Refusal :=
  aluR3 o maxU s

/-- MUL (R70): Writes the low 64 bits of the product of ra and rb. -/
def execMul (o : R3) (s : State) : Host.Outcome State Fault Refusal :=
  aluR3 o (fun a b => a * b) s

/-- MULH (R70): Writes the high 64 bits of the signed product. -/
def execMulh (o : R3) (s : State) : Host.Outcome State Fault Refusal :=
  aluR3 o (fun a b => highOf (a.toInt * b.toInt)) s

/-- MULHU (R70): Writes the high 64 bits of the unsigned product. -/
def execMulhu (o : R3) (s : State) : Host.Outcome State Fault Refusal :=
  aluR3 o (fun a b => highOf (a.toNat * b.toNat)) s

/-- MULHSU (R70): Writes the high 64 bits of the signed-by-unsigned product. -/
def execMulhsu (o : R3) (s : State) : Host.Outcome State Fault Refusal :=
  aluR3 o (fun a b => highOf (a.toInt * b.toNat)) s

/-- DIV (R71): Issues a signed long-latency division and leaves rd pending for the quotient. -/
def execDiv (o : R3) (s : State) : Host.Outcome State Fault Refusal :=
  longR3 o divS s

/-- DIVU (R71): Issues an unsigned long-latency division and leaves rd pending. -/
def execDivu (o : R3) (s : State) : Host.Outcome State Fault Refusal :=
  longR3 o divU s

/-- REM (R71): Issues a signed long-latency remainder and leaves rd pending. -/
def execRem (o : R3) (s : State) : Host.Outcome State Fault Refusal :=
  longR3 o remS s

/-- REMU (R71): Issues an unsigned long-latency remainder and leaves rd pending. -/
def execRemu (o : R3) (s : State) : Host.Outcome State Fault Refusal :=
  longR3 o remU s

/-- ADDW (R72): Adds the low 32 bits and sign-extends the result. -/
def execAddw (o : R3) (s : State) : Host.Outcome State Fault Refusal :=
  aluR3 o addW s

/-- SUBW (R72): Subtracts the low 32 bits and sign-extends the result. -/
def execSubw (o : R3) (s : State) : Host.Outcome State Fault Refusal :=
  aluR3 o subW s

/-- MULW (R72): Multiplies the low 32 bits and sign-extends the result. -/
def execMulw (o : R3) (s : State) : Host.Outcome State Fault Refusal :=
  aluR3 o mulW s

/-- SLLW (R72): Shifts the low 32 bits left and sign-extends. -/
def execSllw (o : R3) (s : State) : Host.Outcome State Fault Refusal :=
  aluR3 o sllW s

/-- SRLW (R72): Shifts the low 32 bits right logically and sign-extends. -/
def execSrlw (o : R3) (s : State) : Host.Outcome State Fault Refusal :=
  aluR3 o srlW s

/-- SRAW (R72): Shifts the low 32 bits right arithmetically and sign-extends. -/
def execSraw (o : R3) (s : State) : Host.Outcome State Fault Refusal :=
  aluR3 o sraW s

/-- CLZ (R73): Counts leading zero bits of ra. -/
def execClz (o : R2) (s : State) : Host.Outcome State Fault Refusal :=
  aluR2 o clzW s

/-- CTZ (R73): Counts trailing zero bits of ra. -/
def execCtz (o : R2) (s : State) : Host.Outcome State Fault Refusal :=
  aluR2 o ctzW s

/-- POPC (R73): Counts one bits of ra. -/
def execPopc (o : R2) (s : State) : Host.Outcome State Fault Refusal :=
  aluR2 o popW s

/-- BREV (R73): Reverses the bit order of ra. -/
def execBrev (o : R2) (s : State) : Host.Outcome State Fault Refusal :=
  aluR2 o brevW s

/-- BSWAP (R73): Reverses the byte order of ra. -/
def execBswap (o : R2) (s : State) : Host.Outcome State Fault Refusal :=
  aluR2 o bswapW s

/-- SEXTB (R73): Sign-extends ra[7:0]. -/
def execSextb (o : R2) (s : State) : Host.Outcome State Fault Refusal :=
  aluR2 o (fun a => (a.setWidth 8).signExtend 64) s

/-- SEXTH (R73): Sign-extends ra[15:0]. -/
def execSexth (o : R2) (s : State) : Host.Outcome State Fault Refusal :=
  aluR2 o (fun a => (a.setWidth 16).signExtend 64) s

/-- SEXTW (R73): Sign-extends ra[31:0]. -/
def execSextw (o : R2) (s : State) : Host.Outcome State Fault Refusal :=
  aluR2 o sextW s

/-- ZEXTW (R73): Zero-extends ra[31:0]. -/
def execZextw (o : R2) (s : State) : Host.Outcome State Fault Refusal :=
  aluR2 o (fun a => (a.setWidth 32).zeroExtend 64) s

/-- CSEL (R74): Writes rb to rd when ra is non-zero and otherwise rewrites rd untagged. -/
def execCsel (o : R3) (s : State) : Host.Outcome State Fault Refusal :=
  finish s (gate s o.useRd fun s =>
    .done (s.put o.d (if s.g o.a ≠ 0 then s.g o.b else s.g o.d)).next4)

/-- HMOV (R75): Copies ra to rd together with its tag. -/
def execHmov (o : R2) (s : State) : Host.Outcome State Fault Refusal :=
  finish s (gate s o.use fun s => .done (s.putTagged o.d (s.g o.a) (s.gtag o.a)).next4)

/-- FADD (R83): Adds two fp32 values with one rounding and sets flags. -/
def execFadd (o : R3) (s : State) : Host.Outcome State Fault Refusal :=
  fpR3 o faddW s

/-- FSUB (R83): Subtracts two fp32 values with one rounding and sets flags. -/
def execFsub (o : R3) (s : State) : Host.Outcome State Fault Refusal :=
  fpR3 o fsubW s

/-- FMUL (R83): Multiplies two fp32 values with one rounding and sets flags. -/
def execFmul (o : R3) (s : State) : Host.Outcome State Fault Refusal :=
  fpR3 o fmulW s

/-- FDIV (R83): Issues a long-latency fp32 division leaving rd pending. -/
def execFdiv (o : R3) (s : State) : Host.Outcome State Fault Refusal :=
  finish s (gate s o.use fun s =>
    let r := fdivW (fpctlMode s.me.fpctl) (s.g o.a) (s.g o.b)
    .done (s.launch o.d r.1 r.2 true).next4)

/-- FSQRT (R83): Issues a long-latency fp32 square root leaving rd pending. -/
def execFsqrt (o : R2) (s : State) : Host.Outcome State Fault Refusal :=
  finish s (gate s o.use fun s =>
    let r := fsqrtW (fpctlMode s.me.fpctl) (s.g o.a)
    .done (s.launch o.d r.1 r.2 true).next4)

/-- FMA (R84): Computes ra times rb plus old rd with a single rounding. -/
def execFma (o : R3) (s : State) : Host.Outcome State Fault Refusal :=
  finish s (gate s o.useRd fun s =>
    let r := fmaW (fpctlMode s.me.fpctl) (s.g o.a) (s.g o.b) (s.g o.d)
    .done ((s.put o.d r.1).orFlags r.2).next4)

/-- FMIN (R85): Writes the smaller fp32 input with NaN rules. -/
def execFmin (o : R3) (s : State) : Host.Outcome State Fault Refusal :=
  fpR3 o (fun _ => fminmaxW false) s

/-- FMAX (R85): Writes the larger fp32 input with NaN rules. -/
def execFmax (o : R3) (s : State) : Host.Outcome State Fault Refusal :=
  fpR3 o (fun _ => fminmaxW true) s

/-- FEQ (R86): Writes 1 if the fp32 inputs are equal. -/
def execFeq (o : R3) (s : State) : Host.Outcome State Fault Refusal :=
  fpR3 o (fun _ => fcmpW 0) s

/-- FLT (R86): Writes 1 if the first fp32 input is less than the second. -/
def execFlt (o : R3) (s : State) : Host.Outcome State Fault Refusal :=
  fpR3 o (fun _ => fcmpW 1) s

/-- FLE (R86): Writes 1 if the first fp32 input is at most the second. -/
def execFle (o : R3) (s : State) : Host.Outcome State Fault Refusal :=
  fpR3 o (fun _ => fcmpW 2) s

/-- FCLASS (R87): Writes a one-hot class mask of the fp32 input. -/
def execFclass (o : R2) (s : State) : Host.Outcome State Fault Refusal :=
  aluR2 o fclassW s

/-- FTOI (R88): Converts fp32 to a signed 64-bit integer, truncating. -/
def execFtoi (o : R2) (s : State) : Host.Outcome State Fault Refusal :=
  fpR2 o (fun _ => ftoiW) s

/-- FTOIU (R88): Converts fp32 to an unsigned 64-bit integer, truncating. -/
def execFtoiu (o : R2) (s : State) : Host.Outcome State Fault Refusal :=
  fpR2 o (fun _ => ftoiuW) s

/-- ITOF (R89): Converts a signed integer to fp32. -/
def execItof (o : R2) (s : State) : Host.Outcome State Fault Refusal :=
  fpR2 o itofW s

/-- ITOFU (R89): Converts an unsigned integer to fp32. -/
def execItofu (o : R2) (s : State) : Host.Outcome State Fault Refusal :=
  fpR2 o itofuW s

/-- FTOBF (R90): Rounds fp32 to bf16. -/
def execFtobf (o : R2) (s : State) : Host.Outcome State Fault Refusal :=
  fpR2 o ftobfW s

/-- BFTOF (R90): Converts bf16 to fp32 exactly. -/
def execBftof (o : R2) (s : State) : Host.Outcome State Fault Refusal :=
  fpR2 o (fun _ => bftofW) s

/-- FTOH (R90): Rounds fp32 to fp16. -/
def execFtoh (o : R2) (s : State) : Host.Outcome State Fault Refusal :=
  fpR2 o ftohW s

/-- HTOF (R90): Converts fp16 to fp32 exactly. -/
def execHtof (o : R2) (s : State) : Host.Outcome State Fault Refusal :=
  fpR2 o (fun _ => htofW) s

/-- FNEG (R91): Inverts the sign bit of an fp32 value. -/
def execFneg (o : R2) (s : State) : Host.Outcome State Fault Refusal :=
  aluR2 o fnegW s

/-- FABS (R91): Clears the sign bit of an fp32 value. -/
def execFabs (o : R2) (s : State) : Host.Outcome State Fault Refusal :=
  aluR2 o fabsW s

/-- ADDI (R76): Adds a sign-extended immediate to ra. -/
def execAddi (o : Imm) (s : State) : Host.Outcome State Fault Refusal :=
  aluImm o (fun a i => a + i) s

/-- ANDI (R76): Ands ra with a sign-extended immediate. -/
def execAndi (o : Imm) (s : State) : Host.Outcome State Fault Refusal :=
  aluImm o (fun a i => a &&& i) s

/-- ORI (R76): Ors ra with a sign-extended immediate. -/
def execOri (o : Imm) (s : State) : Host.Outcome State Fault Refusal :=
  aluImm o (fun a i => a ||| i) s

/-- XORI (R76): Exclusive-ors ra with a sign-extended immediate. -/
def execXori (o : Imm) (s : State) : Host.Outcome State Fault Refusal :=
  aluImm o (fun a i => a ^^^ i) s

/-- SLTI (R76): Writes 1 if ra is less than the immediate signed. -/
def execSlti (o : Imm) (s : State) : Host.Outcome State Fault Refusal :=
  aluImm o (fun a i => boolWord (decide (a.toInt < i.toInt))) s

/-- SLTIU (R76): Writes 1 if ra is less than the sign-extended immediate unsigned. -/
def execSltiu (o : Imm) (s : State) : Host.Outcome State Fault Refusal :=
  aluImm o (fun a i => boolWord (decide (a.toNat < i.toNat))) s

/-- ADDIW (R76): Adds an immediate and sign-extends the low 32 bits. -/
def execAddiw (o : Imm) (s : State) : Host.Outcome State Fault Refusal :=
  aluImm o addW s

/-- SLLI (R77): Shifts ra left by an immediate amount. -/
def execSlli (o : Shi) (s : State) : Host.Outcome State Fault Refusal :=
  aluShi o (fun a n => a <<< n) s

/-- SRLI (R77): Shifts ra right logically by an immediate amount. -/
def execSrli (o : Shi) (s : State) : Host.Outcome State Fault Refusal :=
  aluShi o (fun a n => a >>> n) s

/-- SRAI (R77): Shifts ra right arithmetically by an immediate amount. -/
def execSrai (o : Shi) (s : State) : Host.Outcome State Fault Refusal :=
  aluShi o (fun a n => a.sshiftRight n) s

/-- ROLI (R77): Rotates ra left by an immediate amount. -/
def execRoli (o : Shi) (s : State) : Host.Outcome State Fault Refusal :=
  aluShi o rolW s

/-- LUI (R78): Writes the sign-extended upper immediate to rd. -/
def execLui (o : Up) (s : State) : Host.Outcome State Fault Refusal :=
  finish s (gate s o.use fun s => .done (s.put o.d (immU o.i)).next4)

/-- AUIPC (R78): Writes the PC plus the sign-extended upper immediate to rd. -/
def execAuipc (o : Up) (s : State) : Host.Outcome State Fault Refusal :=
  finish s (gate s o.use fun s => .done (s.put o.d (s.me.pc + immU o.i)).next4)

/-- JAL (R79): Writes PC+4 to rd and jumps by a scaled displacement. -/
def execJal (o : Up) (s : State) : Host.Outcome State Fault Refusal :=
  finish s (gate s o.use fun s => .done ((s.put o.d (s.me.pc + 4)).goto (s.me.pc + dispJ o.i)))

/-- JALR (R80): Jumps to ra plus an immediate and writes PC+4 to rd. -/
def execJalr (o : Imm) (s : State) : Host.Outcome State Fault Refusal :=
  finish s (gate s o.use fun s =>
    let t := s.g o.a + immI o.i
    if aligned4 t then .done ((s.put o.d (s.me.pc + 4)).goto t) else .trap causeMISALIGN t)

/-- BEQ (R82): Branches when ra equals rb. -/
def execBeq (o : Br) (s : State) : Host.Outcome State Fault Refusal :=
  branch o (fun a b => a == b) s

/-- BNE (R82): Branches when ra differs from rb. -/
def execBne (o : Br) (s : State) : Host.Outcome State Fault Refusal :=
  branch o (fun a b => a != b) s

/-- BLT (R82): Branches when ra is less than rb signed. -/
def execBlt (o : Br) (s : State) : Host.Outcome State Fault Refusal :=
  branch o (fun a b => decide (a.toInt < b.toInt)) s

/-- BGE (R82): Branches when ra is at least rb signed. -/
def execBge (o : Br) (s : State) : Host.Outcome State Fault Refusal :=
  branch o (fun a b => decide (b.toInt ≤ a.toInt)) s

/-- BLTU (R82): Branches when ra is less than rb unsigned. -/
def execBltu (o : Br) (s : State) : Host.Outcome State Fault Refusal :=
  branch o (fun a b => decide (a.toNat < b.toNat)) s

/-- BGEU (R82): Branches when ra is at least rb unsigned. -/
def execBgeu (o : Br) (s : State) : Host.Outcome State Fault Refusal :=
  branch o (fun a b => decide (b.toNat ≤ a.toNat)) s

end Sys2Proof.Machine
end

