-- ==== Sys2Proof/Machine/Memory.lean ====
section
/-! DEFINITION. Loads, stores, JT and the events of the memory path (R20, R65, R81, R129, R133 to R135, R141 to R148,
R151, R158 to R161, R406). -/

namespace Sys2Proof.Machine

/-! ### Helpers -/

/-- A context's vector instructions are outstanding (R229, R148). -/
def vectorBusy (s : State) (g k : Nat) : Bool := (s.core g).vjobs.any fun j => decide (j.ctx = k)

/-- The thread has an atomic, plain or scoped, whose rd is pending (R160, R172); a posted one does not count (log entry 79). -/
def scopedPending (s : State) (g k : Nat) : Bool :=
  s.atoms.any fun a => decide (a.core = g) && decide (a.ctx = k) && decide (a.rd ≠ 0)

/-- The way mask of a core's accesses (R386): its basin's, or every way on an unassigned bed. -/
def maskOf (s : State) (g : Nat) : Nat := basinMask s ((coreBasin s g).getD 64)

/-- The scope that an instruction of the executing core names (R154). -/
def State.sc (s : State) (n : BitVec 3) : Nat := scopeOn s.cur.1 n.toNat

/-- A core's tower may read a line through its slice (R346), or its basin has no ways and a holder answers (R359). -/
def canRead (s : State) (g l : Nat) : Bool :=
  decide (maskOf s g = 0) || (s.line l).readable (sliceTower s g)

/-- The core's slice asks for a read token when it has none (R353). -/
def askRead (s : State) (g : Nat) (w : Where) : State :=
  if canRead s g (lineOf w.pa) then s
  else askTokens s (sliceTower s g) (lineOf w.pa) (homeSlice s w.vault w.pa) false ((coreBasin s g).getD 64)

/-- Run f as context k of core g, and put the executing context back. -/
def asCtx (s : State) (g k : Nat) (f : State → State) : State := (f (s.at (g, k))).at s.cur

/-- The state an effect leaves. -/
def effState (s : State) (e : Eff) : State :=
  match finish s e with
  | .next s' => s'
  | _ => s

/-- A context that is RUN and not stopped. -/
def alive (s : State) (g k : Nat) : Bool := decide ((s.ctx g k).phase = .run) && decide ((s.ctx g k).stop = none)

/-- A translation failure as an effect: a trap, or a page fault (R145). -/
def orFault {α : Type} (r : Tr) (cause : Nat) (va : Word) (acc : Access) (s : State) (ok : Where → α) (wrap : Eff → α) : α :=
  match r with
  | .ok w => ok w
  | .page => wrap (.pageFault cause va)
  | .bad => wrap (.trap cause va)
  | .miss => wrap (.park s (.walk va acc cause))

/-- Translate for the executing thread, and go on with the place (R148). -/
def withPlace (s : State) (va : Word) (acc : Access) (size cause : Nat) (ok : Where → Eff) : Eff :=
  orFault (translate s s.who va acc size) cause va acc s ok id

/-! ### Loads -/

/-- The value of a load's bytes (R147). -/
def LoadOp.value (op : LoadOp) (bs : List Byte) : Word :=
  let v := leNat (bs.take (min op.size 8))
  if op.signed then BitVec.ofInt 64 ((BitVec.ofNat (8 * op.size) v).toInt) else BitVec.ofNat 64 v

/-- The executing thread's load takes its value (R148): registers full with their tags, the acquire's flash of L1
(R161), and for JT the jump (R81). -/
def completeLoad (s : State) (op : LoadOp) (bs : List Byte) (t0 t1 : Bool) : Eff :=
  match op.table with
  | some base =>
    let t := base + op.value bs
    if aligned4 t then .done ((s.setMe { s.me with lastLoad := some op.scope }).goto t) else .trap causeMISALIGN t
  | none =>
    let s1 := if op.acquire && decide (2 ≤ op.scope) then flashL1 s s.cur.1 else s
    let s2 := s1.putTagged op.rd (op.value bs) t0
    let s3 := if op.pair then s2.putTagged (pairOf op.rd) (leWord (bs.drop 8)) t1 else s2
    .done (s3.setMe { s3.me with lastLoad := some op.scope }).next4

/-- An atomic of the thread on the line has not been performed: its own later accesses to the line wait (R157). -/
def lineBusy (s : State) (g k l : Nat) : Bool :=
  s.atoms.any fun a => decide (a.core = g) && decide (a.ctx = k) && a.reply.isNone && decide (lineOf a.addr = l)

/-- The thread's own stores to a line of another core's scratchpad, or to a device register, are still to be performed, or an
atomic of it on the line: what the thread does there by other means waits (R157, R391). -/
def ownPending (s : State) (g k pa : Nat) : Bool :=
  lineBusy s g k (lineOf pa) || s.remotes.any fun r => decide (r.core = g) && decide (r.ctx = k) && r.store.isSome &&
    (decide (lineOf r.addr = lineOf pa) || (decide (placeOf s r.addr = .device) && decide (placeOf s pa = .device)))

/-- A load or store that goes out to another core's scratchpad or to a device register (R129, R139). -/
def sendRemote (s : State) (pa size : Nat) (store : Option (List Byte)) (load : Option LoadOp) : State :=
  { s.bump with
    remotes := s.remotes ++
      [⟨s.serial, s.cur.1, s.cur.2, (coreBasin s s.cur.1).getD 64, pa, size, store, load, s.serial, none⟩] }

/-- A load at a place (R148): the own scratchpad is read this turn; another core's scratchpad and the device registers
are asked; any other load parks until its data arrives. -/
def loadPlace (s : State) (w : Where) (op : LoadOp) : Eff :=
  if lineBusy s s.cur.1 s.cur.2 (lineOf w.pa) then .park s (.lineDrain (lineOf w.pa))
  else match placeOf s w.pa with
  | .spad g off =>
    if vectorBusy s s.cur.1 s.cur.2 then .park s .vectorDrain
    else if g = s.cur.1 then
      let tags := w.own && decide (8 ≤ op.size)
      completeLoad s op (readBytes s.mem w.pa op.size) (tags && tagAt s g off) (tags && tagAt s g (off + 8))
    else .park (sendRemote s w.pa op.size none (some op)) (.remote s.serial)
  | .device => .park (sendRemote s w.pa op.size none (some op)) (.remote s.serial)
  | _ =>
    if overlaps s s.cur.1 (gctx s.cur.1 s.cur.2) w.pa op.size then .park s (.overlap w.pa op.size)
    else .park (askRead s s.cur.1 w) (.load op)

/-- A load from a virtual address (R148). -/
def loadFrom (s : State) (va : Word) (op : LoadOp) : Eff :=
  if va.toNat % op.size ≠ 0 then .trap causeMISALIGN va
  else
    withPlace s va .load op.size causeLOADF fun w =>
      if 1 ≤ op.scope ∧ scopedPending s s.cur.1 s.cur.2 = true then .park s .scopedOrder
      else loadPlace s w { op with addr := w.pa, vault := w.vault }

/-- The load instructions (R147, R148). -/
def loadInstr (o : Ld) (size : Nat) (signed pair : Bool) (s : State) : Host.Outcome State Fault Refusal :=
  finish s (gate s (if pair then o.usePair else o.use) fun s =>
    loadFrom s (addrM (s.g o.a) o.i size) ⟨0, false, size, signed, o.d, pair, s.sc o.s, o.o, none⟩)

/-- LB (R148): Loads a sign-extended byte. -/
def execLb (o : Ld) (s : State) : Host.Outcome State Fault Refusal := loadInstr o 1 true false s
/-- LBU (R148): Loads a zero-extended byte. -/
def execLbu (o : Ld) (s : State) : Host.Outcome State Fault Refusal := loadInstr o 1 false false s
/-- LH (R148): Loads a sign-extended half-word. -/
def execLh (o : Ld) (s : State) : Host.Outcome State Fault Refusal := loadInstr o 2 true false s
/-- LHU (R148): Loads a zero-extended half-word. -/
def execLhu (o : Ld) (s : State) : Host.Outcome State Fault Refusal := loadInstr o 2 false false s
/-- LW (R148): Loads a sign-extended word. -/
def execLw (o : Ld) (s : State) : Host.Outcome State Fault Refusal := loadInstr o 4 true false s
/-- LWU (R148): Loads a zero-extended word. -/
def execLwu (o : Ld) (s : State) : Host.Outcome State Fault Refusal := loadInstr o 4 false false s
/-- LD (R148): Loads 8 bytes, with the tag of a word of the own scratchpad. -/
def execLd (o : Ld) (s : State) : Host.Outcome State Fault Refusal := loadInstr o 8 false false s
/-- LQ (R148): Loads 16 bytes into a register pair. -/
def execLq (o : Ld) (s : State) : Host.Outcome State Fault Refusal := loadInstr o 16 false true s

/-- JT (R81): the bounded table jump; the entry is read as a plain LW. -/
def execJt (o : Jt) (s : State) : Host.Outcome State Fault Refusal :=
  finish s (gate s o.use fun s =>
    let i := (s.g o.a).toNat
    if o.c.toNat ≤ i then .done s.next4
    else
      let p := s.g o.b + BitVec.ofNat 64 (4 * i)
      loadFrom s p ⟨0, false, 4, true, 0, false, 0, false, some (s.g o.b)⟩)

/-! ### Releases and stores -/

/-- A release at a scope (R161): it parks until every store up to its mark is visible at the scope. The mark is taken when the
instruction first reaches this point, and kept while it re-executes (log entry 10). The thread's vector instructions complete
first (R231). -/
def releaseAt (s : State) (scope : Nat) (k : State → Eff) : Eff :=
  if vectorBusy s s.cur.1 s.cur.2 then .park s .vectorDrain
  else match s.me.relMark with
  | some m => if visibleAt s scope s.cur.1 m then k s else .park s (.drain scope m)
  | none =>
    if visibleAt s scope s.cur.1 s.serial then k s
    else .park (s.bump.setMe { s.me with relMark := some s.serial }) (.drain scope s.serial)

/-- The scope at which a release point orders a later store (R161): that of a fence for a plain store, else the narrower; that of an
arrival always (R110). -/
def FencePoint.scopeFor (f : FencePoint) (storeScope : Nat) : Nat :=
  if f.whole || decide (storeScope = 0) then f.scope else min f.scope storeScope

/-- A store behind the thread's fences (R161): it parks until the stores before each fence are visible at the scope
(log entry 10); fences whose stores are visible at their own scope hold later stores no more. -/
def behindFences (s : State) (scope : Nat) (k : State → Eff) : Eff :=
  match s.me.fences.find? fun f => !visibleAt s (f.scopeFor scope) s.cur.1 f.mark with
  | some f => .park s (.drain (f.scopeFor scope) f.mark)
  | none =>
    match s.me.fences with
    | [] => k s
    | l => k (s.setMe { s.me with fences := l.filter fun f => !visibleAt s f.scope s.cur.1 f.mark })

/-- The parts of a live frame that no thread may store into (R310). -/
def Frame.guards (f : Frame) (off n : Nat) : Bool :=
  f.prot.any fun p => decide (f.off + p.1 < off + n) && decide (off < f.off + p.1 + p.2)

/-- A store to a scratchpad range of a core is refused as protected (R310). -/
def protectedAt (c : Core) (off n : Nat) : Bool := c.frames.any fun f => !f.spilled && f.guards off n

/-- A store of n bytes at a place is refused as protected (R310). -/
def protectedPlace (s : State) (pa n : Nat) : Bool :=
  match placeOf s pa with
  | .spad g off => protectedAt (s.core g) off n
  | _ => false

/-- A store to the executing core's own scratchpad word (R132): SD and SQ through the local alias carry tags. -/
def storeOwn (s : State) (w : Where) (off : Nat) (bs : List Byte) (t0 t1 : Bool) : State :=
  let g := s.cur.1
  let s1 := writeSpad s g off bs
  if w.own && decide (8 ≤ bs.length) then
    let s2 := if t0 then setTag s1 g off true else s1
    if t1 then setTag s2 g (off + 8) true else s2
  else s1

/-- A store on its way to another core's scratchpad or to a device register (R129, R391). -/
def sendStore (s : State) (pa : Nat) (bs : List Byte) : State := sendRemote s pa bs.length (some bs) none

/-- A store at a place, its ordering settled (R148). -/
def storePlace (s : State) (w : Where) (scope : Nat) (bs : List Byte) (t0 t1 : Bool) : Eff :=
  match placeOf s w.pa with
  | .spad g off =>
    if g = s.cur.1 then .done (storeOwn s w off bs t0 t1).next4
    else .done (sendStore s w.pa bs).next4
  | .device => .done (sendStore s w.pa bs).next4
  | _ =>
    match buffer s s.cur.1 s.cur.2 w scope bs with
    | some s' => .done s'.next4
    | none => .park s (.bankFull (bankOf (homeSlice s w.vault w.pa % 256)))

/-- A place is in some core's scratchpad. -/
def Place.isSpad : Place → Bool
  | .spad _ _ => true
  | _ => false

/-- A store of bytes to a virtual address (R148). -/
def storeTo (s : State) (va : Word) (scope : Nat) (rel : Bool) (bs : List Byte) (t0 t1 : Bool) : Eff :=
  if va.toNat % bs.length ≠ 0 then .trap causeMISALIGN va
  else
    withPlace s va .store bs.length causeSTOREF fun w =>
      let pl := placeOf s w.pa
      if protectedPlace s w.pa bs.length then .trap causeSTOREF va
      else if (t0 || t1) && !w.own then .trap causeTAGSTORE va
      else if pl.isSpad && vectorBusy s s.cur.1 s.cur.2 then .park s .vectorDrain
      else if lineBusy s s.cur.1 s.cur.2 (lineOf w.pa) then .park s (.lineDrain (lineOf w.pa))
      else if 1 ≤ scope ∧ scopedPending s s.cur.1 s.cur.2 = true then .park s .scopedOrder
      else
        behindFences s scope fun s =>
          if rel then releaseAt s scope fun s => storePlace s w scope bs t0 t1
          else storePlace s w scope bs t0 t1

/-- The store instructions of one register (R147, R148). -/
def storeInstr (o : St) (size : Nat) (s : State) : Host.Outcome State Fault Refusal :=
  finish s (gate s o.use fun s =>
    storeTo s (addrM (s.g o.a) o.i size) (s.sc o.s) o.o (leBytes size (s.g o.d).toNat) (s.gtag o.d) false)

/-- SB (R148): Stores a byte. -/
def execSb (o : St) (s : State) : Host.Outcome State Fault Refusal := storeInstr o 1 s
/-- SH (R148): Stores a half-word. -/
def execSh (o : St) (s : State) : Host.Outcome State Fault Refusal := storeInstr o 2 s
/-- SW (R148): Stores a word. -/
def execSw (o : St) (s : State) : Host.Outcome State Fault Refusal := storeInstr o 4 s
/-- SD (R148): Stores 8 bytes, with the tag into the own scratchpad. -/
def execSd (o : St) (s : State) : Host.Outcome State Fault Refusal := storeInstr o 8 s
/-- SQ (R148): Stores a register pair. -/
def execSq (o : St) (s : State) : Host.Outcome State Fault Refusal :=
  finish s (gate s o.usePair fun s =>
    storeTo s (addrM (s.g o.a) o.i 16) (s.sc o.s) o.o
      (leBytes 8 (s.g o.d).toNat ++ leBytes 8 (s.g (pairOf o.d)).toNat) (s.gtag o.d) (s.gtag (pairOf o.d)))

end Sys2Proof.Machine
end

