-- ==== Sys2Proof/Machine/MemEvents.lean ====
section
/-! DEFINITION. The events of the memory path: fetch, fills, drains, walks, prefetches and escalations (R20, R65,
R134, R135, R141 to R145, R148, R151, R406). -/

namespace Sys2Proof.Machine

/-- End a context's park. -/
def unpark (s : State) (g k : Nat) : State := s.setCtx g k { s.ctx g k with park := none }

/-- The word of four bytes (R20). -/
def fetchWord (s : State) (g k : Nat) (useL1 : Bool) (pa : Nat) : BitVec 32 :=
  match seenBytes s g (gctx g k) useL1 pa 4 with
  | [b0, b1, b2, b3] => wordOfBytes b0 b1 b2 b3
  | _ => 0

/-- A core has read a line through its tower's slice: the tag is used (R136), and a request that the read waited for in the weir
is done (R356). -/
def readDone (s : State) (g l : Nat) : State := accessDone (touchTag s (sliceTower s g) l) (sliceTower s g) l false

/-- The word at a place is at hand in the core's write buffer or L1 (R20). -/
def atHand (s : State) (g k : Nat) (pa : Nat) : Bool :=
  (flook (s.core g).l1 (lineOf pa)).isSome ||
  ([0, 1, 2, 3].all fun i => (newest (s.core g).wbuf (pa + i) (forwards (gctx g k))).isSome)

/-- FETCH_WORD_ARRIVAL (R20): the word reaches a thread parked in its fetch. -/
def execFetchWordArrival (core ctx : Nat) (s : State) : Host.Outcome State Fault Refusal :=
  if alive s core ctx = true ∧ (s.ctx core ctx).park = some .fetch then
    let c := s.ctx core ctx
    match translate s ⟨core, c.mode, (coreBasin s core).getD 64⟩ c.pc .fetch 4 with
    | .ok w =>
      if canRead s core (lineOf w.pa) = true ∧ overlaps s core (gctx core ctx) w.pa 4 = false then
        let s1 := fillL1 (readDone s core (lineOf w.pa)) core (gctx core ctx) w.pa
        event (s1.setCtx core ctx { s1.ctx core ctx with
          park := none, fetched := some (c.pc, fetchWord s core ctx false w.pa) })
      else event (askRead s core w)
    | _ => event (unpark s core ctx)
  else event s

/-- A long-latency result lands (R65): the register is full, and the flags are in FPCTL. -/
def Ctx.land (c : Ctx) (f : Fill) : Ctx :=
  { (c.fillReg f.shadow (BitVec.ofNat 6 f.reg) (GReg.of f.val false)) with fpctl := fpctlOr c.fpctl f.flags }

/-- LOAD_DATA_ARRIVAL from DRAM-backed memory (R148, R158, R159): the load takes its value from L1, where its scope
allows and the line is held, or from the tower's slice, which fills L1 or replaces its copy. -/
def arriveDram (s : State) (g k : Nat) (op : LoadOp) (fromL1 : Bool) : State :=
  let held := (flook (s.core g).l1 (lineOf op.addr)).isSome
  if overlaps s g (gctx g k) op.addr op.size then s
  else if fromL1 && (decide (2 ≤ op.scope) || !held) then s
  else if !fromL1 && !canRead s g (lineOf op.addr) then askRead s g ⟨op.addr, op.vault, false⟩
  else
    asCtx s g k fun s =>
      let bs := seenBytes s g (gctx g k) fromL1 op.addr op.size
      let s0 := if fromL1 then s else readDone s g (lineOf op.addr)
      let s1 := if !fromL1 && (decide (op.scope ≤ 1) || held) then fillL1 s0 g (gctx g k) op.addr else s0
      effState s1 (completeLoad s1 op bs false false)

/-- The entries of a tower's outbound buffer (R135): stores to lines homed on other towers. -/
def outbound (w : Tower) (t : Nat) : List WEntry := w.outbound.filter fun e => decide (e.home / 256 ≠ t)

/-- The outbound buffer of a tower is full (R135). -/
def outFull (s : State) (t : Nat) : Bool := decide (1024 ≤ (outbound (s.tower t) t).length)

/-- The entry of a bank that drains next to tower t: the oldest, but that a full outbound buffer holds back those to other
towers only (R134, R135). -/
def popBank (s : State) (c : Core) (t bank : Nat) : Option (WEntry × Core) :=
  match c.wbuf.find? fun e => decide (bankOf e.slice = bank) && (decide (e.home / 256 = t) || !outFull s t) with
  | none => none
  | some e => some (e, { c with wbuf := c.wbuf.erase e })

/-- The outbound queue of a tower for a destination (R135); for the tower itself, the stores that its own slices have
accepted and that wait there for tokens (R353). -/
def outQueue (w : Tower) (dest : Nat) : List WEntry := w.outbound.filter fun e => decide (e.home / 256 = dest)

/-- WRITE_BUFFER_DRAIN (R134, R135): an entry of a bank reaches the slice of the core's tower: applied there when that is
the home, holds all eight tokens and keeps no earlier store to the line; otherwise it waits there for the tokens, or goes to the
outbound buffer. -/
def execWriteBufferDrain (core bank : Nat) (s : State) : Host.Outcome State Fault Refusal :=
  let t := sliceTower s core
  match popBank s (s.core core) t bank with
  | none => event s
  | some (e, c) =>
    let s1 := s.setCore core c
    let first := decide (e.home / 256 = t) && !((outQueue (s.tower t) t).any fun x => decide (x.line = e.line))
    match (if first then homeWrite s1 e.line e.home (basinMask s e.basin) else none) with
    | some s2 => event (performEntry s2 e.line e.bytes)
    | none => event (s1.bump.setTower t { s1.tower t with outbound := (s1.tower t).outbound ++ [{ e with sent := s1.serial }] })

/-- The atomic waits for the one it has been combined into (R167). -/
def AtomOp.joined (s : State) (a : AtomOp) : Bool :=
  a.via.any fun p => s.atoms.any fun b => decide (b.id = p.1) && b.reply.isNone

/-- The stamps of the atomics and replies that tower a has issued to tower b and that are still to be applied. -/
def atomStamps (s : State) (a b : Nat) : List Nat :=
  (s.atoms.filter fun x => x.reply.isNone && !x.joined s && decide (placeOf s x.addr = .dram) &&
    decide (x.tower = a) && decide (homeSlice s x.vault x.addr / 256 = b)).map (fun x => x.id) ++
  (s.atoms.filter fun x => x.reply.isSome && decide (placeOf s x.addr = .dram) &&
    decide (homeSlice s x.vault x.addr / 256 = a) && decide (x.tower = b)).map fun x => x.stamp

/-- The stamps of the messages of class WR that tower a has issued to tower b and that are still to be applied (R350): stores of
its outbound buffer, atomics and replies. -/
def wrPending (s : State) (a b : Nat) : List Nat := (outQueue (s.tower a) b).map (fun e => e.sent) ++ atomStamps s a b

/-- A message of class WR with a stamp is the next that its receiver applies (R350); within a tower no link orders it. -/
def wrNext (s : State) (a b stamp : Nat) : Bool := decide (a = b) || (wrPending s a b).all fun n => decide (stamp ≤ n)

/-- The store of a queue that is delivered next: between towers the first (R135), on the tower itself the first of a line that
may be written, or else the first. -/
def nextStore (s : State) (tower dest : Nat) : Option WEntry :=
  let q := outQueue (s.tower tower) dest
  if tower = dest then
    (q.find? fun e => (homeHolds s e.line e.home (basinMask s e.basin)).isSome &&
      (match q.find? fun x => decide (x.line = e.line) with
       | some x => decide (x = e)
       | none => false)).or ((q.find? fun e => (flook (s.line e.line).reqs dest).isNone).or q.head?)
  else q.head?

/-- The context number that the buffered bytes of a client's message n bear (R372): no core has it. -/
def portCtx (n : Nat) : Nat := 2 ^ 21 * (n + 1) + 16 * 0xFFFF

/-- A queued unit of a client's message precedes another one of the message (R372). -/
def WEntry.unitBefore (x e : WEntry) : Bool :=
  x.bytes.any fun y => decide (2 ^ 21 ≤ y.gctx) && e.bytes.any fun b => decide (b.gctx = y.gctx) && decide (y.stamp < b.stamp)

/-- OUTBOUND_DELIVERY (R135, R158): a store queued for a destination tower is performed at its home slice, which asks for the
line's tokens until it holds all eight (R353). The units of a client's message are performed in order (R372). -/
def execOutboundDelivery (tower dest : Nat) (s : State) : Host.Outcome State Fault Refusal :=
  match nextStore s tower dest with
  | none => event s
  | some e =>
    if heldBack s tower dest e.sent || !wrNext s tower dest e.sent || (s.tower tower).outbound.any (·.unitBefore e) then event s
    else
    match homeWrite s e.line e.home (basinMask s e.basin) with
    | some s0 =>
      let s1 := if tower = dest then s0 else keepReplay s0 dest (.store tower e)
      event (performEntry (s1.setTower tower { s1.tower tower with outbound := (s1.tower tower).outbound.erase e })
        e.line e.bytes)
    | none => event (askTokens s dest e.line e.home true e.basin)

/-- A translation enters the core's TLB and its tower's cache (R144); the oldest makes room. -/
def learn (s : State) (g : Nat) (x : Xlat) : State :=
  let c := s.core g
  let s1 := s.setCore g { c with tlb := (c.tlb ++ [x]).drop ((c.tlb.length + 1) - 64) }
  let t := sliceTower s g
  let w := s1.tower t
  if w.tcache.contains x then s1
  else s1.setTower t { w with tcache := (w.tcache ++ [x]).drop ((w.tcache.length + 1) - 16384) }

/-- PAGE_WALK (R141 to R145): a parked thread's translation is found in the tower's cache or by a walk, and fills the
TLB; a translation fault or a permission failure is its page fault. A walk that finds MK = 1 waits (R143). -/
def execPageWalk (core ctx : Nat) (s : State) : Host.Outcome State Fault Refusal :=
  match alive s core ctx, (s.ctx core ctx).park with
  | true, some (.walk va acc cause) =>
    let md := (s.ctx core ctx).mode
    let b := (coreBasin s core).getD 64
    let take (s : State) (x : Xlat) : State :=
      if x.permits md acc then unpark (learn s core x) core ctx
      else takePageFault (learn s core x) core ctx cause va
    match (s.tower (sliceTower s core)).tcache.find? fun x => x.covers b va.toNat with
    | some x => event (take s x)
    | none =>
      let s1 := walked s core b va.toNat
      match walk s core b va.toNat with
      | .fault => event (takePageFault s1 core ctx cause va)
      | .leaf x entry zt mk =>
        if mk then event s1
        else event (take (if zt then touchZero s1 x entry else s1) x)
  | _, _ => event s

/-- PREFETCH_PROGRESS (R151): the oldest prefetch range asks for its next line; an unmapped or unreadable page is
skipped without a fault. -/
def execPrefetchProgress (core : Nat) (s : State) : Host.Outcome State Fault Refusal :=
  match (s.core core).prefetch with
  | [] => event s
  | p :: r =>
    let rest := if p.left ≤ 1 then r else { p with va := p.va + 128, left := p.left - 1 } :: r
    let s1 := s.setCore core { s.core core with prefetch := rest }
    match translateNow s1 ⟨core, p.mode, p.basin⟩ p.va .load 8 with
    | (.ok w, s2) => if placeOf s2 w.pa = .dram then event (askRead s2 core w) else event s2
    | (.miss, _) => event s
    | (_, s2) => event s2

/-- An entry has a byte stamped up to a mark. -/
def WEntry.upTo (e : WEntry) (mark : Nat) : Bool := e.bytes.any fun b => decide (b.stamp ≤ mark)

/-- The entries of a list up to the last one with a byte stamped up to a mark. -/
def prefixUpTo (mark : Nat) (l : List WEntry) : List WEntry := (l.reverse.dropWhile fun e => !e.upTo mark).reverse

/-- The entries of core g's banks that leave before or with a store up to a mark, oldest first: a bank drains in order (R134). -/
def bufferUpTo (c : Core) (mark : Nat) : List WEntry :=
  c.wbuf.filter fun e => (prefixUpTo mark (bankEntries c (bankOf e.slice))).contains e

/-- The entries of a tower's outbound buffer that are delivered before or with a store up to a mark: each queue is delivered in
order (R135). -/
def queuesUpTo (w : Tower) (mark : Nat) : List WEntry :=
  w.outbound.filter fun e => (prefixUpTo mark (outQueue w (e.home / 256))).contains e

/-- Deliver entries of a tower's outbound buffer at their homes, oldest first, their tokens gathered at once (log entry 13); a
guarded destination's log keeps them (R362). -/
def deliverAll (s : State) (t : Nat) : List WEntry → State
  | [] => s
  | e :: r =>
    let s1 := if t = e.home / 256 then s else keepReplay s (e.home / 256) (.store t e)
    let s2 := gatherFor s1 e.line e.home (basinMask s e.basin)
    deliverAll (performEntry (s2.setTower t { s2.tower t with outbound := (s2.tower t).outbound.erase e }) e.line e.bytes) t r

/-- A core's write buffer passes entries to its tower's outbound buffer, in order. -/
def passAll (s : State) (g : Nat) : List WEntry → State
  | [] => s
  | e :: r =>
    let t := sliceTower s g
    let s1 := s.setCore g { s.core g with wbuf := (s.core g).wbuf.erase e }
    passAll (s1.bump.setTower t { s1.tower t with outbound := (s1.tower t).outbound ++ [{ e with sent := s1.serial }] }) g r

/-- ESCALATION_DRAIN_REQUEST (R406): the releasing core's write buffer and its tower's outbound buffer drain up to the release
mark. Every store takes its place in its queue, and the queues are delivered in order (R134, R135). The drain waits while
guarded mode holds such a store back (R362), an earlier message of its link has still to be applied (R350), or an earlier unit
of a client's message is not in it. -/
def execEscalationDrainRequest (n : Nat) (s : State) : Host.Outcome State Fault Refusal :=
  match s.escs[n]? with
  | none => event s
  | some e =>
    let t := sliceTower s e.rel
    let s1 := passAll s e.rel (bufferUpTo (s.core e.rel) e.mark)
    let l := queuesUpTo (s1.tower t) e.mark
    let stuck (x : WEntry) : Bool :=
      let d := x.home / 256
      heldBack s1 t d x.sent || (decide (t ≠ d) && (atomStamps s1 t d).any fun m => decide (m < x.sent)) ||
        (s1.tower t).outbound.any fun y => y.unitBefore x && !l.contains y
    if l.any stuck then event s
    else
      let s2 := deliverAll s1 t l
      event { s2 with escs := s2.escs.set n { e with drained := true } }

/-- ESCALATION_ANSWER (R406): once every store the release covers is visible at the scope that encloses the two cores,
the acquire completes. -/
def execEscalationAnswer (n : Nat) (s : State) : Host.Outcome State Fault Refusal :=
  match s.escs[n]? with
  | none => event s
  | some e =>
    if e.drained = true ∧ visibleAt s (scopeOf e.rel e.core) e.rel e.mark = true then
      let s1 := { s with escs := s.escs.eraseIdx n }
      if (s1.ctx e.core e.ctx).park = some (.escalation e.id) then event (unpark s1 e.core e.ctx) else event s1
    else event s

end Sys2Proof.Machine
end

