-- ==== Sys2Proof/Machine/Atomics.lean ====
section
/-! DEFINITION. Atomics and fences (R160, R161, R166, R167, R170 to R172 of spec/11_ordering_rules.md). -/

namespace Sys2Proof.Machine

/-- The atomic operations by aop (R171): the new value from the old value v and the operands b and c, on n bits. -/
def atomNew (n aop : Nat) (v b c : BitVec n) : BitVec n :=
  match aop with
  | 0 => b
  | 1 => v + b
  | 2 => v &&& b
  | 3 => v ||| b
  | 4 => v ^^^ b
  | 5 => if v.toInt ≤ b.toInt then v else b
  | 6 => if b.toInt ≤ v.toInt then v else b
  | 7 => if v.toNat ≤ b.toNat then v else b
  | 8 => if b.toNat ≤ v.toNat then v else b
  | 9 => if v = c then b else v
  | 10 => if v.toNat + b.toNat ≤ c.toNat then v + b else v
  | _ => BitVec.ofNat n (addV fp32 .rne (decodeF fp32 v.toNat) (decodeF fp32 b.toNat)).1

/-- The value an atomic returns (R172): zero-extended for FADD, sign-extended for the other AMOW, whole for AMOD. -/
def atomReply (wide : Bool) (aop : Nat) (v : Word) : Word :=
  if wide then v else if aop = 11 then (v.setWidth 32).zeroExtend 64 else sextW v

/-- The w bytes an atomic writes over the old value. -/
def atomBytes (a : AtomOp) (old : Word) : List Byte :=
  if a.wide then leBytes 8 (atomNew 64 a.aop old a.b a.c).toNat
  else leBytes 4 (atomNew 32 a.aop (old.setWidth 32) (a.b.setWidth 32) (a.c.setWidth 32)).toNat

/-- The width of an atomic in bytes (R172). -/
def AtomOp.size (a : AtomOp) : Nat := if a.wide then 8 else 4

/-- The old value an atomic finds. -/
def AtomOp.old (s : State) (a : AtomOp) : Word := leWord (readBytes s.mem a.addr a.size)

/-- The L1 of the core that issued an atomic drops its line (R159, R157). -/
def dropOwn (s : State) (a : AtomOp) : State := if a.core < frameKey then dropLine s a.core (lineOf a.addr) else s

/-- The unit applies an atomic (R166): its bytes are written, a scratchpad word's tag becomes 0, and the issuing core's L1 drops
the line (R159). A word that a PUT wrote stays one whose taker acquires that PUT (R162: the atomic follows it in coherence
order). -/
def applyAtom (s : State) (a : AtomOp) : State :=
  match placeOf s a.addr with
  | .spad g off =>
    let s1 := writeSpad s g off (atomBytes a (a.old s))
    s1.setCore g { s1.core g with spRel := (s.core g).spRel }
  | _ => writeLine (dropOwn s a) a.addr (atomBytes a (a.old s))

/-- An atomic whose operation has been applied leaves the list when it is posted, and otherwise holds its reply, stamped
as a message of its home (R362). -/
def replied (s : State) (n : Nat) (a : AtomOp) (v : Word) : State :=
  if a.rd = 0 then { s with atoms := s.atoms.eraseIdx n }
  else { s.bump with atoms := s.atoms.set n { a with reply := some v, stamp := s.serial } }

/-- The executing core's write buffer holds bytes of a line (R166). -/
def lineBuffered (s : State) (g l : Nat) : Bool := (s.core g).wbuf.any fun e => decide (e.line = l)

/-- An atomic sets out (R166, R172): rd is left pending; with ord and a register the thread parks until the reply. The
unit of the core's own scratchpad applies it at once. -/
def sendAtom (s : State) (w : Where) (wide : Bool) (aop : Nat) (b c : Word) (rd : RegNo) (scope : Nat) (ord : Bool) : Eff :=
  let g := s.cur.1
  let k := s.cur.2
  let id := s.serial
  let a : AtomOp := ⟨id, g, k, (coreBasin s g).getD 64, sliceTower s g, inShadow s.me.ih rd, w.pa, w.vault, wide, aop, b, c, rd, scope, ord, none, id, none⟩
  let s1 := s.setCore g { s.core g with l1 := fdel (s.core g).l1 (lineOf w.pa) }
  let s2 := { s1.bump with atoms := s1.atoms ++ [a] }
  let own := match placeOf s w.pa with
    | .spad h _ => decide (h = g)
    | _ => false
  let s3 := if own then replied (applyAtom s2 a) s1.atoms.length a (atomReply wide aop (a.old s)) else s2
  let s4 := (s3.putPending rd).next4
  if ord = true ∧ rd ≠ 0 then .done (s4.parkMe (.atomic id)) else .done s4

/-- The checks and the sending of an atomic (R172). -/
def atomEff (s : State) (o : Am) (wide : Bool) (aop : Nat) : Eff :=
  let va := s.g o.a
  let size := if wide then 8 else 4
  if va.toNat % size ≠ 0 then .trap causeMISALIGN va
  else
    withPlace s va .atomic size causeSTOREF fun w =>
      let pl := placeOf s w.pa
      let c := if aop = 9 ∨ aop = 10 then s.g o.d else 0
      if protectedPlace s w.pa size then .trap causeSTOREF va
      else if s.gtag o.b && !pl.isSpad then .trap causeTAGSTORE va
      else if pl.isSpad && vectorBusy s s.cur.1 s.cur.2 then .park s .vectorDrain
      else if lineBuffered s s.cur.1 (lineOf w.pa) then .park s (.lineDrain (lineOf w.pa))
      else if 1 ≤ s.sc o.s ∧ scopedPending s s.cur.1 s.cur.2 = true then .park s .scopedOrder
      else
        behindFences s (s.sc o.s) fun s =>
          if o.o then releaseAt s (s.sc o.s) fun s => sendAtom s w wide aop (s.g o.b) c o.d (s.sc o.s) true
          else sendAtom s w wide aop (s.g o.b) c o.d (s.sc o.s) false

/-- The atomic instructions (R171, R172); CAS and ADDBND read rd. -/
def atomInstr (o : Am) (wide : Bool) (aop : Nat) (s : State) : Host.Outcome State Fault Refusal :=
  finish s (gate s (if aop = 9 ∨ aop = 10 then o.useRd else o.use) fun s => atomEff s o wide aop)

/-- AMOW_SWAP (R172): Atomically swaps a 4-byte word. -/
def execAmowSwap (o : Am) (s : State) : Host.Outcome State Fault Refusal := atomInstr o false 0 s
/-- AMOW_ADD (R172): Atomically adds to a 4-byte word. -/
def execAmowAdd (o : Am) (s : State) : Host.Outcome State Fault Refusal := atomInstr o false 1 s
/-- AMOW_AND (R172): Atomically ands a 4-byte word. -/
def execAmowAnd (o : Am) (s : State) : Host.Outcome State Fault Refusal := atomInstr o false 2 s
/-- AMOW_OR (R172): Atomically ors a 4-byte word. -/
def execAmowOr (o : Am) (s : State) : Host.Outcome State Fault Refusal := atomInstr o false 3 s
/-- AMOW_XOR (R172): Atomically exclusive-ors a 4-byte word. -/
def execAmowXor (o : Am) (s : State) : Host.Outcome State Fault Refusal := atomInstr o false 4 s
/-- AMOW_MIN (R172): Atomically keeps the signed minimum of a 4-byte word. -/
def execAmowMin (o : Am) (s : State) : Host.Outcome State Fault Refusal := atomInstr o false 5 s
/-- AMOW_MAX (R172): Atomically keeps the signed maximum of a 4-byte word. -/
def execAmowMax (o : Am) (s : State) : Host.Outcome State Fault Refusal := atomInstr o false 6 s
/-- AMOW_MINU (R172): Atomically keeps the unsigned minimum of a 4-byte word. -/
def execAmowMinu (o : Am) (s : State) : Host.Outcome State Fault Refusal := atomInstr o false 7 s
/-- AMOW_MAXU (R172): Atomically keeps the unsigned maximum of a 4-byte word. -/
def execAmowMaxu (o : Am) (s : State) : Host.Outcome State Fault Refusal := atomInstr o false 8 s
/-- AMOW_CAS (R172): Atomically compares a 4-byte word with rd and swaps on match. -/
def execAmowCas (o : Am) (s : State) : Host.Outcome State Fault Refusal := atomInstr o false 9 s
/-- AMOW_ADDBND (R172): Atomically adds to a 4-byte word only within the bound in rd. -/
def execAmowAddbnd (o : Am) (s : State) : Host.Outcome State Fault Refusal := atomInstr o false 10 s
/-- AMOW_FADD (R172): Atomically adds an fp32 value with RNE to a 4-byte word. -/
def execAmowFadd (o : Am) (s : State) : Host.Outcome State Fault Refusal := atomInstr o false 11 s
/-- AMOD_SWAP (R172): Atomically swaps an 8-byte word. -/
def execAmodSwap (o : Am) (s : State) : Host.Outcome State Fault Refusal := atomInstr o true 0 s
/-- AMOD_ADD (R172): Atomically adds to an 8-byte word. -/
def execAmodAdd (o : Am) (s : State) : Host.Outcome State Fault Refusal := atomInstr o true 1 s
/-- AMOD_AND (R172): Atomically ands an 8-byte word. -/
def execAmodAnd (o : Am) (s : State) : Host.Outcome State Fault Refusal := atomInstr o true 2 s
/-- AMOD_OR (R172): Atomically ors an 8-byte word. -/
def execAmodOr (o : Am) (s : State) : Host.Outcome State Fault Refusal := atomInstr o true 3 s
/-- AMOD_XOR (R172): Atomically exclusive-ors an 8-byte word. -/
def execAmodXor (o : Am) (s : State) : Host.Outcome State Fault Refusal := atomInstr o true 4 s
/-- AMOD_MIN (R172): Atomically keeps the signed minimum of an 8-byte word. -/
def execAmodMin (o : Am) (s : State) : Host.Outcome State Fault Refusal := atomInstr o true 5 s
/-- AMOD_MAX (R172): Atomically keeps the signed maximum of an 8-byte word. -/
def execAmodMax (o : Am) (s : State) : Host.Outcome State Fault Refusal := atomInstr o true 6 s
/-- AMOD_MINU (R172): Atomically keeps the unsigned minimum of an 8-byte word. -/
def execAmodMinu (o : Am) (s : State) : Host.Outcome State Fault Refusal := atomInstr o true 7 s
/-- AMOD_MAXU (R172): Atomically keeps the unsigned maximum of an 8-byte word. -/
def execAmodMaxu (o : Am) (s : State) : Host.Outcome State Fault Refusal := atomInstr o true 8 s
/-- AMOD_CAS (R172): Atomically compares an 8-byte word with rd and swaps on match. -/
def execAmodCas (o : Am) (s : State) : Host.Outcome State Fault Refusal := atomInstr o true 9 s
/-- AMOD_ADDBND (R172): Atomically adds to an 8-byte word only within the bound in rd. -/
def execAmodAddbnd (o : Am) (s : State) : Host.Outcome State Fault Refusal := atomInstr o true 10 s

/-- The tower whose unit applies an atomic (R166): the home slice's, or the owner core's; 8 for an atelier core. -/
def atomTower (s : State) (a : AtomOp) : Nat :=
  match placeOf s a.addr with
  | .spad g _ => if isAtelier g then 8 else towerOf g
  | _ => homeSlice s a.vault a.addr / 256

/-- A message of an atomic waits in the hold queue of the tower that issued it (R362); atelier cores hold nothing back. -/
def AtomOp.held (s : State) (a : AtomOp) (d : Nat) : Bool :=
  if 2048 ≤ a.core ∧ a.core < frameKey then false else heldBack s a.tower d a.id

/-- The n-th atomic may not reach its unit yet: it has been applied or combined, or an earlier atomic or store of its thread
on the word is under way (R157), or its tower holds it back (R362). Between towers it keeps its place on
its link (R350). The atomic `after` precedes it in one request. -/
def atomWaits (s : State) (n : Nat) (a : AtomOp) (after : Option Nat) : Bool :=
  let earlier := (s.atoms.take n).any fun e =>
    decide (e.core = a.core) && decide (e.ctx = a.ctx) && decide (lineOf e.addr = lineOf a.addr) && e.reply.isNone &&
      decide (some e.id ≠ after)
  let queued := (s.tower a.tower).outbound.any fun e => decide (e.line = lineOf a.addr) && decide (e.sent ≤ a.stamp)
  let linked := match placeOf s a.addr with
    | .dram => wrNext s a.tower (homeSlice s a.vault a.addr / 256) a.id || after.isSome
    | _ => true
  let remoteFirst := s.remotes.any fun r =>
    decide (r.core = a.core) && r.store.isSome && decide (lineOf r.addr = lineOf a.addr) && decide (r.stamp < a.stamp)
  a.reply.isSome || a.joined s || earlier || queued || !linked || remoteFirst || a.held s (atomTower s a)

/-- The new value of an atomic's word from its old value, as a word. -/
def atomValue (wide : Bool) (aop : Nat) (v b : Word) : Word :=
  if wide then atomNew 64 aop v b 0 else (atomNew 32 aop (v.setWidth 32) (b.setWidth 32) 0).setWidth 64

/-- A switch combines the atomic j into the atomic i (R167): requests of one tower to the same address, of the same width and
operation, among those that combine; j follows i in the combined request. -/
def combineAtoms (s : State) (i j : Nat) : State :=
  match s.atoms[i]?, s.atoms[j]? with
  | some a, some b =>
    if i ≠ j ∧ a.addr = b.addr ∧ a.wide = b.wide ∧ a.aop = b.aop ∧ ((1 ≤ a.aop ∧ a.aop ≤ 8) ∨ a.aop = 11) ∧
        a.tower = b.tower ∧ atomWaits s i a none = false ∧ atomWaits s j b (some a.id) = false then
      { s with atoms := (s.atoms.set i { a with b := atomValue a.wide a.aop a.b b.b }).set j { b with via := some (a.id, a.b) } }
    else s
  | _, _ => s

/-- The reply to one atomic of a combined request, whose word it found at v (R167); its core's L1 drops the line, as for the
atomic that is applied (R159). -/
def splitOne (s : State) (a : AtomOp) (v : Word) : State :=
  match s.atoms.findIdx? fun b => decide (b.id = a.id) with
  | some n => replied (dropOwn s a) n a (atomReply a.wide a.aop v)
  | none => s

/-- The replies to what has been combined into an atomic that found v (R167), to a nesting of depth k. -/
def splitReplies : Nat → Nat → Word → State → State
  | 0, _, _, s => s
  | k + 1, id, v, s =>
    s.atoms.foldl (fun q b =>
      match b.via with
      | some (i, p) =>
        if i = id ∧ b.reply = none then
          let u := atomValue b.wide b.aop v p
          splitReplies k b.id u (splitOne q b u)
        else q
      | none => q) s

/-- ATOMIC_AT_HOME (R166, R167): the unit of the home slice, or of the owner core, applies an atomic indivisibly, and the
reply of a combined request is split. It follows the issuing thread's earlier atomics and stores on the word (R157); the
home slice first gathers the line's tokens (R353). -/
def execAtomicAtHome (n : Nat) (s : State) : Host.Outcome State Fault Refusal :=
  match s.atoms[n]? with
  | none => event s
  | some a =>
    if atomWaits s n a none then event s
    else
      let v := a.old s
      let all := s.atoms.length
      let ends := fun q : State => splitReplies all a.id v (replied (applyAtom q a) n a (atomReply a.wide a.aop v))
      if placeOf s a.addr = .dram then
        let home := homeSlice s a.vault a.addr
        match homeWrite s (lineOf a.addr) home (basinMask s a.basin) with
        | none => event (askTokens s (home / 256) (lineOf a.addr) home true a.basin)
        | some s1 =>
          event (ends (if a.rd = 0 ∧ a.tower ≠ home / 256 then keepReplay s1 (home / 256) (.reply a) else s1))
      else event (ends s)

/-- ATOMIC_REPLY_FILL (R172, R160, R161): a reply fills its pending register; an atomic with ord acquires and lets its
thread go on. -/
def execAtomicReplyFill (n : Nat) (s : State) : Host.Outcome State Fault Refusal :=
  match s.atoms[n]? with
  | none => event s
  | some a =>
    match a.reply with
    | none => event s
    | some v =>
      let t := if isAtelier a.core then 8 else a.core / 256
      if heldBack s (atomTower s a) t a.stamp || !(decide (placeOf s a.addr ≠ .dram) || wrNext s (atomTower s a) a.tower a.stamp) then event s
      else
      let s := if atomTower s a = t then s else keepReplay s t (.reply a)
      let s1 := deliver { s with atoms := s.atoms.eraseIdx n } a.core a.ctx a.shadow a.rd (GReg.of v false)
      if a.ord = true ∧ a.core < frameKey then
        let s2 := if 2 ≤ a.scope then flashL1 s1 a.core else s1
        if (s2.ctx a.core a.ctx).park = some (.atomic a.id) then event (unpark s2 a.core a.ctx) else event s2
      else event s1

/-! ### FENCE (R170) -/

/-- The acquire of FENCE.ACQ at scope F (R161): the thread's most recent load becomes an acquire at F, or at the
narrower of F and its own scope when it was scoped; an acquire wider than core flash-invalidates L1. -/
def fenceAcq (s : State) (f : Nat) : State :=
  match s.me.lastLoad with
  | none => s
  | some sc => if 2 ≤ (if sc = 0 then f else min f sc) then flashL1 s s.cur.1 else s

/-- The release point of FENCE.REL at scope F (R161). -/
def fenceRel (s : State) (f : Nat) : State :=
  s.bump.setMe { s.me with fences := s.me.fences ++ [⟨f, s.serial, false⟩] }

/-- FENCE_ACQ (R170): Acquire fence for the most recent load. -/
def execFenceAcq (o : Fn) (s : State) : Host.Outcome State Fault Refusal :=
  finish s (gate s ⟨[], [], []⟩ fun s => .done (fenceAcq s (s.sc o.s)).next4)

/-- FENCE_REL (R170): Release point ordering every later store. -/
def execFenceRel (o : Fn) (s : State) : Host.Outcome State Fault Refusal :=
  finish s (gate s ⟨[], [], []⟩ fun s =>
    if vectorBusy s s.cur.1 s.cur.2 then .park s .vectorDrain else .done (fenceRel s (s.sc o.s)).next4)

/-- FENCE_AR (R170): ACQ, then REL. -/
def execFenceAr (o : Fn) (s : State) : Host.Outcome State Fault Refusal :=
  finish s (gate s ⟨[], [], []⟩ fun s =>
    if vectorBusy s s.cur.1 s.cur.2 then .park s .vectorDrain
    else .done (fenceRel (fenceAcq s (s.sc o.s)) (s.sc o.s)).next4)

/-- FENCE_SC (R170): AR, and it parks until every earlier store of the thread is visible at the scope; where the scope is wider
than core, no later load is satisfied from a line that L1 holds from before. -/
def execFenceSc (o : Fn) (s : State) : Host.Outcome State Fault Refusal :=
  finish s (gate s ⟨[], [], []⟩ fun s =>
    releaseAt s (s.sc o.s) fun s =>
      let s1 := if 2 ≤ s.sc o.s then flashL1 s s.cur.1 else s
      .done (fenceRel (fenceAcq s1 (s.sc o.s)) (s.sc o.s)).next4)

end Sys2Proof.Machine
end

