-- ==== Sys2Proof/Machine/Sync.lean ====
section
/-! DEFINITION. The SYNC instructions and their events (R168, R173 to R181 of spec/11_ordering_rules.md). -/

namespace Sys2Proof.Machine

/-! ### Full/empty words (R168) -/

/-- The scratchpad word an address names for TAKE, PUT, TRYTAKE, FEGET and FESET (R173): every other address raises
STOREF, without a walk. -/
def feWord (s : State) (va : Word) : Option (Nat × Nat × Bool) :=
  let r := if s.me.mode = .m then some (translatePhys s s.who va.toNat .store 8)
    else translateFixed s s.who va.toNat .store
  match r with
  | some (.ok w) =>
    match placeOf s w.pa with
    | .spad g off => some (g, off, w.own)
    | _ => none
  | _ => none

/-- The oldest taker of a word, and the list without it (R168). -/
def popTaker (l : List Taker) (off : Nat) : Option (Taker × List Taker) :=
  match l.find? fun t => decide (t.off = off) with
  | none => none
  | some t => some (t, l.erase t)

/-- Hand a value to the oldest taker of a word (R168): the tag stays only when putter and taker both run on the owner
core. -/
def handOff (s : State) (owner off : Nat) (v : Word) (tag : Bool) (putter : Nat) (acq : Option Acq) : Option State :=
  match popTaker (s.core owner).takers off with
  | none => none
  | some (t, rest) =>
    let s1 := s.setCore owner { s.core owner with takers := rest }
    let id := s1.serial
    let tg := tag && decide (putter = owner) && decide (t.core = owner)
    let op : FeOp := ⟨id, t.core, t.ctx, .take, owner, off, 0, false, 0, t.rd, some ⟨v, 0, tg, false, acq⟩, id⟩
    let s2 := { s1.bump with feOps := s1.feOps ++ [op] }
    some (s2.setCtx t.core t.ctx { s2.ctx t.core t.ctx with park := some (.feOp id) })

/-- The outcome of an operation at the owner core's unit: a result for its issuer, completion, or the issuer parks. -/
inductive FeOut where
  | result (s : State) (r : FeRes)
  | complete (s : State)
  | parks (s : State) (p : Park)

/-- The 8 bytes of a scratchpad word. -/
def spWord (s : State) (g off : Nat) : Word := leWord (readSpad s g off 8)

/-- Perform an operation at the owner core's unit (R168, R174 to R177). -/
def performFe (s : State) (op : FeOp) : FeOut :=
  let g := op.owner
  let c := s.core g
  let full := fullAt s g op.off
  let v := spWord s g op.off
  let tg := tagAt s g op.off && decide (op.core = g)
  match op.kind with
  | .take =>
    if full then .result (setFull s g op.off false) ⟨v, 0, tg, false, flook c.spRel op.off⟩
    else if c.takers.length < 32 then
      .parks (s.setCore g { c with takers := c.takers ++ [⟨op.off, op.core, op.ctx, op.rd⟩] }) (.takeDeferred g op.off)
    else .parks s (.takeRetry g op.off)
  | .trytake =>
    if full then .result (setFull s g op.off false) ⟨0, v, false, tg, flook c.spRel op.off⟩
    else .result s ⟨1, 0, false, false, none⟩
  | .feget => .result s ⟨boolWord full, 0, false, false, none⟩
  | .put =>
    match handOff s g op.off op.val op.tag op.core (some ⟨op.core, op.mark, false⟩) with
    | some s' => .complete s'
    | none =>
      if full then .parks s (.putFull (windowOf g + op.off))
      else
        let s1 := setTag (writeSpad s g op.off (leBytes 8 op.val.toNat)) g op.off op.tag
        let s2 := setFull s1 g op.off true
        .complete (s2.setCore g { s2.core g with spRel := fset (s2.core g).spRel op.off ⟨op.core, op.mark, false⟩ })
  | .feset f =>
    if f && full then .complete s
    else if f then
      match handOff s g op.off v (tagAt s g op.off) op.core none with
      | some s' => .complete s'
      | none => .complete (setFull { s with cores := (s.setCore g { c with spRel := fdel c.spRel op.off }).cores } g op.off true)
    else .complete (setFull s g op.off false)

/-- An operation sets out (R168): on the owner core it is performed at issue; its result, if any, is still to fill. -/
def sendFe (s : State) (kind : FeKind) (owner off : Nat) (v : Word) (tag : Bool) (rd : RegNo) : Eff :=
  let op : FeOp := ⟨s.serial, s.cur.1, s.cur.2, kind, owner, off, v, tag, s.serial, rd, none, 0⟩
  if owner = s.cur.1 then
    match performFe s.bump op with
    | .result s' r => .park { s' with feOps := s'.feOps ++ [{ op with res := some r, doneAt := op.id }] } (.feOp op.id)
    | .complete s' => .done s'.next4
    | .parks s' p => .park s' p
  else .park { s.bump with feOps := s.feOps ++ [op] } (.feOp op.id)

/-- The checks of R173 on an address, and what follows with the word. -/
def withFeWord (s : State) (va : Word) (k : Nat → Nat → Bool → Eff) : Eff :=
  if va.toNat % 8 ≠ 0 then .trap causeMISALIGN va
  else
    match feWord s va with
    | none => .trap causeSTOREF va
    | some (g, off, own) => if vectorBusy s s.cur.1 s.cur.2 then .park s .vectorDrain else k g off own

/-- TAKE (R174): Takes a full scratchpad word, leaving it empty, or parks in the deferred list. -/
def execTake (o : R2) (s : State) : Host.Outcome State Fault Refusal :=
  finish s (gate s o.use fun s => withFeWord s (s.g o.a) fun g off _ => sendFe s .take g off 0 false o.d)

/-- PUT (R175): Puts a value into a word or hands it to the oldest taker, as a release. -/
def execPut (o : Rab) (s : State) : Host.Outcome State Fault Refusal :=
  finish s (gate s o.use fun s =>
    withFeWord s (s.g o.a) fun g off own =>
      if protectedAt (s.core g) off 8 then .trap causeSTOREF (s.g o.a)
      else if s.gtag o.b && !own then .trap causeTAGSTORE (s.g o.a)
      else
        behindFences s 0 fun s =>
          releaseAt s (scopeOf s.cur.1 g) fun s => sendFe s .put g off (s.g o.b) (s.gtag o.b) 0)

/-- TRYTAKE (R176): Takes a full word into a pair or reports it empty without parking on the word. -/
def execTrytake (o : R2) (s : State) : Host.Outcome State Fault Refusal :=
  finish s (gate s o.usePair fun s => withFeWord s (s.g o.a) fun g off _ => sendFe s .trytake g off 0 false o.d)

/-- FEGET (R177): Reads a word's full/empty bit. -/
def execFeget (o : R2) (s : State) : Host.Outcome State Fault Refusal :=
  finish s (gate s o.use fun s => withFeWord s (s.g o.a) fun g off _ => sendFe s .feget g off 0 false o.d)

/-- FESET (R177): Sets the full/empty bit of a scratchpad word, acting as a PUT when takers wait. -/
def execFeset (o : Rab) (s : State) : Host.Outcome State Fault Refusal :=
  finish s (gate s o.use fun s =>
    withFeWord s (s.g o.a) fun g off _ => sendFe s (.feset ((s.g o.b).getLsbD 0)) g off 0 false 0)

/-- FESET_REGISTER (R177): Makes a register plain empty. -/
def execFesetRegister (o : Rd) (s : State) : Host.Outcome State Fault Refusal :=
  finish s (gate s o.use fun s =>
    .done (s.setMe (s.me.setReg o.d { s.me.reg o.d with st := .empty })).next4)

/-- The thread of an operation completes its instruction. -/
def completeAt (s : State) (g k : Nat) : State := asCtx s g k fun s => s.next4

/-- FE_OP_AT_OWNER (R168): a full/empty operation of another core reaches the owner core's unit, after its thread's earlier
stores and atomics on the word (R157). -/
def execFeOpAtOwner (n : Nat) (s : State) : Host.Outcome State Fault Refusal :=
  match s.feOps[n]? with
  | none => event s
  | some op =>
    if op.res.isSome || heldCore s op.core (op.owner / 256) op.id || ownPending s op.core op.ctx (windowOf op.owner + op.off) then event s
    else
      let s0 := { s with feOps := s.feOps.eraseIdx n }
      match performFe s0 op with
      | .result s' r => event { s'.bump with feOps := s'.feOps ++ [{ op with res := some r, doneAt := s'.serial }] }
      | .complete s' =>
        let s1 := if op.core / 256 = op.owner / 256 then s'
          else keepReplay s' (op.core / 256) (.result { op with res := some ⟨0, 0, false, false, none⟩ })
        event (completeAt s1 op.core op.ctx)
      | .parks s' p => event (s'.setCtx op.core op.ctx { s'.ctx op.core op.ctx with park := some p })

/-- A result fills rd, or the pair of TRYTAKE, and its instruction completes (R168). -/
def fillFe (s : State) (op : FeOp) (r : FeRes) : State :=
  asCtx s op.core op.ctx fun s =>
    let s1 := s.putTagged op.rd r.v0 r.tag0
    (if op.kind = .trytake then s1.putTagged (pairOf op.rd) r.v1 r.tag1 else s1).next4

/-- FE_RESULT_FILL (R168, R174): the second leg fills the register; a taker acquires the PUT of its value first, by
an escalation where the stores before the PUT are not yet visible to it (R406). -/
def execFeResultFill (n : Nat) (s : State) : Host.Outcome State Fault Refusal :=
  match s.feOps[n]? with
  | none => event s
  | some op =>
    match op.res with
    | none => event s
    | some r =>
      let s0 := if op.core / 256 = op.owner / 256 then { s with feOps := s.feOps.eraseIdx n }
        else keepReplay { s with feOps := s.feOps.eraseIdx n } (op.core / 256) (.result op)
      if heldCore s op.owner (op.core / 256) op.doneAt then event s
      else
      match r.acq with
      | none => event (fillFe s0 op r)
      | some a =>
        if visibleAt s (scopeOf a.core op.core) a.core a.mark then
          event (fillFe (if a.core = op.core then s0 else flashL1 s0 op.core) op r)
        else if s.escs.any fun e => decide (e.id = op.id) then event s
        else event { s with escs := s.escs ++ [⟨op.id, op.core, op.ctx, a.core, a.mark, false⟩] }

/-- TAKE_RETRY_EXPIRY (R168): a TAKE that found the deferred list full re-executes. -/
def execTakeRetryExpiry (core ctx : Nat) (s : State) : Host.Outcome State Fault Refusal :=
  match (s.ctx core ctx).park with
  | some (.takeRetry _ _) => event (unpark s core ctx)
  | _ => event s

/-! ### Waiting (R178, R179) -/

/-- WAIT's mask: G[ra], or all ones for 0 (R178). -/
def waitMask (v : Word) : Word := if v = 0 then BitVec.allOnes 64 else v

/-- WAIT (R178): Waits for and claims event-latch bits. -/
def execWait (o : R2) (s : State) : Host.Outcome State Fault Refusal :=
  finish s (gate s o.use fun s =>
    let m := waitMask (s.g o.a)
    let hit := s.me.evl &&& m
    if hit = 0 then .park s (.wait m)
    else .done ((s.setMe { s.me with evl := s.me.evl &&& ~~~m }).put o.d hit).next4)

/-- WAIT_WAKE (R178): a latched event satisfies a parked WAIT, which re-executes. -/
def execWaitWake (core ctx : Nat) (s : State) : Host.Outcome State Fault Refusal :=
  match (s.ctx core ctx).park with
  | some (.wait m) => if (s.ctx core ctx).evl &&& m ≠ 0 then event (unpark s core ctx) else event s
  | _ => event s

/-- The 8-byte unit at a place as a dev-scope load of a context sees it (R179): L1 is bypassed, and a device register is
read as R391 states. -/
def seen64 (s : State) (g k pa : Nat) : Word :=
  if placeOf s pa = .device then deviceRead s pa else leWord (seenBytes s g (gctx g k) false pa 8)

/-- The read of a wait on a memory word (R122, R179) waits as a dev-scope load does: for the thread's vector instructions, its
own earlier accesses to the word, its scoped atomics, and other contexts' buffered stores to the word (R148, R157, R158,
R160). -/
def waitRead (s : State) (w : Where) (k : Word → Eff) : Eff :=
  if (placeOf s w.pa).isSpad && vectorBusy s s.cur.1 s.cur.2 then .park s .vectorDrain
  else if ownPending s s.cur.1 s.cur.2 w.pa then .park s (.lineDrain (lineOf w.pa))
  else if scopedPending s s.cur.1 s.cur.2 then .park s .scopedOrder
  else if overlaps s s.cur.1 (gctx s.cur.1 s.cur.2) w.pa 8 then .park s (.overlap w.pa 8)
  else k (seen64 s s.cur.1 s.cur.2 w.pa)

/-- WAITA (eq) and WAITNA (R179): the read is an acquire at dev scope. -/
def waitWord (o : R3) (eq : Bool) (s : State) : Host.Outcome State Fault Refusal :=
  finish s (gate s o.use fun s =>
    let va := s.g o.a
    if va.toNat % 8 ≠ 0 then .trap causeMISALIGN va
    else
      withPlace s va .load 8 causeLOADF fun w =>
        waitRead s w fun v =>
          if decide (v = s.g o.b) = eq then .done ((flashL1 s s.cur.1).put o.d v).next4
          else .park s (.waita w.pa eq (s.g o.b)))

/-- WAITA (R179): Parks until a memory word equals a value. -/
def execWaita (o : R3) (s : State) : Host.Outcome State Fault Refusal := waitWord o true s

/-- WAITNA (R179): Parks until a memory word differs from a value. -/
def execWaitna (o : R3) (s : State) : Host.Outcome State Fault Refusal := waitWord o false s

/-- A parked WAITA or WAITNA would now complete (R179). -/
def waitaHolds (s : State) (g k : Nat) : Bool :=
  match (s.ctx g k).park with
  | some (.waita pa eq v) => decide (seen64 s g k pa = v) == eq
  | _ => false

/-- WAITA_REREAD (R179): a write to the watched line has made the condition true, and the instruction re-executes. -/
def execWaitaReread (core ctx : Nat) (s : State) : Host.Outcome State Fault Refusal :=
  if waitaHolds s core ctx then event (unpark s core ctx) else event s

/-! ### Arrival-interrupt masking (R180, R181) -/

/-- IMASK (R180): Sets the arrival-interrupt mask count. -/
def execImask (o : Cnt) (s : State) : Host.Outcome State Fault Refusal :=
  finish s (.done (s.next4.setMe { s.next4.me with icount := o.n }))

/-- IUNMASK (R180): Clears the arrival-interrupt mask count. -/
def execIunmask (s : State) : Host.Outcome State Fault Refusal :=
  finish s (.done (s.next4.setMe { s.next4.me with icount := 0 }))

/-- IRET (R181, R35): Returns from an arrival-interrupt handler; outside one it is illegal. -/
def execIret (s : State) : Host.Outcome State Fault Refusal :=
  finish s (
    if s.me.ih = false then .trap causeILL (wordOf .iret)
    else if aligned4 s.me.iepc then .done (s.setMe { s.me.iret with fetched := none, relMark := none, inval := none })
    else .trap causeMISALIGN s.me.iepc)

end Sys2Proof.Machine
end

