-- ==== Sys2Proof/Machine/Cache.lean ====
section
/-! DEFINITION. The CACHE instructions (R150 to R153 of spec/09_memory_hierarchy.md). -/

namespace Sys2Proof.Machine

/-- The operands of a range operation are multiples of 128 (R150). -/
def rangeAligned (a n : Word) : Bool := decide (a.toNat % 128 = 0) && decide (n.toNat % 128 = 0)

/-- L2PF (R151): Starts a prefetch range; a ninth range drops the oldest. -/
def execL2pf (o : Rab) (s : State) : Host.Outcome State Fault Refusal :=
  finish s (gate s o.use fun s =>
    if rangeAligned (s.g o.a) (s.g o.b) then
      let n := (s.g o.b).toNat / 128
      if n = 0 then .done s.next4
      else
        let c := s.myCore
        let p : Prefetch := ⟨s.g o.a, n, s.me.mode, (coreBasin s s.cur.1).getD 64⟩
        .done (s.setMyCore { c with prefetch := (c.prefetch ++ [p]).drop (c.prefetch.length + 1 - 8) }).next4
    else .trap causeMISALIGN (s.g o.a))

/-- The three line operations (R150). -/
inductive LineOp where
  | disc | zero | flush
  deriving DecidableEq, Repr

/-- What a line operation must be permitted (R152): R for CFLUSH, W for the others. -/
def LineOp.access : LineOp → Access
  | .flush => .load
  | _ => .store

/-- Every core's L1 drops a line. -/
def dropL1 (s : State) (l : Nat) : State :=
  { s with cores := s.cores.map fun p => (p.1, { p.2 with l1 := fdel p.2.l1 l }) }

/-- A line that is clean again has no DMARK on its way: its write-back, or its loss, comes after it (R348, R350). -/
def dropMark (s : State) (l : Nat) : State :=
  { s with msgs := s.msgs.filter fun m => !(decide (m.line = l) && decide (m.body = .dmark)) }

/-- One line operation, whole and at once for all observers (R152): every slice's copy goes with L2DISC; L2ZERO leaves a zero
line at the home slice, or for a basin with no ways a set zero mark; CFLUSH writes a dirty line back, and a zero line as its
mark. -/
def lineOp (s : State) (op : LineOp) (l home : Nat) : State :=
  match op with
  | .disc =>
    let x := s.line l
    let s0 := (dropMark (dropL1 (takeImage s (l / 512)) l) l).setLine l { x with
      ctl := ⟨8, true, x.ctl.zero, false, 0⟩, slices := [], due := [], maker := none }
    let s1 := { s0 with msgs := s0.msgs.filter fun m => !m.carries l }
    match flook s.stale l with
    | some img => { s1 with mem := writeBytes s1.mem (128 * l) img, stale := fdel s1.stale l }
    | none => s1
  | .zero =>
    let s1 := dropL1 s l
    let x := s1.line l
    let s2 := match flook x.slices (home / 256) with
      | some g => markDirty (s1.setLine l { x with slices := fset x.slices (home / 256) { g with form := .zero, used := s.clock } }) l home
      | none => (takeImage s1 (l / 512)).setLine l { x with ctl := { x.ctl with zero := true, hd := false } }
    { s2 with stale := keepImage s2 (128 * l), mem := clearRange s2.mem (128 * l) 128 }
  | .flush =>
    let x := s.line l
    let zero := match flook x.slices (home / 256) with
      | some g => decide (g.form = .zero)
      | none => x.ctl.zero
    let dirty := (flook s.stale l).isSome
    { (dropMark (takeImage s (l / 512)) l).setLine l { x with ctl := { x.ctl with hd := false, zero := if dirty then zero else x.ctl.zero } } with
      stale := fdel s.stale l }

/-- The tokens that a line operation needs are gathered (R152): as a write gathers them; L2DISC writes nothing back, not even
where the line passes through. -/
def lineHolds (s : State) (op : LineOp) (l home mask : Nat) : Option State :=
  if op = .disc ∧ mask % 2 ^ 16 = 0 then (if pageSaved s (l / 512) then some s else none) else homeHolds s l home mask

/-- A line operation is behind the core's buffered stores and the thread's accesses on the line (R152, R157). -/
def lineDraining (s : State) (g k l : Nat) : Bool :=
  lineBuffered s g l || ownPending s g k (128 * l) || (s.tower (sliceTower s g)).outbound.any fun e => decide (e.line = l)

/-- The executing thread ends its range operation with n bytes done (R152). -/
def endRange (s : State) (rd : RegNo) (n : Nat) : State :=
  ((s.setMe { s.me with range := none }).put rd (BitVec.ofNat 64 n)).next4

/-- The executing thread is in a range operation with n bytes done, which a save completes with that count (R152). -/
def inRange (s : State) (n : Nat) (rd : RegNo) : State := s.setMe { s.me with range := some (n, rd) }

/-- One line of a range operation per issue, in increasing order (R152): the thread issues nothing else meanwhile. -/
def rangeEff (s : State) (o : R3) (op : LineOp) : Eff :=
  let n := match s.me.range with
    | some (n, _) => n
    | none => 0
  let len := (s.g o.b).toNat
  if !rangeAligned (s.g o.a) (s.g o.b) then .trap causeMISALIGN (s.g o.a)
  else if len ≤ n then .done (endRange s o.d n)
  else
    let x := s.g o.a + BitVec.ofNat 64 n
    match translateNow s s.who x op.access 128 with
    | (.ok w, s1) =>
      let l := lineOf w.pa
      let home := homeSlice s1 w.vault w.pa
      if placeOf s1 w.pa ≠ .dram then (if n = 0 then .trap causeSTOREF x else .done (endRange s1 o.d n))
      else if lineDraining s1 s1.cur.1 s1.cur.2 l then .park (inRange s1 n o.d) (.lineDrain l)
      else
        match lineHolds s1 op l home (maskOf s1 s1.cur.1) with
        | none => .park (inRange (askTokens s1 (home / 256) l home true ((coreBasin s1 s1.cur.1).getD 64)) n o.d) (.lineTokens l home)
        | some s2 =>
          let s3 := lineOp s2 op l home
          if len ≤ n + 128 then .done (endRange s3 o.d (n + 128))
          else .done ((inRange s3 (n + 128) o.d).setMe { (inRange s3 (n + 128) o.d).me with park := none })
    | (.miss, s1) => .park (inRange s1 n o.d) (.walk x op.access causeSTOREF)
    | (.page, s1) => if n = 0 then .pageFault causeSTOREF x else .done (endRange s1 o.d n)
    | (_, s1) => if n = 0 then .trap causeSTOREF x else .done (endRange s1 o.d n)

/-- The three range operations. -/
def rangeInstr (o : R3) (op : LineOp) (s : State) : Host.Outcome State Fault Refusal :=
  finish s (gate s o.use fun s => behindFences s 0 fun s => rangeEff s o op)

/-- L2DISC (R152): Invalidates every copy of the lines without write-back. -/
def execL2disc (o : R3) (s : State) : Host.Outcome State Fault Refusal := rangeInstr o .disc s
/-- L2ZERO (R152): Makes the lines zero lines. -/
def execL2zero (o : R3) (s : State) : Host.Outcome State Fault Refusal := rangeInstr o .zero s
/-- CFLUSH (R152): Writes dirty data back to DRAM. -/
def execCflush (o : R3) (s : State) : Host.Outcome State Fault Refusal := rangeInstr o .flush s

/-- A translation that TLBINV removes (R153): by page, by basin, or all. -/
def Xlat.dies (x : Xlat) (kind b va : Nat) : Bool :=
  match kind with
  | 0 => x.covers b va
  | 1 => decide (x.basin = b)
  | _ => true

/-- Every TLB and shared translation cache drops the translations (R153). -/
def dropXlats (s : State) (kind b va : Nat) : State :=
  { s with
    cores := s.cores.map fun p => (p.1, { p.2 with tlb := p.2.tlb.filter fun x => !x.dies kind b va })
    towers := s.towers.map fun p => (p.1, { p.2 with tcache := p.2.tcache.filter fun x => !x.dies kind b va }) }

/-- Every access made up to a mark and a time has completed or been performed (R153). -/
def allPerformed (s : State) (mark time : Nat) : Bool :=
  (s.cores.all fun p => visibleAt s 4 p.1 mark) &&
  (s.cores.all fun p => p.2.ctxs.all fun q =>
    match q.2.park with
    | some (.load _) => decide (time < q.2.parkTime)
    | _ => true)

/-- TLBINV (R153): Removes translations from every TLB and shared translation cache of the device. It marks its FENCE.REL and
parks until the stores before it are visible at dev scope; then the translations go, and it parks again until every access that
may have used them has been performed. -/
def execTlbinv (o : R3) (s : State) : Host.Outcome State Fault Refusal :=
  finish s (privGate s (.tlbinv o) .s false (gate s o.use fun s =>
    let v := (s.g o.b).toNat
    let kind := v % 4
    let field := v / 2 ^ 16 % 64
    let inM := decide (s.me.mode = .m)
    let b := if inM then field else (coreBasin s s.cur.1).getD 64
    let gone (s : State) : State := dropXlats s kind b (s.g o.a).toNat
    if v / 2 ^ 22 ≠ 0 ∨ v / 4 % 2 ^ 14 ≠ 0 ∨ kind = 3 ∨ (inM = false ∧ field ≠ 0) then .done (s.put o.d 2).next4
    else if kind = 2 ∧ inM = false then .done (s.put o.d 1).next4
    else
      match s.me.relMark, s.me.inval with
      | some m, some t =>
        if allPerformed s m t then .done ((gone s).put o.d 0).next4 else .park s (.tlbinv m t)
      | some m, none =>
        if visibleAt s 3 s.cur.1 m then
          let s1 := gone s.bump
          .park (s1.setMe { s1.me with relMark := some s.serial, inval := some s.clock }) (.tlbinv s.serial s.clock)
        else .park s (.drain 3 m)
      | none, _ =>
        if visibleAt s 3 s.cur.1 s.serial then
          let s1 := gone (fenceRel s 3)
          .park (s1.setMe { s1.me with relMark := some s.serial, inval := some s.clock }) (.tlbinv s.serial s.clock)
        else
          let s1 := fenceRel s 3
          .park (s1.setMe { s1.me with relMark := some s.serial }) (.drain 3 s.serial)))

end Sys2Proof.Machine
end

