-- ==== Sys2Proof/Machine/Sys.lean ====
section
/-! DEFINITION. Traps by instruction, ERET, the system registers and HALT (R299 to R305, R314 to R317, R322 of
spec/23_traps_and_preemption.md), and the word that names no instruction (R30). -/

namespace Sys2Proof.Machine

/-- ILLEGAL_WORD (R21, R30): ILL with TVAL the word, zero-extended. -/
def execIllegalWord (w : BitVec 32) (s : State) : Host.Outcome State Fault Refusal :=
  finish s (.trap causeILL (w.zeroExtend 64))

/-- TRAP (R315): Raises SYSCALL, with EPC at the instruction itself. -/
def execTrap (s : State) : Host.Outcome State Fault Refusal := finish s (.trap causeSYSCALL 0)

/-- BREAK (R315): Raises BREAK, with EPC at the instruction itself. -/
def execBreakI (s : State) : Host.Outcome State Fault Refusal := finish s (.trap causeBREAK 0)

/-- ERET (R316): Returns from a trap. -/
def execEret (s : State) : Host.Outcome State Fault Refusal :=
  finish s (privGate s .eret .s false (
    if aligned4 s.me.epc then
      .done (s.setMe { s.me.eret with icount := tick s.me.icount, fetched := none, relMark := none, inval := none })
    else .trap causeMISALIGN s.me.epc))

/-- HALT (R322): Stops the executing context until a RESUME of kind STOPPED; the PC stays at the HALT, and the thread
goes on after it. -/
def execHalt (s : State) : Host.Outcome State Fault Refusal :=
  finish s (privGate s .halt .m false (.done (s.setMe { s.me with
    stop := some .halted, icount := tick s.me.icount, relMark := none, inval := none, fetched := none })))

/-! ### System registers (R303 to R305) -/

/-- Clocks since the part's reset after n steps (log entry 4): the steps, and what each took beyond one clock. -/
def clocksOf : Nat → Nat
  | 0 => 0
  | n + 1 => clocksOf n + 1 + Config.stepClocks n

/-- STATUS as it reads (R304). -/
def Ctx.status (c : Ctx) : Word :=
  BitVec.ofNat 64 (c.icount.toNat * 2 ^ 16 + c.pmode.toNat * 2 ^ 8 + (if c.ih then 4 else 0) + (if c.th then 2 else 0))

/-- The value of a system register (R303). -/
def sysValue (s : State) (n : Nat) : Word :=
  let c := s.me
  let k := s.myCore
  match n with
  | 0x000 => c.evl
  | 0x001 => c.ivec
  | 0x002 => c.iepc
  | 0x003 => c.fpctl
  | 0x200 => s.caps
  | 0x201 => BitVec.ofNat 64 (clocksOf s.clock)
  | 0x202 => BitVec.ofNat 64 (clocksOf s.clock)
  | 0x203 => s.ids
  | 0x204 => BitVec.ofNat 64 c.mode.code
  | 0x400 => c.status
  | 0x401 => c.cause.zeroExtend 64
  | 0x402 => c.epc
  | 0x403 => c.tval
  | 0x404 => c.scratch
  | 0x405 => k.tvec
  | 0x406 => k.savebase
  | 0x407 => k.savesize
  | 0x408 => k.probeint
  | 0xC00 => k.tenant
  | 0xC01 => k.ptbase
  | _ => 0

/-- The pair SAVEBASE and SAVESIZE, as it would stand, is one that R127 accepts for a scratchpad of S units: multiples
of 64, the area within 0x1_0000 to S × 64 KiB − 1; with SAVESIZE = 0 only the base is checked. -/
def saveAreaOk (units : Nat) (base size : Word) : Bool :=
  let b := base.toNat
  let z := size.toNat
  decide (b % 64 = 0) && decide (z % 64 = 0) && decide (0x10000 ≤ b) &&
  (if z = 0 then decide (b < units * 65536) else decide (b + z ≤ units * 65536))

/-- No live frame lies in the core's save area (R303). -/
def Core.noFrames (c : Core) : Bool := c.frames.all fun f => f.spilled

/-- STATUS after a write (R304): TH and PMODE; PMODE keeps its value for 0b10, and for 0b11 from S mode. -/
def Ctx.writeStatus (c : Ctx) (v : Word) : Ctx :=
  let p := v.extractLsb' 8 2
  { c with
    th := v.getLsbD 1
    pmode := if p = 2 ∨ (p = 3 ∧ c.mode = .s) then c.pmode else p }

/-- Write a value to a system register under its own rules (R303 to R305). -/
def sysWriteTo (s : State) (n : Nat) (v : Word) : State :=
  let c := s.me
  let k := s.myCore
  match n with
  | 0x000 => s.setMe { c with evl := v &&& ~~~(0x4000000000000000#64) ||| (c.evl &&& 0x4000000000000000#64) }
  | 0x001 => s.setMe { c with ivec := v &&& ~~~(0x3F#64) }
  | 0x002 => s.setMe { c with iepc := v }
  | 0x003 => s.setMe { c with fpctl := fpctlWrite v }
  | 0x400 => s.setMe (c.writeStatus v)
  | 0x401 => s.setMe { c with cause := v.setWidth 8 }
  | 0x402 => s.setMe { c with epc := v }
  | 0x403 => s.setMe { c with tval := v }
  | 0x404 => s.setMe { c with scratch := v }
  | 0x405 => s.setMyCore { k with tvec := v &&& ~~~(0x3F#64) }
  | 0x406 => if k.noFrames = true ∧ saveAreaOk k.units v k.savesize = true then s.setMyCore { k with savebase := v } else s
  | 0x407 => if k.noFrames = true ∧ saveAreaOk k.units k.savebase v = true then s.setMyCore { k with savesize := v } else s
  | 0x408 => if v.toNat < 2 ^ 32 then s.setMyCore { k with probeint := v } else s
  | 0xC00 => s.setMyCore { k with tenant := if v.getLsbD 6 then 0x40 else v &&& 0x3F }
  | 0xC01 => s.setMyCore { k with ptbase := v &&& ~~~(0x1FFF#64) }
  | _ => s

/-- The lowest mode of a system register number (R42 LOWMODE). -/
def sysLowest (n : BitVec 12) : Mode := Mode.ofCode (n.toNat / 2 ^ 10)

/-- An access to FPCTL waits for the thread's FDIV, FSQRT and vector instructions (R66, R216). -/
def fpctlBusy (s : State) (g k : Nat) : Bool := ((s.ctx g k).fills.any fun f => f.fp) || vectorBusy s g k

/-- Park an access to FPCTL while it is busy. -/
def fpctlGate (s : State) (n : BitVec 12) (k : Eff) : Eff :=
  if n = 3 ∧ fpctlBusy s s.cur.1 s.cur.2 = true then .park s .fpctl else k

/-- SRR (R317): Reads a system register. -/
def execSrr (o : Srd) (s : State) : Host.Outcome State Fault Refusal :=
  finish s (privGate s (.srr o) (sysLowest o.n) false (gate s o.use fun s =>
    fpctlGate s o.n (.done (s.put o.d (sysValue s o.n.toNat)).next4)))

/-- SRW, SRS and SRC (R305): the new value from the old one and G[rd], under the register's own write rules. -/
def sysModify (i : Instr) (o : Swr) (f : Word → Word → Word) (s : State) : Host.Outcome State Fault Refusal :=
  finish s (privGate s i (sysLowest o.n) false (gate s o.use fun s =>
    fpctlGate s o.n (.done (sysWriteTo s o.n.toNat (f (sysValue s o.n.toNat) (s.g o.d))).next4)))

/-- SRW (R305): Writes a system register under its write rules. -/
def execSrw (o : Swr) (s : State) : Host.Outcome State Fault Refusal := sysModify (.srw o) o (fun _ v => v) s
/-- SRS (R305): ORs bits into a system register. -/
def execSrs (o : Swr) (s : State) : Host.Outcome State Fault Refusal := sysModify (.srs o) o (fun x v => x ||| v) s
/-- SRC (R305): Clears bits of a system register. -/
def execSrc (o : Swr) (s : State) : Host.Outcome State Fault Refusal := sysModify (.src o) o (fun x v => x &&& ~~~v) s

/-- YIELD (R116): Completes at once; the context is not eligible until its hold expires. -/
def execYield (s : State) : Host.Outcome State Fault Refusal :=
  finish s (.done (s.next4.setMe { s.next4.me with yieldHold := true }))

/-- YIELD_HOLD_EXPIRY (R116): the 16 clocks of a YIELD end. -/
def execYieldHoldExpiry (core ctx : Nat) (s : State) : Host.Outcome State Fault Refusal :=
  if (s.ctx core ctx).yieldHold then event (s.setCtx core ctx { s.ctx core ctx with yieldHold := false }) else event s

/-- FAULT_RECORD_DEFERRED_POST (R307): a waiting record is posted once its queue has room. -/
def execFaultRecordDeferredPost (n : Nat) (s : State) : Host.Outcome State Fault Refusal :=
  match s.faultWait[n]? with
  | none => event s
  | some r =>
    match tryPost s r with
    | some s' => event { s' with faultWait := s'.faultWait.eraseIdx n }
    | none => event s

end Sys2Proof.Machine
end

