-- ==== Sys2Proof/Machine/Chan.lean ====
section
/-! DEFINITION. Channels and end handles: the CHAN instructions and the events of the sluice (R182 to R211 of
spec/13_channels.md). -/

namespace Sys2Proof.Machine

/-! ### Ends -/

/-- An end of a channel. -/
def Chan.theEnd (c : Chan) (rcv : Bool) : ChEnd := if rcv then c.rcv else c.snd

/-- Write an end of a channel. -/
def Chan.setEnd (c : Chan) (rcv : Bool) (e : ChEnd) : Chan := if rcv then { c with rcv := e } else { c with snd := e }

/-- The value of an end's handle (R182). -/
def Chan.handle (c : Chan) (rcv : Bool) : Word :=
  let e := c.theEnd rcv
  BitVec.ofNat 64 ((if rcv then 2 ^ 63 else 0) + e.rights * 2 ^ 56 + c.tenant * 2 ^ 40 + c.tower * 2 ^ 36 + e.slot * 2 ^ 16 + e.reuse)

/-- The TENANT of the executing thread (R182). -/
def tenantOf (s : State) : Nat :=
  if s.me.mode = .m then 0xFFFF else (coreBasin s s.cur.1).getD 0xFFFF

/-- The end a tagged value names, if its slot still has the reuse count (check 4 of R183). -/
def findEnd (s : State) (v : Word) : Option (Nat × Bool) :=
  let rcv := v.getLsbD 63
  (s.chans.find? fun p => p.2.handle rcv == v).map fun p => (p.1, rcv)

/-- The checks of R183 for the executing thread: a tag, the kind when one is required, the tenant, the slot, the holder
unless CHSTAT asks, and the rights. -/
def checkEnd (s : State) (v : Word) (tag : Bool) (kind : Option Bool) (right : Nat) : Option (Nat × Bool × Chan) :=
  if tag = false ∨ (kind.isSome = true ∧ kind ≠ some (v.getLsbD 63)) ∨ v.toNat / 2 ^ 40 % 2 ^ 16 ≠ tenantOf s then none
  else
    match findEnd s v with
    | none => none
    | some (id, rcv) =>
      match flook s.chans id with
      | none => none
      | some c =>
        if (c.theEnd rcv).holder = .thread s.cur.1 s.cur.2 ∧ (c.theEnd rcv).rights &&& right = right then some (id, rcv, c)
        else none

/-- Write a channel. -/
def State.setChan (s : State) (id : Nat) (c : Chan) : State := { s with chans := fset s.chans id c }

/-- The context a late event reaches: its EVL gains bits, in the context or in the frame of a saved one (R190,
R198). -/
def latchBits (s : State) (g k : Nat) (bits : Word) : State :=
  if g < frameKey then s.setCtx g k { s.ctx g k with evl := (s.ctx g k).evl ||| bits }
  else
    match findFrame s (g - frameKey) with
    | none => s
    | some (h, f) => frameWrite s h f 112 (leBytes 8 (frameWord s f 112 ||| bits).toNat)

/-- Latch a line of an end's holder; an end in transit keeps it for its next holder (R199). -/
def latchLine (s : State) (id : Nat) (c : Chan) (rcv : Bool) (line : Nat) : State :=
  let e := c.theEnd rcv
  match e.holder with
  | .thread g k => latchBits s g k (1 <<< line)
  | .carrier => s.setChan id (c.setEnd rcv { e with pend := e.pend ||| (1 <<< line) })
  | .gone => s

/-- A field of six bits of a subscription word (R199). -/
def subLine (v : Word) (lo : Nat) : Nat := v.toNat / 2 ^ lo % 64

/-- The closure event of an end whose peer has closed, at most once and only while CLEV is enabled (R199). -/
def closeEvent (s : State) (id : Nat) (rcv : Bool) : State :=
  match flook s.chans id with
  | none => s
  | some c =>
    let e := c.theEnd rcv
    if e.sub.getLsbD 1 && !e.clDone && (c.theEnd (!rcv)).closed then
      let c' := c.setEnd rcv { e with clDone := true }
      latchLine (s.setChan id c') id c' rcv (subLine e.sub 18)
    else s

/-- The transfer event of an end whose peer's relocation has completed (R199). -/
def moveEvent (s : State) (id : Nat) (rcv : Bool) : State :=
  match flook s.chans id with
  | none => s
  | some c => if (c.theEnd rcv).sub.getLsbD 2 then latchLine s id c rcv (subLine (c.theEnd rcv).sub 24) else s

/-- The words present where the receive end now lies: none while its new buffer waits for its first word (R191). -/
def Chan.present (c : Chan) : List ChWord :=
  if c.moves.any (fun p => decide (p.2 ≠ [])) then [] else
    match c.bufs.getLast? with
    | some b => b.words
    | none => []

/-- A word of a sequence number is present. -/
def Chan.wordAt (c : Chan) (q : Nat) : Option ChWord := c.present.find? fun w => decide (w.seq = q)

/-- The arrival event of the word at the receive counter (R199): latched once, while ARREV is enabled. -/
def arriveEvent (s : State) (id : Nat) : State :=
  match flook s.chans id with
  | none => s
  | some c =>
    if c.rcv.sub.getLsbD 3 && !c.evDone && !c.rcv.closed && (c.wordAt c.recvCtr).isSome then
      let c' := { c with evDone := true }
      latchLine (s.setChan id c') id c' true (subLine c.rcv.sub 30)
    else s

/-! ### The channel pool (R186) -/

/-- The blocks of a buffer of depth d. -/
def poolBlocks (d : Nat) : Nat := 1 + (d + 7) / 8

/-- The blocks a channel holds in a core's pool: whole buffers, and the header alone of one that forwards. -/
def Chan.blocksOn (c : Chan) (g : Nat) : List Nat :=
  ((c.bufs.filter fun b => decide (b.core = g)).flatMap fun b => b.blocks) ++
  ((c.moves.filter fun p => decide (p.1 = g)).flatMap fun p => p.2)

/-- The blocks of a core's pool that are taken. -/
def poolTaken (s : State) (g : Nat) : List Nat := s.chans.flatMap fun p => p.2.blocksOn g

/-- A core's pool has n free blocks. -/
def poolRoom (s : State) (g n : Nat) : Bool := decide ((poolTaken s g).length + n ≤ 1024)

/-- The lowest n free blocks of a core's pool, for a buffer (log entry 36). -/
def poolTake (s : State) (g n : Nat) : List Nat :=
  let taken := poolTaken s g
  ((List.range 1024).filter fun b => !taken.contains b).take n

/-- The scratchpad offset of the slot of sequence number q in a buffer of depth d: eight words to a slot block, after the header
block. The model's counters do not wrap at 2^32, so a slot is q mod d of the unbounded q (DESIGN CHOICE, log entry 83). -/
def ChBuf.slot (b : ChBuf) (d q : Nat) : Nat := 64 * b.blocks.getD (1 + q % d / 8) 0 + q % d % 8 * 8

/-- A word of a buffer as its slot holds it: the slot is a scratchpad word with its tag bit. -/
def slotWord (s : State) (b : ChBuf) (d : Nat) (w : ChWord) : ChWord :=
  { w with val := read64 s.mem (windowOf b.core + b.slot d w.seq), tag := tagAt s b.core (b.slot d w.seq) }

/-- The words present in a buffer, as their slots hold them. -/
def bufWords (s : State) (c : Chan) (b : ChBuf) : List ChWord := b.words.map (slotWord s b c.depth)

/-- A word is written into its slot of a buffer, with its tag. -/
def storeSlot (s : State) (b : ChBuf) (d : Nat) (w : ChWord) : State :=
  let off := b.slot d w.seq
  setTag (writeSpad s b.core off (leBytes 8 w.val.toNat)) b.core off w.tag

/-- A batch of credits sets out (R187), with the stamp of its issue. -/
def Chan.flushBatch (c : Chan) (stamp : Nat) : Chan :=
  if c.batch = 0 then c else { c with batch := 0, creditFlight := c.creditFlight ++ [(c.batch, stamp)] }

/-! ### Moving ends (R190 to R193) -/

/-- An end becomes a carrier's (R190): ARRINT is cleared, and a send end's state is flushed (R192). -/
def carryEnd (s : State) (id : Nat) (rcv : Bool) : State :=
  match flook s.chans id with
  | none => s
  | some c =>
    let e := c.theEnd rcv
    let c1 := (c.setEnd rcv { e with holder := .carrier, sub := e.sub &&& ~~~(1#64) }).flushBatch s.serial
    s.setChan id (if rcv then c1 else { c1 with sendState := max 1 c1.sendState, sndMoving := false })

/-- A thread on another core has become the holder of an end (R191, R192): a move of a receive end takes a buffer in
the new core's pool when there is room, and ends an earlier one that still waits for its buffer (log entry 74); a send end's
state is to be fetched. -/
def relocateEnd (s : State) (id : Nat) (rcv : Bool) (g : Nat) : State :=
  match flook s.chans id with
  | none => s
  | some c =>
    let c1 := (c.setEnd rcv { c.theEnd rcv with core := g }).flushBatch s.serial
    if rcv then
      s.setChan id { c1 with moves := (c1.moves.filter fun p => decide (p.2 ≠ [])) ++
        [(g, if poolRoom s g (poolBlocks c.depth) then poolTake s g (poolBlocks c.depth) else [])] }
    else s.setChan id { c1 with sendState := max 1 c1.sendState, sndMoving := true }

/-- A thread takes an end (R190): the events of the transit are latched, and the end moves when the thread is on another core;
a saved thread's end moves at its restore. -/
def takeEnd (s : State) (id : Nat) (rcv : Bool) (g k : Nat) : State :=
  match flook s.chans id with
  | none => s
  | some c =>
    let e := c.theEnd rcv
    let c1 := c.setEnd rcv { e with holder := .thread g k, sub := e.sub &&& ~~~(1#64), pend := 0 }
    let s1 := s.setChan id (if !rcv && decide (g = e.core) then { c1 with sendState := 0, sndMoving := false } else c1)
    let s2 := if e.pend = 0 then s1 else latchBits s1 g k e.pend
    let s3 := if frameKey ≤ g ∨ g = e.core then s2 else relocateEnd s2 id rcv g
    if rcv then arriveEvent s3 id else s3

/-- A tagged word reaches a thread: the end it carries, if a carrier still holds it, is the thread's (R190). -/
def takeWord (s : State) (v : Word) (tag : Bool) (g k : Nat) : State :=
  if tag then
    match findEnd s v with
    | none => s
    | some (id, rcv) =>
      match flook s.chans id with
      | none => s
      | some c => if (c.theEnd rcv).holder = .carrier then takeEnd s id rcv g k else s
  else s

/-! ### Closure (R194 to R197) -/

/-- Send the closure of an end to its anchor; the end has no holder from then on (R209). -/
def sendClosure (s : State) (id : Nat) (rcv : Bool) (acq : Option Acq) (g k : Nat) (sh : Bool) (rd : RegNo) : State :=
  match flook s.chans id with
  | none => s
  | some c =>
    { s.setChan id ((c.setEnd rcv { c.theEnd rcv with holder := .gone }).flushBatch s.serial) with
      closures := s.closures ++ [⟨id, rcv, acq, g, k, sh, rd⟩] }

/-- The end a discarded carrier carries is closed, as its holder would have closed it (R196). -/
def closeCarried (s : State) (v : Word) (tag : Bool) (acq : Option Acq) : State :=
  if tag then
    match findEnd s v with
    | none => s
    | some (id, rcv) =>
      match flook s.chans id with
      | none => s
      | some c => if (c.theEnd rcv).holder = .carrier then sendClosure s id rcv acq 0 0 false 0 else s
  else s

/-- The send end is CLOSED, not DRAINING: every word below c has been delivered, or the receive end is closed (R197). -/
def Chan.sndEnded (c : Chan) : Bool :=
  c.snd.closed && (c.rcv.closed ||
    (match c.closeSeq with
     | some q => decide (q ≤ c.recvCtr) && c.recvs.all fun r => decide (q ≤ r.seq)
     | none => false))

/-- The next reuse count of a slot (R184). -/
def nextReuse (n : Nat) : Nat := if n + 1 ≥ 2 ^ 16 then 1 else n + 1

/-- Free a channel's slots (R184). -/
def freeChan (s : State) (id : Nat) (c : Chan) : State :=
  let r1 := fset s.slotReuse (c.tower * 2 ^ 20 + c.snd.slot) (nextReuse c.snd.reuse)
  { s with chans := fdel s.chans id, slotReuse := fset r1 (c.tower * 2 ^ 20 + c.rcv.slot) (nextReuse c.rcv.reuse) }

/-- A channel whose ends are CLOSED and that has no word left is freed (R184). -/
def freeIfDone (s : State) (id : Nat) : State :=
  match flook s.chans id with
  | none => s
  | some c =>
    if c.sndEnded && c.rcv.closed && decide (c.flight = []) && decide (c.recvs = []) && c.bufs.all (fun b => decide (b.words = []))
    then freeChan s id c else s

/-- The status word of a pair that fills with a channel's end (R207). -/
def closedStatus (c : Nat) : Word := BitVec.ofNat 64 (c % 2 ^ 32 * 2 ^ 32 + 2)

/-- Fill a RECV's pair (R207). -/
def fillPair (s : State) (r : ChRecv) (v : Word) (tag : Bool) (st : Word) (acq : Option Acq) : State :=
  let s1 := deliver s r.core r.ctx r.shadow r.rd ⟨v, .full, tag, acq⟩
  deliver s1 r.core r.ctx r.shadow (pairOf r.rd) ⟨st, .full, false, acq⟩

/-- Fill every listed RECV with the closed status. -/
def fillClosed (s : State) (c : Nat) (acq : Option Acq) : List ChRecv → State
  | [] => s
  | r :: l => fillClosed (fillPair s r 0 false (closedStatus c) acq) c acq l

/-- Close what every listed word carries (R196). -/
def closeWords (s : State) : List ChWord → State
  | [] => s
  | w :: l => closeWords (closeCarried s w.val w.tag (some w.acq)) l

/-- The closure of a send end takes effect (R194). -/
def closeSend (s : State) (id : Nat) (c : Chan) (acq : Option Acq) : State :=
  let c' := { c with
    snd := { c.snd with closed := true, dl := false }, sendState := 0, sndMoving := false, closeSeq := some c.sendCtr, closeCred := c.credits, closeAcq := acq }
  freeIfDone (closeEvent (s.setChan id c') id true) id

/-- The closure of a receive end takes effect (R194): every word not yet delivered is discarded and counted. Its last buffer keeps
its blocks until the channel is freed (log entry 80). -/
def closeRecv (s : State) (id : Nat) (c : Chan) (acq : Option Acq) : State :=
  let words := (c.bufs.flatMap fun b => bufWords s c b) ++ c.flight
  let c' := { c with
    rcv := { c.rcv with closed := true, dl := false }, disc := min (c.disc + words.length) (2 ^ 32 - 1), recvs := [], flight := []
    moves := [], bufs := (c.bufs.map fun b => { b with words := [], phase := 0 }).drop (c.bufs.length - 1) }
  let s1 := fillClosed (s.setChan id c') c.recvCtr acq c.recvs
  freeIfDone (closeEvent (closeWords s1 words) id false) id

/-- The number of words a receive end's closure would discard now. -/
def Chan.undelivered (c : Chan) : Nat := (c.bufs.flatMap fun b => b.words).length + c.flight.length

/-- The core and stamp of a closure's message; one that the part makes comes from the I/O die. -/
def Closure.source (m : Closure) : Acq := m.acq.getD ⟨2048, 0, false⟩

/-- The vector instructions that the thread of a closure had accepted before it are complete: the closure carries their writes
(R203, R231). -/
def Closure.vectorsDone (m : Closure) (s : State) : Bool :=
  let a := m.source
  !((s.core a.core).vjobs.any fun j => decide (j.ctx = m.ctx) && decide (j.id < a.mark))

/-- Send a message of a channel to a peer device. -/
def sendPeer (s : State) (m : HostMsg) : State := { s with outbox := s.outbox ++ [m] }

/-- The closure of an end has taken effect at the anchor: a peer device that holds the other end is told (R202). -/
def tellPeer (s : State) (id : Nat) (c : Chan) (rcv : Bool) : State :=
  match (if rcv then c.sndPeer else c.peer) with
  | some p => sendPeer s (.peerClosed p id)
  | none => s

/-- CLOSURE_AT_ANCHOR (R194 to R196): a closure reaches its anchor and takes effect, and CHCLOSE's count fills its
register (R209). -/
def execClosureAtAnchor (n : Nat) (s : State) : Host.Outcome State Fault Refusal :=
  match s.closures[n]? with
  | none => event s
  | some m =>
    let s0 := { s with closures := s.closures.eraseIdx n }
    match flook s.chans m.chan with
    | none => event s0
    | some c =>
      if heldCore s m.source.core c.tower m.source.mark || !m.vectorsDone s then event s
      else
        let s1 := if m.source.core / 256 = c.tower then s0 else keepReplay s0 c.tower (.closure m)
        if (c.theEnd m.rcv).closed then event s1
        else
          let s2 := tellPeer s1 m.chan c m.rcv
          if m.rcv then
            event (deliver (closeRecv s2 m.chan c m.acq) m.core m.ctx m.shadow m.rd
              (GReg.of (BitVec.ofNat 64 (min c.undelivered (2 ^ 32 - 1))) false))
          else event (closeSend s2 m.chan c m.acq)

/-- The ends a thread holds. -/
def heldEnds (s : State) (g k : Nat) : List (Nat × Bool) :=
  s.chans.flatMap fun p =>
    (if p.2.snd.holder = .thread g k then [(p.1, false)] else []) ++
    (if p.2.rcv.holder = .thread g k then [(p.1, true)] else [])

/-- Close every listed end (R115). -/
def closeEnds (s : State) (acq : Option Acq) : List (Nat × Bool) → State
  | [] => s
  | e :: l => closeEnds (sendClosure s e.1 e.2 acq 0 0 false 0) acq l

/-- A send end that the thread holds with an open packet (R188), if any. -/
def openEnd (s : State) (g k : Nat) : Option Word :=
  (s.chans.find? fun p => decide (p.2.snd.holder = .thread g k) && decide (0 < p.2.openPkt)).map fun p => p.2.handle false

/-! ### Instructions (R204 to R211) -/

/-- The anchor tower of an end that a core creates (R184). -/
def anchorTower (s : State) (g : Nat) : Nat := if isAtelier g then (g - 2048) % max 1 (towersPresent s) else towerOf g

/-- The slots of a tower's anchor table that are in use. -/
def usedSlots (s : State) (t : Nat) : List Nat :=
  (s.chans.filter fun p => decide (p.2.tower = t)).flatMap fun p => [p.2.snd.slot, p.2.rcv.slot]

/-- The first slot from a start on, cyclically, that a list does not hold. -/
def freeSlot (l : List Nat) (start : Nat) : Nat → Nat
  | 0 => start % 2 ^ 20
  | n + 1 => if l.contains (start % 2 ^ 20) then freeSlot l (start + 1) n else start % 2 ^ 20

/-- Create both ends of a channel, held by the executing thread (R182 to R186). Which two free slots they take is a
free choice (log entry 6). -/
def makeChan (s : State) (depth : Nat) (mask : Nat) : State × Chan :=
  let g := s.cur.1
  let t := anchorTower s g
  let l := usedSlots s t
  let (n, s1) := freeBelow s (2 ^ 20)
  let a := freeSlot l n l.length
  let b := freeSlot (a :: l) (a + 1) (l.length + 1)
  let mk (slot m : Nat) : ChEnd :=
    ⟨slot, fget 1 s.slotReuse (t * 2 ^ 20 + slot), 15 - m, .thread g s.cur.2, g, 0, false, false, false, 0⟩
  let c : Chan := {
    tower := t, depth := depth, tenant := tenantOf s, snd := mk a (mask % 16), rcv := mk b (mask / 2 ^ 8 % 16)
    sendCtr := 0, recvCtr := 0, credits := depth, openPkt := 0, sendState := 0, sndMoving := false, dest := s1.serial
    bufs := [⟨s1.serial, g, 0, 0, [], poolTake s g (poolBlocks depth)⟩], moves := [], flight := [], batch := 0, creditFlight := [], recvs := []
    closeSeq := none, closeCred := 0, closeAcq := none, disc := 0, evDone := false, intDone := false, peer := none, sndPeer := none }
  (s1.bump.setChan s1.serial c, c)

/-- Leave a pair pending. -/
def State.putPendingPair (s : State) (n : RegNo) : State := (s.putPending n).putPending (pairOf n)

/-- CHNEW (R205): creates a channel; the anchor's answer fills the pair. -/
def execChnew (o : X3) (s : State) : Host.Outcome State Fault Refusal :=
  finish s (gate s o.usePair fun s =>
    let d := (s.g o.a).toNat
    let m := (s.g o.b).toNat
    let st := if m / 2 ^ 12 ≠ 0 ∨ m / 16 % 16 ≠ 0 ∨ d < 1 ∨ 1024 < d then 3
      else if 2 ^ 20 < (usedSlots s (anchorTower s s.cur.1)).length + 2 then 1
      else if !poolRoom s s.cur.1 (poolBlocks d) then 2
      else 0
    let sh := inShadow s.me.ih o.d
    let reply (s : State) (v0 v1 : Word) : State :=
      { (s.putPendingPair o.d).next4 with chReplies := s.chReplies ++ [⟨s.cur.1, s.cur.2, sh, o.d, true, v0, v1⟩] }
    if st = 0 then
      let (s1, c) := makeChan s d m
      .done (reply s1 (c.handle false) (c.handle true))
    else .done (reply s 0 (BitVec.ofNat 64 st)))

/-- The first answer of a kind for a context. -/
def nextReply (s : State) (g k : Nat) (isNew : Bool) : Option ChReply :=
  s.chReplies.find? fun r => decide (r.core = g) && decide (r.ctx = k) && (r.isNew == isNew)

/-- CHNEW_REPLY (R205): the answer fills the pair, the handles tagged. -/
def execChnewReply (core ctx : Nat) (s : State) : Host.Outcome State Fault Refusal :=
  match nextReply s core ctx true with
  | none => event s
  | some r =>
    let t := decide (r.v0 ≠ 0)
    let s1 := deliver { s with chReplies := s.chReplies.erase r } core ctx r.shadow r.rd (GReg.of r.v0 t)
    event (deliver s1 core ctx r.shadow (pairOf r.rd) (GReg.of r.v1 t))

/-- A SEND that writes rd counts as a word of its packet (R188). -/
def countWord (s : State) (id : Nat) (k : Bool) : State :=
  match flook s.chans id with
  | none => s
  | some c => s.setChan id { c with openPkt := if k then 0 else c.openPkt + 1 }

/-- The word sets out (R206), and the end it carries is in transit. -/
def sendWord (s : State) (id : Nat) (c : Chan) (v : Word) (tag k : Bool) (car : Option (Nat × Bool)) : State :=
  let w : ChWord := ⟨c.sendCtr, v, tag, k, ⟨s.cur.1, s.serial, tag || c.peer.isSome⟩, c.dest⟩
  let s1 := s.bump.setChan id { c with sendCtr := c.sendCtr + 1, credits := c.credits - 1, flight := c.flight ++ [w] }
  match car with
  | some e => carryEnd s1 e.1 e.2
  | none => s1

/-- The executing core knows that a channel's receive end is CLOSED: the anchor holds it so, or a closure has set out from
this core (R194, log entry 14). -/
def peerClosed (s : State) (id : Nat) (c : Chan) : Bool :=
  c.rcv.closed || s.closures.any fun m =>
    decide (m.chan = id) && m.rcv && decide (m.source.core = s.cur.1)

/-- The core of the buffer a channel's sender sends to. -/
def Chan.destCore (c : Chan) : Nat := ((c.bufs.find? fun b => decide (b.id = c.dest)).map fun b => b.core).getD c.rcv.core

/-- SEND (R206): Sends a word on a send end, carrying an end when the word is a tagged handle. -/
def execSend (o : Snd) (s : State) : Host.Outcome State Fault Refusal :=
  finish s (gate s o.use fun s =>
    let v := s.g o.b
    let tag := s.gtag o.b
    match checkEnd s (s.g o.a) (s.gtag o.a) (some false) 1 with
    | none => .trap causeHANDLE (s.g o.a)
    | some (id, _, c) =>
      match (if tag then (checkEnd s v true none 2).map some else some none) with
      | none => .trap causeHANDLE v
      | some car =>
        if c.sendState ≠ 0 then .park s (.relocation id)
        else if !o.k && decide (31 ≤ c.openPkt) then .trap causePACKET (s.g o.a)
        else if car.any (fun e => !e.2.1 && decide (0 < e.2.2.openPkt)) then .trap causePACKET v
        else if vectorBusy s s.cur.1 s.cur.2 then .park s .vectorDrain
        else if car.any (fun e => decide (e.1 = id)) then .done ((countWord s id o.k).put o.d 2).next4
        else if peerClosed s id c then
          let s1 := s.setChan id { c with disc := min (c.disc + 1) (2 ^ 32 - 1) }
          let s2 := match car with
            | some e => sendClosure s1.bump e.1 e.2.1 (some ⟨s.cur.1, s.serial, false⟩) 0 0 false 0
            | none => s1
          .done ((countWord s2 id o.k).put o.d 1).next4
        else if c.credits = 0 then .park s (.credit id)
        else
          releaseAt s (if tag || c.peer.isSome then 4 else scopeOf s.cur.1 c.destCore) fun s =>
            .done ((countWord (sendWord s id c v tag o.k (car.map fun e => (e.1, e.2.1))) id o.k).put o.d 0).next4)

/-- RECV (R207): Reserves the next word of a receive end for a pair. -/
def execRecv (o : X2) (s : State) : Host.Outcome State Fault Refusal :=
  finish s (gate s o.usePair fun s =>
    match checkEnd s (s.g o.a) (s.gtag o.a) (some true) 1 with
    | none => .trap causeHANDLE (s.g o.a)
    | some (id, _, c) =>
      if 8 ≤ c.recvs.length then .park s (.recvFull id)
      else
        let r : ChRecv := ⟨c.recvCtr, s.cur.1, s.cur.2, inShadow s.me.ih o.d, o.d⟩
        let s1 := s.setChan id { c with recvCtr := c.recvCtr + 1, recvs := c.recvs ++ [r], evDone := false, intDone := false }
        .done ((arriveEvent s1 id).putPendingPair o.d).next4)

/-- The words present in unbroken sequence from q on, at most n (R208). -/
def Chan.run (c : Chan) (q : Nat) : Nat → Nat
  | 0 => 0
  | n + 1 => if (c.wordAt q).isSome then 1 + c.run (q + 1) n else 0

/-- RPOLL (R208): Counts the words present at the receive counter. Closed does not wait for words that outstanding RECVs have
reserved (log entry 80). -/
def execRpoll (o : X2) (s : State) : Host.Outcome State Fault Refusal :=
  finish s (gate s o.use fun s =>
    match checkEnd s (s.g o.a) (s.gtag o.a) (some true) 1 with
    | none => .trap causeHANDLE (s.g o.a)
    | some (_, _, c) =>
      let closed := match c.closeSeq with
        | some q => decide (q ≤ c.recvCtr)
        | none => false
      .done (s.put o.d (BitVec.ofNat 64 ((if closed then 2 ^ 63 else 0) + c.run c.recvCtr 1024))).next4)

/-- CHCLOSE (R209): Closes an end; the closure never parks (R194) and sets out behind the thread's vector work. The number of
words a receive end's closure discards fills rd when the closure reaches the anchor (log entry 14). -/
def execChclose (o : X2) (s : State) : Host.Outcome State Fault Refusal :=
  finish s (gate s o.use fun s =>
    match checkEnd s (s.g o.a) (s.gtag o.a) none 8 with
    | none => .trap causeHANDLE (s.g o.a)
    | some (id, rcv, c) =>
      if !rcv && decide (0 < c.openPkt) then .trap causePACKET (s.g o.a)
      else
        let sh := inShadow s.me.ih o.d
        let s1 := sendClosure s.bump id rcv (some ⟨s.cur.1, s.serial, false⟩) s.cur.1 s.cur.2 sh (if rcv then o.d else 0)
        .done (if rcv then (s1.putPending o.d).next4 else (s1.put o.d 0).next4))

/-- A subscription word that CHARM refuses for an end (R210). -/
def subRefused (rcv : Bool) (v : Word) : Bool :=
  decide (v &&& 0xFFFFFFF000003FF0#64 ≠ 0) || decide (62 ≤ subLine v 30) || decide (62 ≤ subLine v 24) ||
  decide (62 ≤ subLine v 18) || (!rcv && (v.getLsbD 3 || v.getLsbD 0))

/-- The value of a refused subscription (R210). -/
def subRefusal : Word := 0x8000000000000000

/-- CHARM (R210): Writes the subscription word of an end; an event already due is latched at once. -/
def execCharm (o : X3) (s : State) : Host.Outcome State Fault Refusal :=
  finish s (gate s o.use fun s =>
    match checkEnd s (s.g o.a) (s.gtag o.a) none 4 with
    | none => .trap causeHANDLE (s.g o.a)
    | some (id, rcv, c) =>
      if subRefused rcv (s.g o.b) then .done (s.put o.d subRefusal).next4
      else
        let e := c.theEnd rcv
        let s1 := s.setChan id (c.setEnd rcv { e with sub := s.g o.b })
        let s2 := closeEvent s1 id rcv
        .done ((if rcv then arriveEvent s2 id else s2).put o.d e.sub).next4)

/-- CHDISARM (R210): Clears enables of a subscription word. -/
def execChdisarm (o : X3) (s : State) : Host.Outcome State Fault Refusal :=
  finish s (gate s o.use fun s =>
    match checkEnd s (s.g o.a) (s.gtag o.a) none 4 with
    | none => .trap causeHANDLE (s.g o.a)
    | some (id, rcv, c) =>
      if (s.g o.b).toNat / 16 ≠ 0 then .done (s.put o.d subRefusal).next4
      else
        let e := c.theEnd rcv
        .done ((s.setChan id (c.setEnd rcv { e with sub := e.sub &&& ~~~(s.g o.b) })).put o.d e.sub).next4)

/-- CHSTAT (R211): Reads the state of an end at its anchor; checks 1 to 4 of R183 alone, and a freed slot is no
fault. -/
def execChstat (o : X2) (s : State) : Host.Outcome State Fault Refusal :=
  finish s (gate s o.use fun s =>
    let v := s.g o.a
    if s.gtag o.a = false ∨ v.toNat / 2 ^ 40 % 2 ^ 16 ≠ tenantOf s then .trap causeHANDLE v
    else
      .done { (s.putPending o.d).next4 with
        chReplies := s.chReplies ++ [⟨s.cur.1, s.cur.2, inShadow s.me.ih o.d, o.d, false, v, 0⟩] })

/-- A receive or send end is MOVING or in TRANSIT (R197). -/
def Chan.moving (c : Chan) (rcv : Bool) : Bool :=
  decide ((c.theEnd rcv).holder = .carrier) ||
  (if rcv then decide (c.moves ≠ []) || decide (1 < c.bufs.length) else c.sndMoving)

/-- The state word of an end (R211). -/
def statWord (s : State) (v : Word) : Word :=
  match findEnd s v with
  | none => 0xC000000000000000
  | some (id, rcv) =>
    match flook s.chans id with
    | none => 0xC000000000000000
    | some c =>
      let e := c.theEnd rcv
      let st := if !e.closed then 0 else if rcv || c.sndEnded then 2 else 1
      let fwd := c.bufs.any fun b => decide (3 ≤ b.phase)
      let count := if rcv then (if e.closed then 0 else (c.present.filter fun w => decide (c.recvCtr ≤ w.seq)).length)
        else if e.closed then c.closeCred else c.credits
      BitVec.ofNat 64 (st * 2 ^ 62 + (if e.dl then 2 ^ 61 else 0) + (if (c.theEnd (!rcv)).closed then 2 ^ 60 else 0) +
        (if !e.closed && c.moving rcv then 2 ^ 59 else 0) + (if fwd then 2 ^ 58 else 0) + min c.disc 0xFFFF * 2 ^ 40 +
        (if rcv then 2 ^ 32 else 0) + count % 2048 * 2 ^ 11 + c.depth)

/-- A closure of the end's channel that the core has sent is still on its way; a later message of the core to the anchor
does not overtake it (log entry 14). -/
def closing (s : State) (g : Nat) (v : Word) : Bool :=
  match findEnd s v with
  | none => false
  | some (id, _) => s.closures.any fun m => decide (m.chan = id) && decide (m.source.core = g)

/-- CHSTAT_REPLY (R211): the state word, read at the anchor, fills rd. -/
def execChstatReply (core ctx : Nat) (s : State) : Host.Outcome State Fault Refusal :=
  match nextReply s core ctx false with
  | none => event s
  | some r =>
    if closing s core r.v0 then event s else
    event (deliver { s with chReplies := s.chReplies.erase r } core ctx r.shadow r.rd (GReg.of (statWord s r.v0) false))

/-! ### Events -/

/-- The send end a word carries has been flushed to its anchor (R192). -/
def carriedFlushed (s : State) (w : ChWord) : Bool :=
  if w.tag && !w.val.getLsbD 63 then
    match findEnd s w.val with
    | some (id, _) =>
      match flook s.chans id with
      | some c => decide (c.sendState ≠ 1)
      | none => true
    | none => true
  else true

/-- The buffer that follows a buffer number in the chain. -/
def nextBuf : List ChBuf → Nat → Option ChBuf
  | a :: b :: r, id => if a.id = id then some b else nextBuf (b :: r) id
  | _, _ => none

/-- Put a word into the buffer with its number, and into its slot there. -/
def landWord (s : State) (id : Nat) (c : Chan) (w : ChWord) : State :=
  let s1 := match c.bufs.find? fun b => decide (b.id = w.dest) with
    | some b => storeSlot s b c.depth w
    | none => s
  s1.setChan id { c with bufs := c.bufs.map fun b => if b.id = w.dest then { b with words := b.words ++ [w] } else b }

/-- An end is held at a peer device from now on (R202); the words of a receive end follow it. -/
def heldAtPeer (s : State) (p id : Nat) (c : Chan) (rcv : Bool) : State :=
  let c1 := c.setEnd rcv { c.theEnd rcv with holder := .gone }
  s.setChan id (if rcv then { c1 with
      peer := some p, flight := (c.bufs.flatMap fun b => bufWords s c b) ++ c.flight, bufs := c.bufs.map fun b => { b with words := [] } }
    else { c1 with sndPeer := some p })

/-- The end that a word carries to a peer device is held there. -/
def toPeer (s : State) (p : Nat) (w : ChWord) : State :=
  if w.tag then
    match findEnd s w.val with
    | none => s
    | some (id, rcv) =>
      match flook s.chans id with
      | none => s
      | some c => heldAtPeer s p id c rcv
  else s

/-- The receive ends of a basin's channels that the atelier binds to a peer (R202): which of them is the atelier's choice, a free
one here (log entry 73). -/
def bindEnds (s : State) (b p : Nat) : List (Nat × Chan) → State
  | [] => s
  | (id, c) :: r =>
    if c.tenant = b ∧ c.rcv.closed = false ∧ c.peer = none then
      let s1 := { s with freeCtr := s.freeCtr + 1 }
      bindEnds (if Config.freeBool s.freeCtr then heldAtPeer s1 p id c true else s1) b p r
    else bindEnds s b p r

/-- A word leaves the part for a peer device, with the end it carries (R202). -/
def leaveWord (s : State) (id p : Nat) (c : Chan) (w : ChWord) : State :=
  sendPeer (toPeer (s.setChan id c) p w) (.peerWord p id w.val w.tag w.last)

/-- CHANNEL_WORD_DELIVERY (R189, R191, R202): a word reaches the buffer it was sent to, lands in its slot or is
forwarded; a word for a peer device leaves the part. -/
def execChannelWordDelivery (chan n : Nat) (s : State) : Host.Outcome State Fault Refusal :=
  match flook s.chans chan with
  | none => event s
  | some c =>
    match c.flight[n]? with
    | none => event s
    | some w =>
      let dc := ((c.bufs.find? fun b => decide (b.id = w.dest)).map fun b => b.core).getD c.rcv.core
      if !carriedFlushed s w || heldCore s w.acq.core (dc / 256) w.acq.mark then event s
      else
        let s := if towerOf w.acq.core = towerOf dc then s else keepReplay s (dc / 256) (.word chan w)
        let c0 := { c with flight := c.flight.eraseIdx n }
        match c.peer with
        | some p => event (leaveWord s chan p c0 w)
        | none =>
          let fwd := c.bufs.any fun b => decide (b.id = w.dest) && decide (3 ≤ b.phase)
          if fwd then
            match nextBuf c.bufs w.dest with
            | some b => event (s.setChan chan { c0 with flight := c0.flight ++ [{ w with dest := b.id }] })
            | none => event s
          else event (arriveEvent (landWord s chan c0 w) chan)

/-- RECV_FILL (R207): the word of the oldest outstanding RECV, or the closed status, fills its pair. -/
def execRecvFill (chan : Nat) (s : State) : Host.Outcome State Fault Refusal :=
  match flook s.chans chan with
  | none => event s
  | some c =>
    match c.recvs with
    | [] => event s
    | r :: rest =>
      match (c.wordAt r.seq).map fun w => (w, (c.bufs.getLast?.map fun b => slotWord s b c.depth w).getD w) with
      | some (w0, w) =>
        let bufs := c.bufs.map fun b => { b with words := b.words.erase w0 }
        let c1 := { c with recvs := rest, bufs := bufs, batch := c.batch + 1 }
        let c2 := if (c.depth + 3) / 4 ≤ c1.batch ∨ c1.present = [] then c1.flushBatch s.serial else c1
        let st := BitVec.ofNat 64 (r.seq % 2 ^ 32 * 2 ^ 32 + (if w.tag then 4 else 0) + (if w.last then 1 else 0))
        let s1 := fillPair (s.setChan chan c2) r w.val w.tag st (some w.acq)
        event (freeIfDone (takeWord s1 w.val w.tag r.core r.ctx) chan)
      | none =>
        match c.closeSeq with
        | some q =>
          if q ≤ r.seq then
            event (freeIfDone (fillPair (s.setChan chan { c with recvs := rest }) r 0 false (closedStatus q) c.closeAcq) chan)
          else event s
        | none => event s

/-- CREDIT_BATCH_RECEIVE (R187, R202): a batch reaches the send end's core, or the anchor that holds its state, which passes it
on to a peer device that holds the end. -/
def execCreditBatchReceive (chan : Nat) (s : State) : Host.Outcome State Fault Refusal :=
  match flook s.chans chan with
  | none => event s
  | some c =>
    match c.creditFlight with
    | [] => event s
    | (n, stamp) :: r =>
      let d := if c.sendState = 2 ∨ isAtelier c.snd.core = true then c.tower else towerOf c.snd.core
      if heldCore s c.rcv.core d stamp then event s
      else
        let s1 := s.setChan chan { c with creditFlight := r, credits := c.credits + n }
        let s2 := if isAtelier c.rcv.core = false ∧ towerOf c.rcv.core = d then s1 else keepReplay s1 d (.credit chan n stamp)
        event (match c.sndPeer with
          | some p => sendPeer s2 (.peerCredit p chan n)
          | none => s2)

/-- MOVE_REQUEST (R191 steps 1 and 2): the oldest move of a receive end takes its buffer when the pool has room, and
with the buffer reaches the anchor, which records the new core and orders the old one to forward. -/
def execMoveRequest (chan : Nat) (s : State) : Host.Outcome State Fault Refusal :=
  match flook s.chans chan with
  | none => event s
  | some c =>
    match c.moves with
    | [] => event s
    | (g, []) :: r =>
      if poolRoom s g (poolBlocks c.depth) then
        event (s.setChan chan { c with moves := (g, poolTake s g (poolBlocks c.depth)) :: r })
      else event s
    | (g, b) :: r =>
      let last := c.bufs.length - 1
      let old := c.bufs.zipIdx.map fun p => if p.2 = last then { p.1 with phase := 2 } else p.1
      event (arriveEvent (s.bump.setChan chan { c with
        moves := r, bufs := old ++ [⟨s.serial, g, 0, 0, [], b⟩], dest := if c.bufs = [] then s.serial else c.dest }) chan)

/-- Change the first buffer in a phase. -/
def stepBuf (l : List ChBuf) (phase : Nat) (f : ChBuf → ChBuf) : List ChBuf :=
  match l with
  | [] => []
  | b :: r => if b.phase = phase then f b :: r else b :: stepBuf r phase f

/-- FORWARD_ORDER (R191 step 3): the old core forwards its buffered words in sequence order and frees its slot
blocks. -/
def execForwardOrder (chan : Nat) (s : State) : Host.Outcome State Fault Refusal :=
  match flook s.chans chan with
  | none => event s
  | some c =>
    match c.bufs.find? fun b => decide (b.phase = 2) with
    | none => event s
    | some b =>
      match nextBuf c.bufs b.id with
      | none => event s
      | some d =>
        let ws := ((bufWords s c b).mergeSort fun x y => decide (x.seq ≤ y.seq)).map fun w => { w with dest := d.id }
        event (s.setChan chan { c with
          flight := c.flight ++ ws, bufs := stepBuf c.bufs 2 fun b => { b with phase := 3, words := [], blocks := b.blocks.take 1 } })

/-- RETARGET (R191 step 4): the send end's core, or the anchor that holds its state, sends to the new core from now on
and answers with the send counter. -/
def execRetarget (chan : Nat) (s : State) : Host.Outcome State Fault Refusal :=
  match flook s.chans chan with
  | none => event s
  | some c =>
    match c.bufs.find? fun b => decide (b.phase = 3) with
    | none => event s
    | some b =>
      match nextBuf c.bufs b.id with
      | none => event s
      | some d =>
        event (s.setChan chan { c with
          dest := if c.dest = b.id then d.id else c.dest, bufs := stepBuf c.bufs 3 fun b => { b with phase := 4, ret := c.sendCtr } })

/-- RETARGET_ANSWER (R191 step 4): the anchor passes the send counter to the old core. -/
def execRetargetAnswer (chan : Nat) (s : State) : Host.Outcome State Fault Refusal :=
  match flook s.chans chan with
  | none => event s
  | some c => event (s.setChan chan { c with bufs := stepBuf c.bufs 4 fun b => { b with phase := 5 } })

/-- RELOCATION_COMPLETE (R191 step 5): once the oldest core has forwarded every word below the answer, its entry is
freed, and the relocation is complete. -/
def execRelocationComplete (chan : Nat) (s : State) : Host.Outcome State Fault Refusal :=
  match flook s.chans chan with
  | none => event s
  | some c =>
    match c.bufs with
    | [] => event s
    | b :: r =>
      if b.phase = 5 ∧ (c.flight.any fun w => decide (w.dest = b.id)) = false then
        event (moveEvent (s.setChan chan { c with bufs := r }) chan false)
      else event s

/-- SEND_STATE_FLUSH (R192): a carried send end's state reaches its anchor. -/
def execSendStateFlush (chan : Nat) (s : State) : Host.Outcome State Fault Refusal :=
  match flook s.chans chan with
  | none => event s
  | some c => if c.sendState = 1 then event (s.setChan chan { c with sendState := 2 }) else event s

/-- SEND_STATE_FETCH_REPLY (R192, R193): the state reaches the new holder's core with the receive end's current core,
and the relocation is complete. -/
def execSendStateFetchReply (chan : Nat) (s : State) : Host.Outcome State Fault Refusal :=
  match flook s.chans chan with
  | none => event s
  | some c =>
    if c.sndMoving = true ∧ c.sendState = 2 then
      let d := (c.bufs.getLast?.map fun b => b.id).getD c.dest
      event (moveEvent (s.setChan chan { c with
        sndMoving := false, sendState := 0
        dest := d }) chan true)
    else event s

/-! ### Arrival interrupts (R200) -/

/-- The receive ends of a thread whose arrival interrupt is due (R199). -/
def dueEnds (s : State) (g k : Nat) : List (Nat × Chan) :=
  s.chans.filter fun p =>
    decide (p.2.rcv.holder = .thread g k) && p.2.rcv.sub.getLsbD 0 && !p.2.intDone && !p.2.rcv.closed &&
    (p.2.wordAt p.2.recvCtr).isSome

/-- The key by which due ends are chosen: INDEX, then SLOT (R200). -/
def dueKey (c : Chan) : Nat := c.rcv.sub.toNat / 2 ^ 14 % 16 * 2 ^ 20 + c.rcv.slot

/-- The entry of a list with the least key. -/
def leastDue : List (Nat × Chan) → Option (Nat × Chan)
  | [] => none
  | p :: r =>
    match leastDue r with
    | none => some p
    | some q => if dueKey p.2 ≤ dueKey q.2 then some p else some q

/-- A parked thread is at an instruction boundary: its instruction has had no effect yet and re-executes (R200, R309);
an operation that has set out is waited for (log entry 15). -/
def Park.open (p : Park) : Bool :=
  match p with
  | .atomic _ => false
  | .feOp _ => false
  | .lineTokens _ _ => false
  | .restore _ => false
  | _ => true

/-- The context stands at an instruction boundary. -/
def atBoundary (c : Ctx) : Bool :=
  decide (c.range = none) &&
  (match c.park with
   | none => true
   | some p => p.open)

/-- A stopped issue of a context goes on (R309). -/
def unstop (s : State) (g k : Nat) : State :=
  if (s.ctx g k).stop = some .saving then s.setCtx g k { s.ctx g k with stop := none } else s

/-- The issue of every listed save's context goes on. -/
def unstopAll (s : State) : List SaveReq → State
  | [] => s
  | r :: l => unstopAll (unstop s r.core r.ctx) l

/-- A thread gives up a PREEMPT that waits for its answer: it re-executes it later (R309). -/
def withdrawAsked (s : State) (g k : Nat) : State :=
  let mine (a : Nat × Nat × RegNo) : Bool := decide (a.1 = g) && decide (a.2.1 = k)
  let s1 := unstopAll s (s.saves.filter fun r => r.answer.any mine)
  { s1 with
    saves := s1.saves.filter fun r => !r.answer.any mine
    towers := s1.towers.map fun p =>
      (p.1, { p.2 with grids := p.2.grids.map fun q => (q.1, { q.2 with waiters := q.2.waiters.filter fun a => !mine a }) }) }

/-- A thread leaves its parked instruction (R200, R309): a load on its way is given up, and a parked TAKE frees its
deferred entry (R168), and a wait for the tile engine its place (R255), also one that has ended but was not used. -/
def leavePark (s : State) (g k : Nat) : State :=
  let s1 := match (s.ctx g k).park with
    | some (.answer _) => withdrawAsked s g k
    | some (.remote id) => { s with remotes := s.remotes.filter fun r => decide (r.id ≠ id) || r.store.isSome }
    | some (.takeDeferred owner off) =>
      s.setCore owner { s.core owner with
        takers := (s.core owner).takers.filter fun t => !(decide (t.off = off) && decide (t.core = g) && decide (t.ctx = k)) }
    | _ => s
  let t := (s1.core g).tile
  let s1 := s1.setCore g { s1.core g with tile := { t with waiters := t.waiters.filter fun w => decide (w ≠ k) } }
  s1.setCtx g k { s1.ctx g k with park := none, fetched := none, relMark := none, inval := none }

/-- The registers that the entry to an arrival-interrupt handler writes (R200). -/
def Ctx.interrupt (c : Ctx) (index : Nat) : Ctx :=
  { c with iepc := c.pc, ih := true, pc := c.ivec + BitVec.ofNat 64 (64 * index), park := none, fetched := none, relMark := none, inval := none }

/-- ARRIVAL_INTERRUPT_ENTRY (R200): the due end with the lowest INDEX, then SLOT, interrupts its holder. -/
def execArrivalInterruptEntry (core ctx : Nat) (s : State) : Host.Outcome State Fault Refusal :=
  let c := s.ctx core ctx
  match leastDue (dueEnds s core ctx) with
  | none => event s
  | some (id, ch) =>
    if alive s core ctx = true ∧ c.icount = 0 ∧ c.ih = false ∧ atBoundary c = true then
      let s1 := leavePark (s.setChan id { ch with intDone := true }) core ctx
      event (s1.setCtx core ctx ((s1.ctx core ctx).interrupt (ch.rcv.sub.toNat / 2 ^ 14 % 16)))
    else event s

/-! ### The deadlock probe (R201) -/

/-- The channel wait a thread is parked in, for credits or to read a register of a RECV pair: the channel and the end it waits
on. -/
def chanWait (s : State) (g k : Nat) : Option (Nat × Bool) :=
  match (s.ctx g k).park with
  | some (.credit id) => some (id, false)
  | some (.regs l) =>
    (s.chans.find? fun p => p.2.recvs.any fun r =>
      decide (r.core = g) && decide (r.ctx = k) &&
      l.any fun q => (q.1 == r.shadow) && (decide (q.2 = r.rd.toNat) || decide (q.2 = (pairOf r.rd).toNat))).map
      fun p => (p.1, true)
  | _ => none

/-- The thread at the end of a wait-for edge: the holder of the other end, if a thread on a core holds it. -/
def waitsOn (s : State) (id : Nat) (rcv : Bool) : Option (Nat × Nat) :=
  match flook s.chans id with
  | none => none
  | some c =>
    match (c.theEnd (!rcv)).holder with
    | .thread g k => if g < frameKey then some (g, k) else none
    | _ => none

/-- DL of an end. -/
def endDl (s : State) (id : Nat) (rcv : Bool) : Bool :=
  match flook s.chans id with
  | none => false
  | some c => (c.theEnd rcv).dl

/-- Set DL on every listed end. -/
def setDl (s : State) : List (Nat × Nat × Nat × Bool) → State
  | [] => s
  | (_, _, id, rcv) :: r =>
    match flook s.chans id with
    | none => setDl s r
    | some c => setDl (s.setChan id (c.setEnd rcv { c.theEnd rcv with dl := true })) r

/-- A participant word of a DEADLOCK record (R308): the SLOT of the waited-on end and the global context number. -/
def partWord (s : State) (p : Nat × Nat × Nat × Bool) : Word :=
  let slot := match flook s.chans p.2.2.1 with
    | some c => (c.theEnd p.2.2.2).slot
    | none => 0
  BitVec.ofNat 64 (slot * 2 ^ 16 + gctx p.1 p.2.1)

/-- DEADLOCK_PROBE_START (R201): a thread parked on a channel wait for PROBEINT starts a probe, unless PROBEINT is 0 or
its end is known to be in a cycle. -/
def execDeadlockProbeStart (core ctx : Nat) (s : State) : Host.Outcome State Fault Refusal :=
  match chanWait s core ctx with
  | none => event s
  | some (id, rcv) =>
    if (s.core core).probeint = 0 ∨ endDl s id rcv = true then event s
    else
      match waitsOn s id rcv with
      | none => event s
      | some (g, k) => event { s with probes := s.probes ++ [⟨core, ctx, [(core, ctx, id, rcv)], g, k⟩] }

/-- PROBE_HOP (R201): a probe reaches a thread: it has come back to its origin, follows that thread's own wait, or is
dropped. -/
def execProbeHop (n : Nat) (s : State) : Host.Outcome State Fault Refusal :=
  match s.probes[n]? with
  | none => event s
  | some p =>
    let s0 := { s with probes := s.probes.eraseIdx n }
    if p.toCore = p.core ∧ p.toCtx = p.ctx then
      match p.path with
      | [] => event s0
      | a :: others =>
        let s1 := latchBits (setDl s0 p.path) p.core p.ctx 0x8000000000000000
        event (post s1 ⟨faultQueueOf s1 (faultBasin s1 p.core (s1.ctx p.core p.ctx).mode), 3, causeDEADLOCK, 0,
          gctx p.core p.ctx, 0, 0, partWord s a, (others.take 16).map (partWord s), none⟩)
    else
      match chanWait s p.toCore p.toCtx with
      | none => event s0
      | some (id, rcv) =>
        match waitsOn s id rcv with
        | none => event s0
        | some (g, k) =>
          if 64 ≤ p.path.length then event s0
          else event { s0 with probes := s0.probes ++ [{ p with path := p.path ++ [(p.toCore, p.toCtx, id, rcv)], toCore := g, toCtx := k }] }

/-- Close every channel with an end at a peer, as if the remote end had closed. -/
def closePeer (s : State) (peer : Nat) : List (Nat × Chan) → State
  | [] => s
  | (id, _) :: r =>
    match flook s.chans id with
    | none => closePeer s peer r
    | some c =>
      let s1 := if c.peer = some peer ∧ c.rcv.closed = false then closeRecv s id c none else s
      match flook s1.chans id with
      | none => closePeer s1 peer r
      | some c1 => closePeer (if c1.sndPeer = some peer ∧ c1.snd.closed = false then closeSend s1 id c1 none else s1) peer r

/-- The channel that a peer device's message names, when the peer holds its send end, or its receive end. -/
def peersEnd (s : State) (p id : Nat) (rcv : Bool) : Option Chan :=
  (flook s.chans id).bind fun c => if (if rcv then c.peer else c.sndPeer) = some p ∧ (c.theEnd rcv).closed = false then some c else none

/-- The proxy anchor record of a receive end that has come from a peer device (R202), on a tower of the part's choice (log entry
6): its send end is the peer's, and its buffer is taken when a thread takes the end. -/
def makeProxy (s : State) (p tenant depth rights : Nat) : State × Chan :=
  let (i, s1) := freeBelow s (presentTowers s).length
  let t := (presentTowers s).getD i 0
  let l := usedSlots s1 t
  let (n, s2) := freeBelow s1 (2 ^ 20)
  let a := freeSlot l n l.length
  let b := freeSlot (a :: l) (a + 1) (l.length + 1)
  let mk (slot : Nat) (h : Holder) : ChEnd :=
    ⟨slot, fget 1 s2.slotReuse (t * 2 ^ 20 + slot), rights % 16, h, 4095, 0, false, false, false, 0⟩
  let c : Chan := {
    tower := t, depth := depth, tenant := tenant, snd := mk a .gone, rcv := mk b .carrier
    sendCtr := 0, recvCtr := 0, credits := depth, openPkt := 0, sendState := 0, sndMoving := false, dest := s2.serial
    bufs := [], moves := [], flight := [], batch := 0, creditFlight := [], recvs := []
    closeSeq := none, closeCred := 0, closeAcq := none, disc := 0, evDone := false, intDone := false, peer := none, sndPeer := some p }
  (s2.bump.setChan s2.serial c, c)

/-- A word comes from a peer device for a channel whose send end the peer holds (R202): it goes to the buffer as any word does, and
one that carries a receive end holds the handle of its proxy. The transport keeps it while the channel has no credit or no
buffer. -/
def peerWord (s : State) (p id : Nat) (v : Word) (last : Bool) (carried : Option (Nat × Nat)) : State :=
  match peersEnd s p id false with
  | none => s
  | some c =>
    if c.credits = 0 ∨ c.bufs = [] then s
    else
      let (x, s1) : (Word × Bool) × State := match carried with
        | none => ((v, false), s)
        | some (depth, rights) => let q := makeProxy s p c.tenant depth rights; ((q.2.handle true, true), q.1)
      s1.bump.setChan id { c with
        sendCtr := c.sendCtr + 1, credits := c.credits - 1, flight := c.flight ++ [⟨c.sendCtr, x.1, x.2, last, ⟨0, 0, true⟩, c.dest⟩] }

/-- Credits come back from a peer device for words that have left for it (R187, R202). -/
def peerCredit (s : State) (p id n : Nat) : State :=
  match peersEnd s p id true with
  | some c => s.setChan id { c with creditFlight := c.creditFlight ++ [(n, s.serial)] }
  | none => s

/-- A peer device has closed the end that it holds (R194, R202). -/
def peerCloses (s : State) (p id : Nat) : State :=
  match peersEnd s p id true, peersEnd s p id false with
  | some c, _ => closeRecv s id c none
  | none, some c => closeSend s id c none
  | none, none => s

/-- PEER_UNREACHABLE (R202): every channel with an end at the peer closes here, and its words are discarded. -/
def execPeerUnreachable (peer : Nat) (s : State) : Host.Outcome State Fault Refusal := event (closePeer s peer s.chans)

end Sys2Proof.Machine
end

