-- ==== Sys2Proof/Machine/Rings.lean ====
section
/-! DEFINITION. Rings (R281 to R286 of spec/21_copy_engine_and_rings.md) and the ring instructions (R279, R281 of
spec/19_tile_engine.md). -/

namespace Sys2Proof.Machine

/-- An unconfigured ring (R282). -/
def Ring.zero : Ring := ⟨0, 0, 0, 0, 0⟩

/-- A ring of a core. -/
def Core.ring (c : Core) (m : Nat) : Ring := fget Ring.zero c.rings m

/-- Write a ring of a core. -/
def Core.setRing (c : Core) (m : Nat) (r : Ring) : Core := { c with rings := fset c.rings m r }

/-- The occupied slots of a ring (R284). -/
def Ring.occupied (r : Ring) : Int :=
  if r.tail / 256 = r.head / 256 then ((r.tail % 256 : Nat) : Int) - (r.head % 256 : Nat)
  else (r.slots : Int) - (r.head % 256 : Nat) + (r.tail % 256 : Nat)

/-- A pointer advanced by n slots (R283). -/
def advancePtr (slots p n : Nat) : Nat :=
  let i := p % 256 + n
  let ph := p / 256 % 2
  if slots ≤ i then (1 - ph) * 256 + (i - slots) else ph * 256 + i

/-- The pending pushes or pops of a ring (R237, R285). -/
def Core.pending (c : Core) (m : Nat) (push : Bool) : Nat := (c.resv.filter fun r => decide (r.ring = m) && (r.push == push)).length

/-- The pointer block of a ring is kept (R286). -/
def blockKept (c : Core) (r : Ring) : Bool :=
  decide (0x10000 + 64 ≤ r.base) && decide (r.base ≤ c.units * 65536) &&
  (decide (r.base ≤ c.savebase.toNat) || decide (c.savebase.toNat + c.savesize.toNat ≤ r.base - 64))

/-- Write the pointer block of a ring (R286). -/
def writeBlock (s : State) (g m : Nat) : State :=
  let c := s.core g
  let r := c.ring m
  if blockKept c r then writeSpad s g (r.base - 64) (leBytes 8 r.head ++ leBytes 8 r.tail) else s

/-- Advance a pointer of a ring by n slots, and write its block (R283, R286). -/
def advanceRing (s : State) (g m : Nat) (push : Bool) (n : Nat) : State :=
  let c := s.core g
  let r := c.ring m
  let r' := if push then { r with tail := advancePtr r.slots r.tail n } else { r with head := advancePtr r.slots r.head n }
  writeBlock (s.setCore g (c.setRing m r')) g m

/-- Reserve n advances of one pointer (R285). -/
def reserve (c : Core) (owner m : Nat) (push vec : Bool) (n : Nat) : Core :=
  { c with resv := c.resv ++ List.replicate n ⟨owner, m, push, vec, false⟩ }

/-- The ready reserved advances, in order, none of which follows an unready one of its pointer, nor a copy's push its pop
(R291); and the rest. -/
def readyOf : List Resv → List (Nat × Bool) → List Nat → List Resv × List Resv
  | [], _, _ => ([], [])
  | r :: l, blocked, late =>
    if r.ready && !blocked.contains (r.ring, r.push) && (r.vec || !late.contains r.owner) then
      let p := readyOf l blocked late
      (r :: p.1, p.2)
    else
      let p := readyOf l ((r.ring, r.push) :: blocked) (r.owner :: late)
      (p.1, r :: p.2)

/-- Make every listed advance. -/
def makeAll (s : State) (g : Nat) : List Resv → State
  | [] => s
  | r :: l => makeAll (advanceRing s g r.ring r.push 1) g l

/-- The reserved advances of an owner are ready; every one that waits for no earlier one is made (R285). -/
def makeReady (s : State) (g owner : Nat) : State :=
  let c := s.core g
  let p := readyOf (c.resv.map fun r => if r.owner = owner then { r with ready := true } else r) [] []
  makeAll (s.setCore g { c with resv := p.2 }) g p.1

/-- An owner has reserved advances that have not been made. -/
def Core.owes (c : Core) (owner : Nat) : Bool := c.resv.any fun r => decide (r.owner = owner)

/-- The scratchpad that R236 permits to a mode: n bytes from offset o. An empty save area takes none of it (R127). -/
def spadPermits (c : Core) (md : Mode) (o n : Nat) : Bool :=
  decide (o + n ≤ c.units * 65536) &&
  (match md with
   | .m => true
   | .s => decide (0x10000 ≤ o)
   | .u => decide (0x10000 ≤ o) && (decide (c.savesize = 0) || decide (o + n ≤ c.savebase.toNat) || decide (c.savebase.toNat + c.savesize.toNat ≤ o)))

/-- Every byte of a ring's slots lies in the scratchpad the mode permits (R261, R295). -/
def ringPermits (c : Core) (md : Mode) (r : Ring) : Bool := spadPermits c md r.base (r.slots * r.size)

/-- TVAL of an ENGINE trap with a tile or ring reason (R269). -/
def engineVal (reason item : Nat) : Word := BitVec.ofNat 64 (2 ^ 63 + reason * 2 ^ 48 + item)

/-- The ring is in use (R281): by a queued TMMA, by pending advances of a vector instruction, or as the push ring of a
copy in flight. -/
def ringBusy (c : Core) (m : Nat) : Bool :=
  (c.tile.queue.any fun t => decide (t.set.ra = m) || decide (t.set.rb = m)) ||
  (c.resv.any fun r => decide (r.ring = m) && r.vec) ||
  c.copies.any fun x => x.desc[9].getLsbD 16 && decide (x.desc[9].toNat / 2 ^ 17 % 8 = m)

/-- RINGSET accepts a value for a field (R281). -/
def ringAccepts (r : Ring) (field v : Nat) : Bool :=
  match field with
  | 0 => decide (v % 64 = 0) && decide (v < 0x400000)
  | 1 => decide (v % 64 = 0) && decide (64 ≤ v) && decide (v ≤ 0x10000)
  | 2 => decide (1 ≤ v) && decide (v ≤ 256)
  | _ => decide (v / 2 ^ 9 = 0) && decide (v % 256 < r.slots)

/-- A ring with a field written (R281). -/
def Ring.write (r : Ring) (field v : Nat) : Ring :=
  match field with
  | 0 => { r with base := v, head := 0, tail := 0 }
  | 1 => { r with size := v, head := 0, tail := 0 }
  | 2 => { r with slots := v, head := 0, tail := 0 }
  | 3 => { r with head := v }
  | _ => { r with tail := v }

/-- A field of a ring (R33). -/
def Ring.read (r : Ring) (field : Nat) : Nat :=
  match field with
  | 0 => r.base
  | 1 => r.size
  | 2 => r.slots
  | 3 => r.head
  | _ => r.tail

/-- RINGSET (R281): Writes a field of a ring that is not in use. -/
def execRingset (o : Fld) (s : State) : Host.Outcome State Fault Refusal :=
  finish s (gate s o.useSrc fun s =>
    let c := s.myCore
    let m := o.s.toNat
    let v := (s.g o.g).toNat
    if !ringAccepts (c.ring m) o.i.toNat v then .trap causeENGINE (engineVal 2 o.i.toNat)
    else if ringBusy c m then .trap causeENGINE (engineVal 5 m)
    else .done (writeBlock (s.setMyCore (c.setRing m ((c.ring m).write o.i.toNat v))) s.cur.1 m).next4)

/-- RINGGET (R281): Reads a field of a ring. -/
def execRingget (o : Fld) (s : State) : Host.Outcome State Fault Refusal :=
  finish s (gate s o.useDst fun s =>
    .done (s.put o.g (BitVec.ofNat 64 ((s.myCore.ring o.s.toNat).read o.i.toNat))).next4)

/-- RINGPUSH and RINGPOP (R279): a release at core scope (R285). -/
def ringMove (o : R3) (push : Bool) (s : State) : Host.Outcome State Fault Refusal :=
  finish s (gate s o.use fun s =>
    let m := (s.g o.a).toNat
    let n := (s.g o.b).toNat
    let r := s.myCore.ring m
    if 7 < m then .trap causeENGINE (engineVal 2 0)
    else if n < 1 ∨ r.slots < n then .trap causeENGINE (engineVal 2 0)
    else
      releaseAt s 1 fun s =>
        if push = true ∧ r.slots < r.occupied + n then .trap causeENGINE (engineVal 6 m)
        else if push = false ∧ r.occupied < n then .trap causeENGINE (engineVal 7 m)
        else
          let s1 := advanceRing s s.cur.1 m push n
          let r1 := s1.myCore.ring m
          .done (s1.put o.d (BitVec.ofNat 64 (if push then r1.tail else r1.head))).next4)

/-- RINGPUSH (R279): Advances a ring's tail. -/
def execRingpush (o : R3) (s : State) : Host.Outcome State Fault Refusal := ringMove o true s
/-- RINGPOP (R279): Advances a ring's head. -/
def execRingpop (o : R3) (s : State) : Host.Outcome State Fault Refusal := ringMove o false s

end Sys2Proof.Machine
end

