-- ==== Sys2Proof/Machine/Vec.lean ====
section
/-! DEFINITION. Streams and the vector unit (R229 to R254 of spec/17_vector_and_streams.md; R212, R217, R222 to R228 of
spec/15_number_formats.md). -/

namespace Sys2Proof.Machine

/-! ### Streams (R232 to R235) -/

/-- The length T of a stream (R232). -/
def Stream.total (x : Stream) : Nat := x.ext.toList.foldl (· * ·) 1

/-- A broadcast stream (R235): its five strides are zero. -/
def Stream.broadcast (x : Stream) : Bool := x.stride.toList.all fun v => decide (v = 0)

/-- RINGV, RING, STOP and FMT of a stream's mode (R233). -/
def Stream.ringv (x : Stream) : Bool := x.mode.getLsbD 15
/-- RING. -/
def Stream.ringNo (x : Stream) : Nat := x.mode.toNat / 2 ^ 12 % 8
/-- STOP. -/
def Stream.stop (x : Stream) : Bool := x.mode.getLsbD 4
/-- FMT. -/
def Stream.fmt (x : Stream) : Nat := x.mode.toNat % 16

/-- The sum of index × stride over the dimensions for position n (R235). -/
def strideSum : List (Nat × Word) → Nat → Int
  | [], _ => 0
  | (e, v) :: r, n => ((n % max 1 e : Nat) : Int) * v.toInt + strideSum r (n / max 1 e)

/-- The offset of the vector at position n (R235). -/
def Stream.offset (x : Stream) (n : Nat) : Int := (x.base.toNat : Int) + strideSum (x.ext.toList.zip x.stride.toList) n

/-- STRSET accepts a value for a field (R232 to R234). -/
def Stream.accepts (x : Stream) (field : Nat) (v : Word) : Bool :=
  let n := v.toNat
  match field with
  | 0 => decide (n % 64 = 0) && decide (n ≤ 0x3FFFC0)
  | 1 => decide (n / 2 ^ 16 = 0) && decide (n / 2 ^ 5 % 2 ^ 7 = 0) && decide (n % 16 ≤ 11) && !(v.getLsbD 15 && v.getLsbD 4)
  | 12 => decide (n + (if x.stop then 0 else 1) ≤ x.total)
  | i =>
    if i % 2 = 0 then
      decide (1 ≤ n) && decide (n ≤ 65536) && decide (x.total / max 1 (x.ext.getD (i / 2 - 1) 1) * n ≤ 2 ^ 32)
    else decide (v.toInt % 64 = 0) && decide (-0x400000 ≤ v.toInt) && decide (v.toInt ≤ 0x3FFFC0)

/-- A stream with a field written; any field but pos rewinds it (R234). -/
def Stream.write (x : Stream) (field : Nat) (v : Word) : Stream :=
  match field with
  | 0 => { x with base := v, pos := 0 }
  | 1 => { x with mode := v, pos := 0 }
  | 12 => { x with pos := v.toNat }
  | i =>
    if i % 2 = 0 then { x with ext := x.ext.setIfInBounds (i / 2 - 1) v.toNat, pos := 0 }
    else { x with stride := x.stride.setIfInBounds (i / 2 - 1) v, pos := 0 }

/-- A field of a stream (R254). -/
def Stream.read (x : Stream) (field : Nat) : Word :=
  match field with
  | 0 => x.base
  | 1 => x.mode
  | 12 => BitVec.ofNat 64 x.pos
  | i => if i % 2 = 0 then BitVec.ofNat 64 (x.ext.getD (i / 2 - 1) 1) else x.stride.getD (i / 2 - 1) 0

/-- A stream of a context. -/
def Ctx.stream (c : Ctx) (n : BitVec 3) : Stream := c.streams[n.toNat]'(n.isLt)

/-- Write a stream of a context. -/
def Ctx.setStream (c : Ctx) (n : BitVec 3) (x : Stream) : Ctx := { c with streams := c.streams.set n.toNat x (n.isLt) }

/-- TVAL of a STREAM trap (R239). OFFSET is the low 22 bits of the offending offset, which may be negative or longer (DESIGN CHOICE,
log entry 85). -/
def streamVal (n : BitVec 3) (reason : Nat) (off : Int) : Word :=
  BitVec.ofNat 64 (n.toNat * 2 ^ 56 + reason * 2 ^ 48) ||| (BitVec.ofInt 22 off).zeroExtend 64

/-- STRSET (R254): Writes a stream field under its limits. -/
def execStrset (o : Fld) (s : State) : Host.Outcome State Fault Refusal :=
  finish s (gate s o.useSrc fun s =>
    let x := s.me.stream o.s
    if x.accepts o.i.toNat (s.g o.g) then .done (s.setMe (s.me.setStream o.s (x.write o.i.toNat (s.g o.g)))).next4
    else .trap causeSTREAM (streamVal o.s 5 o.i.toNat))

/-- STRGET (R254): Reads a stream field. -/
def execStrget (o : Fld) (s : State) : Host.Outcome State Fault Refusal :=
  finish s (gate s o.useDst fun s => .done (s.put o.g ((s.me.stream o.s).read o.i.toNat)).next4)

/-- STRREW (R251): Rewinds a stream. -/
def execStrrew (o : Fn) (s : State) : Host.Outcome State Fault Refusal :=
  finish s (gate s ⟨[], [], []⟩ fun s => .done (s.setMe (s.me.setStream o.s { s.me.stream o.s with pos := 0 })).next4)

/-- STRADV (R252): Advances a stream without delivering its vectors. -/
def execStradv (o : Sg) (s : State) : Host.Outcome State Fault Refusal :=
  finish s (gate s o.use fun s =>
    let x := s.me.stream o.s
    let n := (s.g o.g).toNat
    let t := x.total
    if x.broadcast then .done s.next4
    else if x.ringv && decide (t ≤ x.pos + n) then .trap causeSTREAM (streamVal o.s 6 0)
    else
      let pos := if x.stop then min (x.pos + n) t else (x.pos + n) % max 1 t
      .done (s.setMe (s.me.setStream o.s { x with pos := pos })).next4)

/-! ### Issue (R236, R237) -/

/-- A use of a stream by a vector instruction: the stream's number, whether it is the destination, and the vectors it
supplies or takes. -/
structure VUse where
  n : BitVec 3
  dst : Bool
  k : Nat
  deriving DecidableEq, Repr

/-- A stream as the instruction takes it at issue: a ring-bound one from the tail slot on as a destination, from the
head slot on as a source, beyond the pending advances (R237). -/
def takeStream (c : Core) (n : BitVec 3) (x : Stream) (dst : Bool) : VOp :=
  if x.ringv then
    let r := c.ring x.ringNo
    let p := (if dst then r.tail else r.head) % 256 + c.pending x.ringNo dst
    ⟨n, x, r.base, r.size, r.slots, if r.slots = 0 then 0 else p % r.slots⟩
  else ⟨n, x, 0, 0, 0, 0⟩

/-- The scratchpad offset of the vector that follows position pos by n. -/
def VOp.offset (v : VOp) (n : Nat) : Int :=
  if v.st.broadcast then
    (if v.st.ringv then ((v.base + v.slot0 * v.size : Nat) : Int) else 0) + v.st.base.toNat
  else
    let p := v.st.pos + n
    let t := max 1 v.st.total
    if v.st.ringv then ((v.base + (v.slot0 + p / t) % max 1 v.slots * v.size : Nat) : Int) + v.st.offset (p % t)
    else v.st.offset (if v.st.stop then p else p % t)

/-- The slots an instruction touches through a stream (R237): a broadcast stream stays at its base, in one slot (R235, log
entry 72). -/
def slotsUsed (x : Stream) (k : Nat) : Nat := if k = 0 then 0 else if x.broadcast then 1 else (x.pos + k - 1) / max 1 x.total + 1

/-- The number of times a stream's position wraps over k vectors. -/
def wraps (x : Stream) (k : Nat) : Nat := if x.broadcast then 0 else (x.pos + k) / max 1 x.total

/-- The different positions among k vectors: one for a broadcast stream. -/
def distinct (x : Stream) (k : Nat) : Nat := if x.broadcast then min 1 k else k

/-- How far a stream's offsets reach from its base over all its positions (R235): downwards, or upwards. -/
def Stream.reach (x : Stream) (up : Bool) : Int :=
  (List.range 5).foldl (fun a d =>
    let span := ((max 1 (x.ext.getD d 1) : Nat) - 1 : Int) * (x.stride.getD d 0).toInt
    a + if up then max 0 span else min 0 span) 0

/-- Every offset of the stream, plus 64, lies within the slot, and the ring holds the slots touched (R237 Fit, of every
position of the stream: log entry 72). -/
def fits (v : VOp) (k : Nat) : Bool :=
  decide (v.slots ≠ 0) && decide (slotsUsed v.st k ≤ v.slots) &&
  decide (0 ≤ (v.st.base.toNat : Int) + v.st.reach false) && decide ((v.st.base.toNat : Int) + v.st.reach true + 64 ≤ v.size)

/-- The first of k vectors that lies outside the scratchpad the mode permits (R236). -/
def rangeFault (c : Core) (md : Mode) (v : VOp) (k : Nat) : Option Int :=
  ((List.range (distinct v.st k)).find? fun i =>
    !(decide (0 ≤ v.offset i) && spadPermits c md (v.offset i).toNat 64)).map v.offset

/-- The check of one use of a stream (R236): the reason and the offset of the failure. -/
def checkUse (c : Core) (md : Mode) (x : Stream) (u : VUse) : Option (Nat × Int) :=
  let v := takeStream c u.n x u.dst
  if x.stop && !x.broadcast && decide (x.total < x.pos + u.k) then some (1, 0)
  else if x.ringv && !fits v u.k then some (4, 0)
  else
    match rangeFault c md v u.k with
    | some o => some (2, o)
    | none => none

/-- The first failing use, as TVAL. -/
def checkUses (c : Core) (x : Ctx) : List VUse → Option Word
  | [] => none
  | u :: r =>
    match checkUse c x.mode (x.stream u.n) u with
    | some (reason, o) => some (streamVal u.n reason o)
    | none => checkUses c x r

/-- A ring-bound use lacks slots (R237 Parking). -/
def lacksSlots (c : Core) (x : Stream) (u : VUse) : Bool :=
  if x.ringv then
    let r := c.ring x.ringNo
    let n : Int := slotsUsed x u.k
    if u.dst then decide ((r.slots : Int) < r.occupied + c.pending x.ringNo true + n)
    else decide (r.occupied - c.pending x.ringNo false < n)
  else false

/-- A stream's position after k vectors (R235). -/
def Stream.advance (x : Stream) (k : Nat) : Stream :=
  if x.broadcast then x
  else if x.stop then { x with pos := min (x.pos + k) x.total }
  else { x with pos := (x.pos + k) % max 1 x.total }

/-- The most vectors any use of a stream takes. -/
def mostOf (us : List VUse) (n : BitVec 3) : Nat := (us.filter fun u => decide (u.n = n)).foldl (fun a u => max a u.k) 0

/-- Reserve the pushes and pops of every use, one set for each stream and direction (R237, R285). -/
def reserveUses (c : Core) (x : Ctx) (owner : Nat) : List VUse → List (BitVec 3 × Bool) → Core
  | [], _ => c
  | u :: r, seen =>
    let st := x.stream u.n
    if st.ringv && !seen.contains (u.n, u.dst) then
      reserveUses (reserve c owner st.ringNo u.dst true (wraps st u.k)) x owner r ((u.n, u.dst) :: seen)
    else reserveUses c x owner r seen

/-- Advance every stream that is used, once (R236). -/
def advanceUses (x : Ctx) (us : List VUse) : List (BitVec 3) → Ctx
  | [] => x
  | n :: r => advanceUses (if us.any (fun u => decide (u.n = n)) then x.setStream n ((x.stream n).advance (mostOf us n)) else x) us r

/-- The eight streams. -/
def allStreams : List (BitVec 3) := [0, 1, 2, 3, 4, 5, 6, 7]

/-- A vector instruction as its word names it: function code, format, destination, sources, predicate, and VSPLAT's
value. -/
structure VIns where
  op : Nat
  fmt : Nat
  d : BitVec 3
  srcs : List (BitVec 3)
  m : Bool
  splat : Word
  deriving DecidableEq, Repr

/-- A reduction (R246). -/
def VIns.reduces (i : VIns) : Bool := decide (0x1C ≤ i.op) && decide (i.op ≤ 0x1E)

/-- The steps of an instruction (R236): the rest of the destination's run, or of the source's for a reduction. -/
def VIns.steps (i : VIns) (x : Ctx) : Nat :=
  let st := x.stream (if i.reduces then i.srcs.headD 0 else i.d)
  max 1 (st.ext.getD 0 1) - st.pos % max 1 (st.ext.getD 0 1)

/-- The source is also the destination, one stream (R236). -/
def VIns.shared (i : VIns) : Bool := i.srcs.contains i.d

/-- The vectors a source supplies over L steps (R236, R245 VUNPACK, R249 VXCVT). -/
def VIns.srcCount (i : VIns) (l : Nat) : Nat :=
  if i.op = 0x1B then (if i.shared then l else (l + 1) / 2) else if i.op = 0x21 then 4 * l else l

/-- The uses in the order of the checks: sd, the sources, s7 (R236). -/
def VIns.uses (i : VIns) (l : Nat) : List VUse :=
  ⟨i.d, true, if i.reduces then 1 else l⟩ :: (i.srcs.map fun n => ⟨n, false, i.srcCount l⟩) ++
  (if i.m then [⟨7, false, l⟩] else [])

/-- The pairs of formats of a conversion, source to destination (R245). -/
def pairOk (op src dst : Nat) : Bool :=
  match op with
  | 0x19 => (decide (src = dst) && decide (src ≤ 8)) || ([0, 5, 8].contains src && [0, 5, 8].contains dst) ||
      ([1, 2, 4, 7].contains src && [1, 2, 4, 7].contains dst) || ([3, 6].contains src && [3, 6].contains dst)
  | 0x1A => (decide (src = 0) && [1, 2].contains dst) || ([5, 8].contains src && [4, 7].contains dst) ||
      ([4, 7].contains src && [3, 6].contains dst)
  | 0x1B => ([1, 2].contains src && decide (dst = 0)) || (decide (src = 4) && decide (dst = 5)) ||
      (decide (src = 7) && decide (dst = 8)) || (decide (src = 3) && decide (dst = 4)) || (decide (src = 6) && decide (dst = 7))
  | _ => true

/-- The first stream whose format a conversion refuses (R239, R245): sa for a pair that is not listed, sb for a format other
than sa's. -/
def VIns.badFormat (i : VIns) (x : Ctx) : Option (BitVec 3) :=
  if 0x19 ≤ i.op ∧ i.op ≤ 0x1B then
    let sa := i.srcs.headD 0
    let f := (x.stream sa).fmt
    if pairOk i.op f i.fmt then i.srcs.find? fun n => decide ((x.stream n).fmt ≠ f) else some sa
  else none

/-- The address by which the executing thread's mode names an offset of its own scratchpad (R139, R140). -/
def ownAddr (s : State) (off : Nat) : Word :=
  BitVec.ofNat 64 ((if s.me.mode = .m then windowOf s.cur.1 else 0x00F0000000000000) + off)

/-- The first vector of the destination that meets a protected part of a live frame (R310, R231: a vector write is a store
of the thread; log entry 41). -/
def VIns.protectedVec (i : VIns) (c : Core) (x : Ctx) (l : Nat) : Option Nat :=
  let v := takeStream c i.d (x.stream i.d) true
  ((List.range (distinct v.st (if i.reduces then 1 else l))).map fun k => (v.offset k).toNat).find? fun o => protectedAt c o 64

/-- Issue of a vector instruction (R236). -/
def vecIssue (s : State) (i : VIns) : Eff :=
  let c := s.myCore
  let x := s.me
  if 4 ≤ (c.vjobs.filter fun j => decide (j.ctx = s.cur.2)).length then .park s .vector
  else
    let l := i.steps x
    let us := i.uses l
    match checkUses c x us with
    | some v => .trap causeSTREAM v
    | none =>
      match i.badFormat x with
      | some n => .trap causeSTREAM (streamVal n 3 0)
      | none =>
       match i.protectedVec c x l with
       | some o => .trap causeSTOREF (ownAddr s o)
       | none =>
        if us.any fun u => lacksSlots c (x.stream u.n) u then .park s .vector
        else
          let job : VJob := {
            id := s.serial, ctx := s.cur.2, op := i.op, fmt := i.fmt, sfmt := (x.stream (i.srcs.headD 0)).fmt
            rm := x.fpctl.extractLsb' 8 2, mask := if i.m then some (takeStream c 7 (x.stream 7) false) else none
            dst := takeStream c i.d (x.stream i.d) true, srcs := i.srcs.map fun n => takeStream c n (x.stream n) false
            shared := i.shared, splat := i.splat, total := l, step := 0, started := false, flags := 0, lanes := [], recent := [] }
          let c1 := reserveUses c x s.serial us []
          let s1 := s.bump.setMyCore { c1 with vjobs := c1.vjobs ++ [job] }
          .done (s1.setMe (advanceUses x us allStreams)).next4

/-! ### Elements (R212, R213, R217, R224, R242 to R249) -/

/-- The element width in bits of a format code (R28); ni and b1 work on single bits. -/
def fmtBits (f : Nat) : Nat :=
  match f with
  | 0 => 32
  | 1 => 16
  | 2 => 16
  | 3 => 8
  | 4 => 16
  | 5 => 32
  | 6 => 8
  | 7 => 16
  | 8 => 32
  | 9 => 128
  | _ => 1

/-- The elements per vector of a format. -/
def fmtCount (f : Nat) : Nat := 512 / fmtBits f

/-- A floating-point format. -/
def isFloat (f : Nat) : Bool := decide (f ≤ 2)
/-- A signed integer format. -/
def isSigned (f : Nat) : Bool := decide (3 ≤ f) && decide (f ≤ 5)

/-- The parameters of a floating-point format. -/
def ffmtOf (f : Nat) : FFmt :=
  match f with
  | 0 => fp32
  | 1 => bf16
  | _ => fp16

/-- Element j of width w bits of a vector read as one number (R212). -/
def elemAt (v w j : Nat) : Nat := v / 2 ^ (w * j) % 2 ^ w

/-- The elements of a vector. -/
def elems (f : Nat) (bs : List Byte) : List Nat :=
  let v := leNat bs
  (List.range (fmtCount f)).map fun j => elemAt v (fmtBits f) j

/-- An integer element's value in its format (R217). -/
def intOf (f v : Nat) : Int :=
  let w := fmtBits f
  if isSigned f && decide (2 ^ (w - 1) ≤ v) then (v : Int) - (2 ^ w : Nat) else v

/-- A value wrapped to w bits. -/
def wrapTo (w : Nat) (x : Int) : Nat := (x % (2 ^ w : Nat)).toNat

/-- The range of an integer format (R217). -/
def intLo (f : Nat) : Int := if isSigned f then -(2 ^ (fmtBits f - 1) : Nat) else 0
/-- The largest value of an integer format. -/
def intHi (f : Nat) : Int := if isSigned f then (2 ^ (fmtBits f - 1) : Nat) - 1 else (2 ^ fmtBits f : Nat) - 1
/-- A value clamped to an integer format. -/
def clampTo (f : Nat) (x : Int) : Int := if x < intLo f then intLo f else if intHi f < x then intHi f else x

/-- The signed value of an x128 element in units of 2^−64 (R224). -/
def x128Of (v : Nat) : Int := if 2 ^ 127 ≤ v then (v : Int) - (2 ^ 128 : Nat) else v

/-- An exact x128 sum saturated (R225). -/
def x128Sat (t : Int) : Nat × FFlags :=
  if (2 ^ 127 : Nat) ≤ t then (2 ^ 127 - 1, flagXS)
  else if t < -(2 ^ 127 : Nat) then (2 ^ 127, flagXS)
  else (wrapTo 128 t, 0)

/-- An integer element result. -/
def intRes (f : Nat) (x : Int) : Nat × FFlags := (wrapTo (fmtBits f) x, 0)

/-- The smaller or larger of two integer elements. -/
def intPick (f : Nat) (mx : Bool) (a b : Nat) : Nat :=
  if mx then (if intOf f b ≤ intOf f a then a else b) else (if intOf f a ≤ intOf f b then a else b)

/-- A quotient under R217. -/
def intQuot (x y : Int) : Int := if y = 0 then -1 else Int.tdiv x y

/-- The floating-point element-wise instructions (R242). -/
def floatElem (op f : Nat) (rm : RMode) (a b c : Nat) : Nat × FFlags :=
  let t := ffmtOf f
  let va := decodeF t a
  let vb := decodeF t b
  match op with
  | 0x00 => addV t rm va vb
  | 0x01 => subV t rm va vb
  | 0x02 => mulV t rm va vb
  | 0x03 => fmaV t rm va vb (decodeF t c)
  | 0x04 => divV t rm va vb
  | 0x05 => minMaxF t false a b
  | 0x06 => minMaxF t true a b
  | 0x07 => (negAbsF t true a, 0)
  | 0x08 => (negAbsF t false a, 0)
  | 0x09 => sqrtV t rm va
  | 0x0A => divV t rm (.fin false 1 0) va
  | _ => exp2V t rm va

/-- The integer element-wise instructions (R242). -/
def intElem (op f : Nat) (a b c : Nat) : Nat × FFlags :=
  let w := fmtBits f
  let x := intOf f a
  let y := intOf f b
  match op with
  | 0x00 => intRes f (x + y)
  | 0x01 => intRes f (x - y)
  | 0x02 => intRes f (x * y)
  | 0x03 => intRes f (x * y + intOf f c)
  | 0x04 => intRes f (intQuot x y)
  | 0x05 => (intPick f false a b, 0)
  | 0x06 => (intPick f true a b, 0)
  | 0x07 => intRes f x.natAbs
  | 0x08 => intRes f (-x)
  | 0x0C => intRes f (clampTo f (x + y))
  | 0x0D => intRes f (clampTo f (x - y))
  | 0x0E => intRes f (x * y / (2 ^ w : Nat))
  | 0x0F => intRes f ((a * 2 ^ (b % w) : Nat) : Int)
  | 0x10 => (a / 2 ^ (b % w), 0)
  | _ => intRes f ((if 2 ^ (w - 1) ≤ a then (a : Int) - (2 ^ w : Nat) else a) / (2 ^ (b % w) : Nat))

/-- VSACC's element (R222, R247): d + s × c, rounded once to nearest even. -/
def saccElem (c s d : Nat) : Nat × FFlags :=
  let ci := intOf 5 c
  fmaV fp32 .rne (decodeF fp32 s) (.fin (decide (ci < 0)) ci.natAbs 0) (decodeF fp32 d)

/-- One converted element (R245). -/
def convElem (src dst : Nat) (rm : RMode) (v : Nat) : Nat × FFlags :=
  if isFloat src then
    if isFloat dst then convF (ffmtOf dst) rm (decodeF (ffmtOf src) v)
    else
      let r := floatToInt rm (intLo dst) (intHi dst) (decodeF (ffmtOf src) v)
      (wrapTo (fmtBits dst) r.1, r.2)
  else if isFloat dst then intToFloat (ffmtOf dst) rm (intOf src v)
  else (wrapTo (fmtBits dst) (clampTo dst (intOf src v)), 0)

/-- An element-wise result by function code (R242 to R244, R247). -/
def elemOp (op f : Nat) (rm : RMode) (a b c : Nat) : Nat × FFlags :=
  match op with
  | 0x12 => (a &&& b, 0)
  | 0x13 => (a ||| b, 0)
  | 0x14 => (a ^^^ b, 0)
  | 0x1F => saccElem a b c
  | 0x22 => (a, 0)
  | _ =>
    if f = 9 then x128Sat (if op = 0x01 then x128Of a - x128Of b else x128Of a + x128Of b)
    else if isFloat f then floatElem op f rm a b c
    else intElem op f a b c

/-- The relation of a comparison (R243). -/
def cmpElem (op f a b : Nat) : Bool × FFlags :=
  if isFloat f then cmpF (ffmtOf f) (op - 0x15) a b
  else
    match op with
    | 0x15 => (decide (a = b), 0)
    | 0x16 => (decide (intOf f a < intOf f b), 0)
    | _ => (decide (intOf f a ≤ intOf f b), 0)

/-- VXACC's accumulator (R248): the lanes in order from l, n of them; an exponent out of range saturates and ends. -/
def xaccLanes (cs es : List Nat) (on : Nat → Bool) : Nat → Nat → Int → Nat × FFlags
  | 0, _, t => x128Sat t
  | n + 1, l, t =>
    let c := intOf 5 (cs.getD l 0)
    let e := intOf 5 (es.getD l 0)
    if on l = true ∧ c ≠ 0 then
      if e < -64 ∨ 31 < e then (if c < 0 then 2 ^ 127 else 2 ^ 127 - 1, flagXS)
      else xaccLanes cs es on n (l + 1) (t + c * (2 ^ (e + 64).toNat : Nat))
    else xaccLanes cs es on n (l + 1) t

/-- VXCVT's element (R226): an x128 value to fp32, to nearest even; only inexact is raised. -/
def xcvtElem (v : Nat) : Nat × FFlags :=
  let x := x128Of v
  let r := roundF fp32 .rne (decide (x < 0)) x.natAbs (-64)
  (r.1, r.2 &&& flagNX)

/-- An element widened exactly to fp32, a signalling NaN staying signalling (R228). -/
def widen (f v : Nat) : Nat :=
  let t := ffmtOf f
  match decodeF t v with
  | .nan _ => signBit fp32 (decide (v / 2 ^ (t.fb + t.eb) % 2 = 1)) + 255 * 2 ^ 23 + v % 2 ^ t.fb * 2 ^ (23 - t.fb)
  | x => (convF fp32 .rne x).1

/-! ### Reductions (R228, R246) -/

/-- Combine two lists of values, flags ORed. -/
def zipFlags (g : Nat → Nat → Nat × FFlags) : List Nat → List Nat → List Nat × FFlags
  | a :: l, b :: r =>
    let p := zipFlags g l r
    let q := g a b
    (q.1 :: p.1, q.2 ||| p.2)
  | _, _ => ([], 0)

/-- The halving tree of R228 over lanes, h lanes at the present level. -/
def treeSum (g : Nat → Nat → Nat × FFlags) : Nat → List Nat → FFlags → List Nat × FFlags
  | 0, l, fl => (l, fl)
  | n + 1, l, fl =>
    let h := l.length / 2
    if h = 0 then (l, fl)
    else
      let p := zipFlags g (l.take h) (l.drop h)
      treeSum g n p.1 (fl ||| p.2)

/-- The addition of a reduction's lanes (R228). -/
def addLane (f : Nat) (rm : RMode) (a b : Nat) : Nat × FFlags :=
  if isFloat f then addV fp32 rm (decodeF fp32 a) (decodeF fp32 b) else ((a + b) % 2 ^ fmtBits f, 0)

/-- A source element as it enters VRADD (R228, R246): masked-off elements are zeros. -/
def laneIn (f : Nat) (rm : RMode) (on : Bool) (v : Nat) : Nat :=
  if isFloat f then (if on then widen f v else if rm = .rdn then 2 ^ 31 else 0) else if on then v else 0

/-- VRMAX and VRMIN over one more vector: the extreme so far, if any. -/
def extremeFold (f : Nat) (mx : Bool) : List (Bool × Nat) → List Nat → FFlags → List Nat × FFlags
  | [], acc, fl => (acc, fl)
  | (on, v) :: r, acc, fl =>
    if on then
      match acc with
      | [] => extremeFold f mx r [v] fl
      | a :: _ =>
        if isFloat f then
          let q := minMaxF (ffmtOf f) mx a v
          extremeFold f mx r [q.1] (fl ||| q.2)
        else extremeFold f mx r [intPick f mx a v] fl
    else extremeFold f mx r acc fl

/-- The result of VRMAX or VRMIN when every element is masked off (R246). -/
def extremeNone (f : Nat) (mx : Bool) : Nat :=
  if isFloat f then encInf (ffmtOf f) mx else wrapTo (fmtBits f) (if mx then intLo f else intHi f)

/-- The value a reduction writes to element 0. -/
def reduceEnd (op f : Nat) (rm : RMode) (lanes : List Nat) : Nat × FFlags :=
  if op = 0x1C then
    let p := treeSum (addLane f rm) 10 lanes 0
    let v := p.1.headD 0
    if isFloat f && decide (f ≠ 0) then
      let q := convF (ffmtOf f) rm (decodeF fp32 v)
      (q.1, p.2 ||| q.2)
    else (v, p.2)
  else
    match lanes with
    | [] => (extremeNone f (decide (op = 0x1D)), 0)
    | v :: _ => (if isFloat f && (decodeF (ffmtOf f) v).isNan then canonNaN (ffmtOf f) else v, 0)

/-! ### Execution (R230, R238, R240) -/

/-- An 8-byte unit of the core's scratchpad as step i of an instruction reads it (R240): a unit that one of the last
seven steps wrote reads as written or as it was before the instruction, a free choice (log entry 6), also when an earlier step has
written it too (DESIGN CHOICE, log entry 86). -/
def readUnit (s : State) (g : Nat) (j : VJob) (off : Nat) : List Byte × State :=
  let now := readSpad s g off 8
  match (j.recent.takeWhile fun r => decide (j.step - r.1 < 8)).find? fun r => decide (r.2.1 = off) with
  | none => (now, s)
  | some r => (if Config.freeBool s.freeCtr then now else r.2.2, { s with freeCtr := s.freeCtr + 1 })

/-- n units from an offset, in one step. -/
def readUnits (s : State) (g : Nat) (j : VJob) (off : Nat) : Nat → List Byte × State
  | 0 => ([], s)
  | n + 1 =>
    let p := readUnit s g j off
    let q := readUnits p.2 g j (off + 8) n
    (p.1 ++ q.1, q.2)

/-- The vector a stream delivers, n positions on. -/
def readVec (s : State) (g : Nat) (j : VJob) (v : VOp) (n : Nat) : List Byte × State :=
  readUnits s g j (v.offset n).toNat 8

/-- The vectors of every listed stream, n positions on. A stream named more than once delivers one vector to every field (R236):
`seen` holds those already read. A broadcast stream is read anew in every step (DESIGN CHOICE, log entry 84). -/
def readVecs (s : State) (g : Nat) (j : VJob) (n : Nat) : List (BitVec 3 × List Byte) → List VOp → List (List Byte) × State
  | _, [] => ([], s)
  | seen, v :: r =>
    match seen.find? fun p => decide (p.1 = v.n) with
    | some p =>
      let q := readVecs s g j n seen r
      (p.2 :: q.1, q.2)
    | none =>
      let p := readVec s g j v n
      let q := readVecs p.2 g j n ((v.n, p.1) :: seen) r
      (p.1 :: q.1, q.2)

/-- Consecutive vectors of one stream. -/
def readRun (s : State) (g : Nat) (j : VJob) (v : VOp) (n : Nat) : Nat → List (List Byte) × State
  | 0 => ([], s)
  | c + 1 =>
    let p := readVec s g j v n
    let q := readRun p.2 g j v (n + 1) c
    (p.1 :: q.1, q.2)

/-- VSPLAT's vector (R253). -/
def splatBytes (f : Nat) (v : Word) : List Byte :=
  let w := fmtBits f
  if w = 1 then List.replicate 64 (if v.getLsbD 0 then 0xFF else 0)
  else if w = 128 then (List.replicate 4 (List.replicate 8 (0 : Byte) ++ leBytes 8 v.toNat)).flatten
  else (List.replicate (512 / w) (leBytes (w / 8) (v.toNat % 2 ^ w))).flatten

/-- The elements of a result and the flags of those that are computed: masked-off elements are none (R238). -/
def mapFlags (g : Nat → Nat × FFlags) (on : Nat → Bool) : List Nat → List (Option Nat) × FFlags
  | [] => ([], 0)
  | j :: r =>
    let p := mapFlags g on r
    if on j then
      let q := g j
      (some q.1 :: p.1, q.2 ||| p.2)
    else (none :: p.1, p.2)

/-- The destination elements of one step, their format, and the flags (R242 to R249). -/
def stepElems (j : VJob) (vs : List (List Byte)) (on : Nat → Bool) : List (Option Nat) × Nat × FFlags :=
  let rm := RMode.ofCode j.rm
  let f := j.fmt
  let a := vs.getD 0 []
  let b := vs.getD 1 []
  let c := vs.getD 2 []
  let idx := List.range (fmtCount f)
  match j.op with
  | 0x15 | 0x16 | 0x17 =>
    let ea := elems f a
    let eb := elems f b
    let r := mapFlags (fun k => let q := cmpElem j.op f (ea.getD k 0) (eb.getD k 0); ((if q.1 then 1 else 0), q.2)) on idx
    (r.1 ++ List.replicate (512 - fmtCount f) (some 0), 11, r.2)
  | 0x18 =>
    let ea := elems f a
    let eb := elems f b
    let mc := leNat c
    let r := mapFlags (fun k => (if mc / 2 ^ k % 2 = 1 then ea.getD k 0 else eb.getD k 0, 0)) on idx
    (r.1, f, r.2)
  | 0x19 =>
    let ea := elems j.sfmt a
    let r := mapFlags (fun k => convElem j.sfmt f rm (ea.getD k 0)) on idx
    (r.1, f, r.2)
  | 0x1A =>
    let ea := elems j.sfmt a ++ elems j.sfmt b
    let r := mapFlags (fun k => convElem j.sfmt f rm (ea.getD k 0)) on idx
    (r.1, f, r.2)
  | 0x1B =>
    let ea := (elems j.sfmt a).drop (j.step % 2 * fmtCount f)
    let r := mapFlags (fun k => convElem j.sfmt f rm (ea.getD k 0)) on idx
    (r.1, f, r.2)
  | 0x20 =>
    let cs := elems 5 a
    let es := elems 5 b
    let ac := elems 9 c
    let r := mapFlags (fun k => xaccLanes cs es on 4 (4 * k) (x128Of (ac.getD k 0))) (fun _ => true) (List.range 4)
    (r.1, 9, r.2)
  | 0x21 =>
    let xs := vs.flatMap (elems 9)
    let r := mapFlags (fun k => xcvtElem (xs.getD k 0)) on idx
    (r.1, 0, r.2)
  | 0x23 =>
    let ea := elems f a
    let eb := elems f b
    let r := mapFlags (fun k => (ea.getD (eb.getD k 0 % fmtCount f) 0, 0)) on idx
    (r.1, f, r.2)
  | 0x1F =>
    let ea := elems 5 a
    let eb := elems 0 b
    let ec := elems 0 c
    let r := mapFlags (fun k => saccElem (ea.getD k 0) (eb.getD k 0) (ec.getD k 0)) on idx
    (r.1, 0, r.2)
  | _ =>
    let ea := elems f a
    let eb := elems f b
    let ec := elems f c
    let r := mapFlags (fun k => elemOp j.op f rm (ea.getD k 0) (eb.getD k 0) (ec.getD k 0)) on idx
    (r.1, f, r.2)

/-- A bit of a byte replaced where the result has one. -/
def mergeBits (old : Nat) : List (Option Nat) → Nat → Nat
  | [], _ => 0
  | b :: r, i => (match b with
      | some v => v % 2
      | none => old / 2 ^ i % 2) * 2 ^ i + mergeBits old r (i + 1)

/-- The bytes of a result as (offset in the vector, bytes) parts; masked-off elements have none. -/
def partsOf (w : Nat) (old : List Byte) : Nat → List (Option Nat) → List (Nat × List Byte)
  | _, [] => []
  | k, e :: r =>
    if w = 1 then
      -- one byte of eight bits at a time
      (if k % 8 = 0 then
        let eight := (e :: r).take 8
        if eight.any Option.isSome then [(k / 8, [BitVec.ofNat 8 (mergeBits (old.getD (k / 8) 0).toNat eight 0)])] else []
       else []) ++ partsOf w old (k + 1) r
    else
      (match e with
       | some v => [(k * (w / 8), leBytes (w / 8) v)]
       | none => []) ++ partsOf w old (k + 1) r

/-- Write parts of a vector, clearing the tags of the words they touch (R231). -/
def writeParts (s : State) (g off : Nat) : List (Nat × List Byte) → State
  | [] => s
  | (o, bs) :: r => writeParts (writeSpad s g (off + o) bs) g off r

/-- The 8-byte units of a vector that parts of it touch, with their present bytes. -/
def unitsTouched (s : State) (g off : Nat) (parts : List (Nat × List Byte)) : List (Nat × List Byte) :=
  ((List.range 8).filter fun i => parts.any fun p => decide (p.1 < 8 * i + 8) && decide (8 * i < p.1 + p.2.length)).map
    fun i => (off + 8 * i, readSpad s g (off + 8 * i) 8)

/-- The units that a step writes join those the instruction has written, newest first, each with its bytes before the
instruction (R240). -/
def VJob.remember (j : VJob) (us : List (Nat × List Byte)) : VJob :=
  { j with recent := us.map (fun u =>
      (j.step, u.1, match j.recent.find? fun r => decide (r.2.1 = u.1) with
        | some r => r.2.2
        | none => u.2)) ++ j.recent }

/-- The position of a source in a step. -/
def VJob.srcPos (j : VJob) : Nat := if j.op = 0x1B ∧ j.shared = false then j.step / 2 else if j.op = 0x21 then 4 * j.step else j.step

/-- One step of the running instruction of core g (R229, R230). -/
def vecStep (s : State) (g : Nat) (j : VJob) : State × VJob :=
  let (mk, s0) := match j.mask with
    | some v => readVec s g j v j.step
    | none => (List.replicate 64 (0xFF : Byte), s)
  let mv := leNat mk
  let on := fun k => decide (mv / 2 ^ k % 2 = 1)
  let (vs, s1) := if j.op = 64 then ([], s0)
    else if j.op = 0x21 then readRun s0 g j (j.srcs.headD j.dst) j.srcPos 4
    else readVecs s0 g j j.srcPos (if j.mask.isSome && decide (j.srcPos = j.step) then [(7, mk)] else []) j.srcs
  if 0x1C ≤ j.op ∧ j.op ≤ 0x1E then
    let ea := elems j.fmt (vs.getD 0 [])
    let rm := RMode.ofCode j.rm
    let (lanes, fl) :=
      if j.op = 0x1C then
        let ins := (List.range (fmtCount j.fmt)).map fun k => laneIn j.fmt rm (on k) (ea.getD k 0)
        if j.step = 0 then (ins, (0 : FFlags)) else zipFlags (addLane j.fmt rm) j.lanes ins
      else extremeFold j.fmt (decide (j.op = 0x1D)) ((List.range (fmtCount j.fmt)).map fun k => (on k, ea.getD k 0)) j.lanes 0
    let j1 := { j with lanes := lanes, flags := j.flags ||| fl, step := j.step + 1 }
    if j1.step < j.total then (s1, j1)
    else
      let r := reduceEnd j.op j.fmt rm lanes
      let w := fmtBits j.fmt / 8
      let bytes := leBytes w r.1 ++ List.replicate (64 - w) (0 : Byte)
      (writeSpad s1 g (j.dst.offset 0).toNat bytes, { j1 with flags := j1.flags ||| r.2 })
  else
    let off := (j.dst.offset j.step).toNat
    if j.op = 64 then (writeSpad s1 g off (splatBytes j.fmt j.splat), { j with step := j.step + 1 })
    else
      let (es, f, fl) := stepElems j vs on
      let parts := partsOf (fmtBits f) (readSpad s1 g off 64) 0 es
      let j1 := j.remember (unitsTouched s1 g off parts)
      (writeParts s1 g off parts, { j1 with step := j.step + 1, flags := j.flags ||| fl })

/-- VECTOR_EXECUTION_START (R229, R230): the unit begins the oldest accepted instruction, once the one before it has
made all its steps, with its first step. -/
def execVectorExecutionStart (core : Nat) (s : State) : Host.Outcome State Fault Refusal :=
  let c := s.core core
  match c.vjobs.find? fun j => !j.started with
  | none => event s
  | some j =>
    if c.vjobs.any fun k => k.started && decide (k.step < k.total) then event s
    else
      let p := vecStep s core { j with started := true }
      let c1 := p.1.core core
      event (p.1.setCore core { c1 with vjobs := c1.vjobs.map fun k => if k.id = j.id then p.2 else k })

/-- An instruction has made all its steps. -/
def VJob.ended (j : VJob) : Bool := j.started && decide (j.total ≤ j.step)

/-- The advances of every instruction that has made its steps are ready (R237). -/
def readyDone (s : State) (g : Nat) : List VJob → State
  | [] => s
  | j :: r => readyDone (if j.ended && visibleAt s 1 g j.id then makeReady s g j.id else s) g r

/-- The first instruction that has ended and whose advances have been made, no earlier one of its thread being
outstanding (R216). -/
def firstDone (c : Core) : List VJob → List Nat → Option VJob
  | [], _ => none
  | j :: r, before =>
    if j.ended && !c.owes j.id && !before.contains j.ctx then some j else firstDone c r (j.ctx :: before)

/-- VECTOR_COMPLETION (R230, R237, R216): the running instruction makes its next step; after its last, its ring advances are
ready, and once they have been made its flags reach FPCTL and it is complete. -/
def execVectorCompletion (core : Nat) (s : State) : Host.Outcome State Fault Refusal :=
  let c := s.core core
  match c.vjobs.find? fun j => j.started && decide (j.step < j.total) with
  | some j =>
    let p := vecStep s core j
    let c1 := p.1.core core
    event (p.1.setCore core { c1 with vjobs := c1.vjobs.map fun k => if k.id = j.id then p.2 else k })
  | none =>
    let s1 := readyDone s core c.vjobs
    let c1 := s1.core core
    match firstDone c1 c1.vjobs [] with
    | none => event s1
    | some j =>
      let s2 := s1.setCore core { c1 with vjobs := c1.vjobs.filter fun k => decide (k.id ≠ j.id) }
      let x := s2.ctx core j.ctx
      event (s2.setCtx core j.ctx { x with fpctl := fpctlOr x.fpctl j.flags })

/-! ### The instructions (R241 to R249, R253) -/

/-- A vector instruction: no general register, then R236. -/
def vecInstr (i : VIns) (s : State) : Host.Outcome State Fault Refusal :=
  finish s (gate s ⟨[], [], []⟩ fun s => vecIssue s i)

/-- A two-source instruction. -/
def vec3 (op : Nat) (o : V3) (s : State) : Host.Outcome State Fault Refusal :=
  vecInstr ⟨op, o.f.toNat, o.d, [o.a, o.b], o.m, 0⟩ s
/-- A three-source instruction. -/
def vec4 (op : Nat) (o : V4) (s : State) : Host.Outcome State Fault Refusal :=
  vecInstr ⟨op, o.f.toNat, o.d, [o.a, o.b, o.c], o.m, 0⟩ s
/-- A one-source instruction. -/
def vec2 (op : Nat) (o : V2) (s : State) : Host.Outcome State Fault Refusal :=
  vecInstr ⟨op, o.f.toNat, o.d, [o.a], o.m, 0⟩ s

/-- VADD (R242): Adds elements, saturating exactly for x128. -/
def execVadd (o : V3) (s : State) : Host.Outcome State Fault Refusal := vec3 0x00 o s
/-- VSUB (R242): Subtracts elements. -/
def execVsub (o : V3) (s : State) : Host.Outcome State Fault Refusal := vec3 0x01 o s
/-- VMUL (R242): Multiplies elements. -/
def execVmul (o : V3) (s : State) : Host.Outcome State Fault Refusal := vec3 0x02 o s
/-- VFMA (R242): Fused multiply-add of elements. -/
def execVfma (o : V4) (s : State) : Host.Outcome State Fault Refusal := vec4 0x03 o s
/-- VDIV (R242): Divides elements. -/
def execVdiv (o : V3) (s : State) : Host.Outcome State Fault Refusal := vec3 0x04 o s
/-- VMIN (R242): Element minimum. -/
def execVmin (o : V3) (s : State) : Host.Outcome State Fault Refusal := vec3 0x05 o s
/-- VMAX (R242): Element maximum. -/
def execVmax (o : V3) (s : State) : Host.Outcome State Fault Refusal := vec3 0x06 o s
/-- VABS (R242): Element absolute value. -/
def execVabs (o : V2) (s : State) : Host.Outcome State Fault Refusal := vec2 0x07 o s
/-- VNEG (R242): Element negation. -/
def execVneg (o : V2) (s : State) : Host.Outcome State Fault Refusal := vec2 0x08 o s
/-- VSQRT (R242): Element square root. -/
def execVsqrt (o : V2) (s : State) : Host.Outcome State Fault Refusal := vec2 0x09 o s
/-- VRCP (R242): Element reciprocal. -/
def execVrcp (o : V2) (s : State) : Host.Outcome State Fault Refusal := vec2 0x0A o s
/-- VEXP2 (R242): Element power of two. -/
def execVexp2 (o : V2) (s : State) : Host.Outcome State Fault Refusal := vec2 0x0B o s
/-- VADDS (R242): Saturating addition. -/
def execVadds (o : V3) (s : State) : Host.Outcome State Fault Refusal := vec3 0x0C o s
/-- VSUBS (R242): Saturating subtraction. -/
def execVsubs (o : V3) (s : State) : Host.Outcome State Fault Refusal := vec3 0x0D o s
/-- VMULHI (R242): Upper half of the exact product. -/
def execVmulhi (o : V3) (s : State) : Host.Outcome State Fault Refusal := vec3 0x0E o s
/-- VSHL (R242): Shifts elements left. -/
def execVshl (o : V3) (s : State) : Host.Outcome State Fault Refusal := vec3 0x0F o s
/-- VSHR (R242): Shifts elements right with zeros. -/
def execVshr (o : V3) (s : State) : Host.Outcome State Fault Refusal := vec3 0x10 o s
/-- VSRA (R242): Shifts elements right with the sign. -/
def execVsra (o : V3) (s : State) : Host.Outcome State Fault Refusal := vec3 0x11 o s
/-- VAND (R242): Bitwise and. -/
def execVand (o : V3) (s : State) : Host.Outcome State Fault Refusal := vec3 0x12 o s
/-- VOR (R242): Bitwise or. -/
def execVor (o : V3) (s : State) : Host.Outcome State Fault Refusal := vec3 0x13 o s
/-- VXOR (R242): Bitwise exclusive or. -/
def execVxor (o : V3) (s : State) : Host.Outcome State Fault Refusal := vec3 0x14 o s
/-- VCMPEQ (R243): Compares for equality into a mask vector. -/
def execVcmpeq (o : V3) (s : State) : Host.Outcome State Fault Refusal := vec3 0x15 o s
/-- VCMPLT (R243): Compares for less than into a mask vector. -/
def execVcmplt (o : V3) (s : State) : Host.Outcome State Fault Refusal := vec3 0x16 o s
/-- VCMPLE (R243): Compares for less than or equal into a mask vector. -/
def execVcmple (o : V3) (s : State) : Host.Outcome State Fault Refusal := vec3 0x17 o s
/-- VSEL (R243): Selects elements by a mask vector. -/
def execVsel (o : V4) (s : State) : Host.Outcome State Fault Refusal := vec4 0x18 o s
/-- VCVT (R245): Converts elements of one width. -/
def execVcvt (o : V2) (s : State) : Host.Outcome State Fault Refusal := vec2 0x19 o s
/-- VPACK (R245): Converts two vectors to half the width. -/
def execVpack (o : V3) (s : State) : Host.Outcome State Fault Refusal := vec3 0x1A o s
/-- VUNPACK (R245): Converts halves of a vector to twice the width. -/
def execVunpack (o : V2) (s : State) : Host.Outcome State Fault Refusal := vec2 0x1B o s
/-- VRADD (R246): Sums a run in the lane order. -/
def execVradd (o : V2) (s : State) : Host.Outcome State Fault Refusal := vec2 0x1C o s
/-- VRMAX (R246): The maximum of a run. -/
def execVrmax (o : V2) (s : State) : Host.Outcome State Fault Refusal := vec2 0x1D o s
/-- VRMIN (R246): The minimum of a run. -/
def execVrmin (o : V2) (s : State) : Host.Outcome State Fault Refusal := vec2 0x1E o s
/-- VSACC (R247): Scales i32 values and accumulates them in fp32. -/
def execVsacc (o : Va) (s : State) : Host.Outcome State Fault Refusal := vecInstr ⟨0x1F, 0, o.d, [o.a, o.b, o.c], o.m, 0⟩ s
/-- VXACC (R248): Accumulates scaled i32 values exactly in x128. -/
def execVxacc (o : Va) (s : State) : Host.Outcome State Fault Refusal :=
  finish s (capsGate s (.vxacc o) 9 (gate s ⟨[], [], []⟩ fun s => vecIssue s ⟨0x20, 9, o.d, [o.a, o.b, o.c], o.m, 0⟩))
/-- VXCVT (R249): Converts x128 values to fp32. -/
def execVxcvt (o : Vx) (s : State) : Host.Outcome State Fault Refusal :=
  finish s (capsGate s (.vxcvt o) 9 (gate s ⟨[], [], []⟩ fun s => vecIssue s ⟨0x21, 0, o.d, [o.a], o.m, 0⟩))
/-- VCOPY (R244): Copies elements. -/
def execVcopy (o : V2) (s : State) : Host.Outcome State Fault Refusal := vec2 0x22 o s
/-- VPERM (R244): Permutes the elements of a vector. -/
def execVperm (o : V3) (s : State) : Host.Outcome State Fault Refusal := vec3 0x23 o s

/-- VSPLAT (R253): Fills the rest of a run with a register's value. -/
def execVsplat (o : Sg) (s : State) : Host.Outcome State Fault Refusal :=
  finish s (gate s o.use fun s => vecIssue s ⟨64, (s.me.stream o.s).fmt, o.s, [], false, s.g o.g⟩)

end Sys2Proof.Machine
end

