-- ==== Sys2Proof/Machine/Tile.lean ====
section
/-! DEFINITION. The tile engine (R255 to R280 of spec/19_tile_engine.md; R219 to R221 of spec/15_number_formats.md). -/

namespace Sys2Proof.Machine

/-! ### State and settings -/

/-- Write the tile engine of a core. -/
def State.setTile (s : State) (g : Nat) (t : Tile) : State := s.setCore g { s.core g with tile := t }

/-- The elements of an accumulator, row by row (R258). -/
def Tile.acc (t : Tile) (n : Nat) : List (BitVec 32) := fget (List.replicate 1024 0) t.accs n

/-- An accumulator is FULL when no queued TMMA names it (R264). -/
def Tile.isFull (t : Tile) (n : Nat) : Bool := !(t.queue.any fun q => decide (q.acc = n))

/-- A field of the settings (R256). -/
def TileSet.get (x : TileSet) (i : Nat) : Nat :=
  match i with
  | 0 => x.mode
  | 1 => x.semi
  | 2 => x.pa
  | 3 => x.pb
  | 4 => x.ra
  | _ => x.rb

/-- Write a field of the settings. -/
def TileSet.put (x : TileSet) (i v : Nat) : TileSet :=
  match i with
  | 0 => { x with mode := v }
  | 1 => { x with semi := v }
  | 2 => { x with pa := v }
  | 3 => { x with pb := v }
  | 4 => { x with ra := v }
  | _ => { x with rb := v }

/-- TSET accepts a value for a field (R256). -/
def setAccepts (i v : Nat) : Bool :=
  match i with
  | 0 => decide (v ≤ 1)
  | 1 => decide (v ≤ 4)
  | 2 => decide (1 ≤ v) && decide (v ≤ 8)
  | 3 => decide (1 ≤ v) && decide (v ≤ 8)
  | _ => decide (v ≤ 7)

/-- The settings form a combination of R257. -/
def TileSet.legal (x : TileSet) : Bool :=
  if x.mode = 0 then decide (x.semi = 0) || (decide (x.semi = 4) && decide (x.pa = 1) && decide (x.pb = 1))
  else decide (x.semi ≤ 3)

/-- The bytes of an A tile that a K-step reads (R261). -/
def TileSet.aBytes (x : TileSet) : Nat := if x.mode = 1 then 1024 else if x.semi = 4 then 512 else 512 * x.pa
/-- The bytes of a B tile that a K-step reads. -/
def TileSet.bBytes (x : TileSet) : Nat := if x.mode = 1 then 1024 else if x.semi = 4 then 512 else 512 * x.pb

/-- The identity of a semiring (R260). -/
def identityOf (semi : Nat) : BitVec 32 :=
  match semi with
  | 1 => 0x7FFFFFFF
  | 2 => 0x80000000
  | 3 => 0x80000000
  | _ => 0

/-- The status word (R270). -/
def Tile.status (t : Tile) : Word :=
  let full := ((List.range 4).map fun n => if t.isFull n then 2 ^ n else 0).sum
  BitVec.ofNat 64 (full * 2 ^ 20 + t.queue.length * 2 ^ 16 + t.ov.toNat * 2 ^ 12 +
    (match t.binder with
     | some k => 16 + k
     | none => 0))

/-! ### Semirings (R219 to R221, R259) -/

/-- A bit of a plane of an ni tile (R219). -/
def planeBit (tile p i : Nat) : Nat := tile / 2 ^ (4096 * p + i) % 2

/-- The value v_k of a code of an ni tile, from its first k planes (R220): the planes from p on. -/
def prefixVal (tile i : Nat) : Nat → Nat → Int → Int
  | 0, _, acc => acc
  | n + 1, p, acc => prefixVal tile i n (p + 1) (2 * acc + (if p = 0 then -(planeBit tile p i : Int) else planeBit tile p i))

/-- An i16 element of a word tile (R258). -/
def wordElem (tile i : Nat) : Int := (BitVec.ofNat 16 (tile / 2 ^ (16 * i))).toInt

/-- The sum of products over the K dimension of a K-step (R221, R259): the first n of the values. -/
def dotSum (fa fb : Nat → Int) : Nat → Int
  | 0 => 0
  | n + 1 => dotSum fa fb n + fa n * fb n

/-- The least of init and f k over k below n. -/
def minOver (f : Nat → Int) (init : Int) : Nat → Int
  | 0 => init
  | n + 1 => min (minOver f init n) (f n)

/-- The greatest of init and f k over k below n. -/
def maxOver (f : Nat → Int) (init : Int) : Nat → Int
  | 0 => init
  | n + 1 => max (maxOver f init n) (f n)

/-- x ⊕ y of min-plus (R259). -/
def minPlus (x y : Int) : Int := if x = 32767 ∨ y = 32767 then 0x7FFFFFFF else x + y
/-- x ⊗ y of max-plus (R259). -/
def maxPlus (x y : Int) : Int := if x = -32768 ∨ y = -32768 then -0x80000000 else x + y

/-- An exact sum out of the i32 range (R221). -/
def outOf32 (t : Int) : Bool := decide (t < -0x80000000) || decide (0x7FFFFFFF < t)

/-- The new value of accumulator element (i, j) after a K-step on tiles a and b, and whether it overflowed (R259). -/
def kElem (x : TileSet) (a b : Nat) (acc : BitVec 32) (i j : Nat) : BitVec 32 × Bool :=
  if x.mode = 0 then
    if x.semi = 4 then
      let hit := (List.range 128).any fun k => decide (planeBit a 0 (128 * i + k) = 1) && decide (planeBit b 0 (128 * j + k) = 1)
      (if acc ≠ 0 ∨ hit = true then 1 else 0, false)
    else
      let t := acc.toInt + dotSum (fun k => prefixVal a (128 * i + k) x.pa 0 0) (fun k => prefixVal b (128 * j + k) x.pb 0 0) 128
      (BitVec.ofInt 32 t, outOf32 t)
  else
    let fa := fun k => wordElem a (16 * i + k)
    let fb := fun k => wordElem b (16 * j + k)
    match x.semi with
    | 0 =>
      let t := acc.toInt + dotSum fa fb 16
      (BitVec.ofInt 32 t, outOf32 t)
    | 1 => (BitVec.ofInt 32 (minOver (fun k => minPlus (fa k) (fb k)) acc.toInt 16), false)
    | 2 => (BitVec.ofInt 32 (maxOver (fun k => maxPlus (fa k) (fb k)) acc.toInt 16), false)
    | _ => (BitVec.ofInt 32 (maxOver (fun k => fa k * fb k) acc.toInt 16), false)

/-- The accumulator after a K-step, and whether an element overflowed. -/
def kStep (x : TileSet) (a b : Nat) (acc : List (BitVec 32)) : List (BitVec 32) × Bool :=
  let r := acc.zipIdx.map fun p => kElem x a b p.1 (p.2 / 32) (p.2 % 32)
  (r.map Prod.fst, r.any Prod.snd)

/-! ### Rings and the sequencer (R261 to R263) -/

/-- The slots of a ring that loaded K-steps have claimed. -/
def claimedBy (l : List (TileSet × List Byte × List Byte)) (m : Nat) : Nat :=
  (l.map fun x => (if x.1.ra = m then 1 else 0) + (if x.1.rb = m then 1 else 0)).sum

/-- The slots of a ring that the engine has claimed and not yet popped. -/
def Tile.claimed (t : Tile) (m : Nat) : Nat := claimedBy t.loads m

/-- The ring and slot check at acceptance (R261): the first failing ring. -/
def ringFault (c : Core) (md : Mode) (x : TileSet) : Option Nat :=
  let two := decide (x.ra = x.rb)
  let bad (m bytes : Nat) : Bool :=
    let r := c.ring m
    decide (r.slots < (if two then 2 else 1)) || decide (r.size < bytes) || !ringPermits c md r
  if bad x.ra x.aBytes then some x.ra else if bad x.rb x.bBytes then some x.rb else none

/-- The TMMA whose K-step is loaded next, n loaded K-steps standing before it. -/
def nextLoad : List Tmma → Nat → Option Tmma
  | [], _ => none
  | q :: r, n => if n < q.k - q.done then some q else nextLoad r (n - (q.k - q.done))

/-- The scratchpad offset of a ring's slot, ahead of its head. -/
def slotOff (c : Core) (m ahead : Nat) : Nat :=
  let r := c.ring m
  r.base + (r.head % 256 + ahead) % max 1 r.slots * r.size

/-- The offsets of the tiles of a K-step with settings x, when `before` have been loaded before it (R261). -/
def tileOffs (c : Core) (before : List (TileSet × List Byte × List Byte)) (x : TileSet) : Nat × Nat :=
  (slotOff c x.ra (claimedBy before x.ra),
   slotOff c x.rb (if x.ra = x.rb then claimedBy before x.rb + 1 else claimedBy before x.rb))

/-- KSTEP_LOAD_START (R262, R265): the next K-step's tiles are loaded once its rings hold enough occupied slots, and the vector
instructions that its TMMA follows have completed (R164, R231). -/
def execKstepLoadStart (core : Nat) (s : State) : Host.Outcome State Fault Refusal :=
  let c := s.core core
  let t := c.tile
  match nextLoad t.queue t.loads.length with
  | none => event s
  | some q =>
    let x := q.set
    let ca := t.claimed x.ra
    let cb := t.claimed x.rb
    let need : Int := if x.ra = x.rb then 2 else 1
    if 2 ≤ t.loads.length then event s
    else if (c.ring x.ra).occupied - ca < need ∨ (c.ring x.rb).occupied - cb < need then event s
    else if c.vjobs.any fun j => decide (j.ctx = q.ctx) && decide (j.id < q.mark) then event s
    else
      let offs := tileOffs c t.loads x
      let a := readSpad s core offs.1 x.aBytes
      let b := readSpad s core offs.2 x.bBytes
      event (s.setTile core { t with loads := t.loads ++ [(x, a, b)] })

/-- The bytes of an accumulator's image (R258). -/
def imageOf (acc : List (BitVec 32)) : List Byte := acc.flatMap fun v => leBytes 4 v.toNat

/-- The accumulator of an image. -/
def accOf : Nat → List Byte → List (BitVec 32)
  | 0, _ => []
  | n + 1, bs => BitVec.ofNat 32 (leNat (bs.take 4)) :: accOf n (bs.drop 4)

/-- The contexts of a core that a TPEEK parks, with the accumulator, the offset of the image and rd. -/
def peekers (c : Core) : List (Nat × Nat × Nat × RegNo) :=
  c.ctxs.filterMap fun p => match p.2.park with
    | some (.peek n off rd) => some (p.1, n, off, rd)
    | _ => none

/-- A K-step boundary has come for the listed TPEEKs (R278): each writes its accumulator as it stands, and the K-steps of the chain;
one whose image has become protected re-executes. -/
def endPeeks (s : State) (g : Nat) : List (Nat × Nat × Nat × RegNo) → State
  | [] => s
  | (k, n, off, rd) :: l =>
    let t := (s.core g).tile
    let s1 := if protectedAt (s.core g) off 4096 then s.setCtx g k { s.ctx g k with park := none }
      else asCtx s g k fun s => ((writeSpad s g off (imageOf (t.acc n))).put rd (BitVec.ofNat 64 (fget 0 t.chain n))).next4
    endPeeks s1 g l

/-- The listed TPEEKs re-execute: the accumulator is FULL, or its binder has been saved. -/
def freePeeks (s : State) (g : Nat) : List (Nat × Nat × Nat × RegNo) → State
  | [] => s
  | (k, _) :: l => freePeeks (s.setCtx g k { s.ctx g k with park := none }) g l

/-- The computation of the oldest loaded K-step ends (R262): the accumulator is updated and its slots are popped. -/
def kComplete (s : State) (g : Nat) : State :=
  let t := (s.core g).tile
  match t.queue, t.loads with
  | q :: rest, (x, a, b) :: l =>
    if q.done < q.k then
      let r := kStep x (leNat a) (leNat b) (t.acc q.acc)
      let t1 := { t with
        accs := fset t.accs q.acc r.1, loads := l, queue := { q with done := q.done + 1 } :: rest
        ov := if r.2 then t.ov ||| BitVec.ofNat 4 (2 ^ q.acc) else t.ov
        chain := fset t.chain q.acc (fget 0 t.chain q.acc + 1) }
      let s1 := s.setTile g t1
      let s2 := if x.ra = x.rb then advanceRing s1 g x.ra false 2
        else advanceRing (advanceRing s1 g x.ra false 1) g x.rb false 1
      endPeeks s2 g (peekers (s2.core g))
    else s
  | _, _ => s

/-- What the thread of the running TMMA did before its acceptance is visible at core scope, as its pops release it (R285). -/
def kReleased (s : State) (g : Nat) : Bool :=
  (((s.core g).tile.queue.head?).map fun q => visibleAt s 1 g q.mark).getD true

/-- KSTEP_COMPLETE (R262, R263). -/
def execKstepComplete (core : Nat) (s : State) : Host.Outcome State Fault Refusal :=
  event (if kReleased s core then kComplete s core else s)

/-- The TMMA at the head of the queue retires with the K-steps it has made: its reply fills, and its accumulator is FULL
when no other queued TMMA names it (R263, R264, R274). -/
def retireHead (s : State) (g : Nat) : State :=
  let t := (s.core g).tile
  match t.queue with
  | [] => s
  | q :: rest =>
    let s1 := s.setTile g { t with queue := rest }
    let v := BitVec.ofNat 64 ((if t.ov.getLsbD q.acc then 2 ^ 16 else 0) + q.done)
    let s2 := deliver s1 q.core q.ctx q.shadow q.rd (GReg.of v false)
    freePeeks s2 g ((peekers (s2.core g)).filter fun p => (s2.core g).tile.isFull p.2.1)

/-- The first n queued TMMAs retire at once (R388 step 2). -/
def retireQueue (s : State) (g : Nat) : Nat → State
  | 0 => s
  | n + 1 => retireQueue (retireHead s g) g n

/-- TMMA_RETIRE (R263, R264, R274): the TMMA at the head of the queue has made its K-steps: its reply fills, and its
accumulator is FULL when no other queued TMMA names it. -/
def execTmmaRetire (core : Nat) (s : State) : Host.Outcome State Fault Refusal :=
  let t := (s.core core).tile
  match t.queue with
  | [] => event s
  | q :: _ =>
    if q.k ≤ q.done then event (retireHead s core) else event s

/-! ### Instructions (R271 to R280) -/

/-- The executing thread is the binder. -/
def isBinder (s : State) : Bool := decide (s.myCore.tile.binder = some s.cur.2)

/-- Bind the engine to a context (R272). -/
def bindTile (t : Tile) (k : Nat) : Tile := { Tile.fresh with binder := some k, waiters := t.waiters.filter fun w => decide (w ≠ k) }

/-- TBIND (R272): Binds the tile engine, or waits for it in the order of R255. -/
def execTbind (o : Rd) (s : State) : Host.Outcome State Fault Refusal :=
  finish s (gate s o.use fun s =>
    let t := s.myCore.tile
    let k := s.cur.2
    if isBinder s then .done (s.put o.d 1).next4
    else if t.binder = none ∧ (t.waiters = [] ∨ t.waiters.head? = some k) then
      .done ((s.setTile s.cur.1 (bindTile t k)).put o.d 0).next4
    else .park (if t.waiters.contains k then s else s.setTile s.cur.1 { t with waiters := t.waiters ++ [k] }) .tile)

/-- TFREE (R273): Releases the tile engine once its queue is empty. -/
def execTfree (o : Rd) (s : State) : Host.Outcome State Fault Refusal :=
  finish s (gate s o.use fun s =>
    let t := s.myCore.tile
    if !isBinder s then .done (s.put o.d 1).next4
    else if t.queue ≠ [] then .park s (.tileQueue false)
    else .done ((s.setTile s.cur.1 { t with binder := none }).put o.d 0).next4)

/-- TMMA (R274): Queues K K-steps into an accumulator. -/
def execTmma (o : R3) (s : State) : Host.Outcome State Fault Refusal :=
  finish s (gate s o.use fun s =>
    let c := s.myCore
    let t := c.tile
    let n := (s.g o.a).toNat
    let k := (s.g o.b).toNat
    if !isBinder s then .trap causeENGINE (engineVal 1 0)
    else if 3 < n ∨ 65535 < k then .trap causeENGINE (engineVal 2 0)
    else if !t.set.legal then .trap causeENGINE (engineVal 3 0)
    else
      match ringFault c s.me.mode t.set with
      | some m => .trap causeENGINE (engineVal 4 m)
      | none =>
        if 4 ≤ t.queue.length then .park s (.tileQueue true)
        else
          let q : Tmma := ⟨n, k, t.set, 0, s.cur.1, s.cur.2, inShadow s.me.ih o.d, o.d, s.serial⟩
          let t1 := { t with
            queue := t.queue ++ [q], chain := if t.isFull n then fset t.chain n 0 else t.chain }
          .done ((s.bump.setTile s.cur.1 t1).putPending o.d).next4)

/-- An accumulator operand (R264, R271): an EMPTY one traps or parks first; then the binder and the value are
checked. -/
def withAcc (s : State) (a : RegNo) (x : Bool) (k : Nat → Eff) : Eff :=
  let n := (s.g a).toNat
  if n ≤ 3 ∧ s.myCore.tile.isFull n = false then
    (if x then .trap causeREGEMPTY (BitVec.ofNat 64 (64 + n)) else .park s (.accumulator n))
  else if !isBinder s then .trap causeENGINE (engineVal 1 0)
  else if 3 < n then .trap causeENGINE (engineVal 2 0)
  else k n

/-- Steps 5 to 7 of R21 for an instruction with an accumulator operand: an EMPTY accumulator with ta = 1 traps at step 6, before
another register parks at step 7 (R264). An empty g register with its trap bit set is named before it (log entry 42). -/
def gateAcc (s : State) (u : Use) (a : RegNo) (x : Bool) (k : State → Eff) : Eff :=
  let n := (s.g a).toNat
  if (u.none? s.myCore.regCount).isNone && ((u.emptySrcs s.me).find? fun p => p.2).isNone && decide ((s.me.reg a).st = .full) &&
      x && decide (n ≤ 3) && !s.myCore.tile.isFull n then .trap causeREGEMPTY (BitVec.ofNat 64 (64 + n))
  else gate s u k

/-- Clear the OV bit of an accumulator. -/
def clearOv (ov : BitVec 4) (n : Nat) : BitVec 4 := ov &&& ~~~(BitVec.ofNat 4 (2 ^ n))

/-- TZERO (R275): Sets an accumulator to its semiring's identity. -/
def execTzero (o : Ra) (s : State) : Host.Outcome State Fault Refusal :=
  finish s (gateAcc s o.use o.a o.x fun s => withAcc s o.a o.x fun n =>
    let t := s.myCore.tile
    .done (s.setTile s.cur.1 { t with
      accs := fset t.accs n (List.replicate 1024 (identityOf t.set.semi)), ov := clearOv t.ov n }).next4)

/-- The own-scratchpad offset of a 4 KiB accumulator image (R276), if the address names one. -/
def imageOff (s : State) (va : Word) (acc : Access) : Option Nat :=
  let at' (v : Word) : Option Nat :=
    let r := if s.me.mode = .m then some (translatePhys s s.who v.toNat acc 8) else translateFixed s s.who v.toNat acc
    match r with
    | some (.ok w) =>
      match placeOf s w.pa with
      | .spad g off => if g = s.cur.1 then some off else none
      | _ => none
    | _ => none
  match at' va, at' (va + 4088) with
  | some lo, some hi => if hi = lo + 4088 ∧ spadPermits s.myCore s.me.mode lo 4096 = true then some lo else none
  | _, _ => none

/-- The checks on an image address, and what follows with its offset (R276). -/
def withImage (s : State) (va : Word) (store : Bool) (k : Nat → Eff) : Eff :=
  if va.toNat % 64 ≠ 0 then .trap causeMISALIGN va
  else
    match imageOff s va (if store then .store else .load) with
    | none => .trap (if store then causeSTOREF else causeLOADF) va
    | some off =>
      if store && protectedAt s.myCore off 4096 then .trap causeSTOREF va
      else if vectorBusy s s.cur.1 s.cur.2 then .park s .vectorDrain
      else k off

/-- TLOAD (R276): Loads an accumulator from a scratchpad image. -/
def execTload (o : Rab) (s : State) : Host.Outcome State Fault Refusal :=
  finish s (gateAcc s o.use o.a o.x fun s => withAcc s o.a o.x fun n => withImage s (s.g o.b) false fun off =>
    let t := s.myCore.tile
    .done (s.setTile s.cur.1 { t with
      accs := fset t.accs n (accOf 1024 (readSpad s s.cur.1 off 4096)), ov := clearOv t.ov n }).next4)

/-- TSTORE (R276): Stores an accumulator as a scratchpad image. -/
def execTstore (o : Rab) (s : State) : Host.Outcome State Fault Refusal :=
  finish s (gateAcc s o.use o.a o.x fun s => withAcc s o.a o.x fun n => withImage s (s.g o.b) true fun off => behindFences s 0 fun s =>
    .done (writeSpad s s.cur.1 off (imageOf (s.myCore.tile.acc n))).next4)

/-- TWAIT (R277): Waits for an accumulator to be FULL and reads the status. -/
def execTwait (o : R2) (s : State) : Host.Outcome State Fault Refusal :=
  finish s (gateAcc s o.use o.a o.x fun s => withAcc s o.a o.x fun _ => .done (s.put o.d s.myCore.tile.status).next4)

/-- TPEEK (R278): Writes the image of a live accumulator, at the next K-step boundary when it is EMPTY, with the order of
TSTORE. An engine that waits for ring slots stands at no boundary: the next K-step's end, a retirement or a save is one (DESIGN
CHOICE, log entry 87). -/
def execTpeek (o : R3) (s : State) : Host.Outcome State Fault Refusal :=
  finish s (privGate s (.tpeek o) .s false (gate s o.use fun s =>
    let n := (s.g o.a).toNat
    if 3 < n then .trap causeENGINE (engineVal 2 0)
    else
      withImage s (s.g o.b) true fun off =>
        behindFences s 0 fun s =>
          let t := s.myCore.tile
          if t.isFull n then .done ((writeSpad s s.cur.1 off (imageOf (t.acc n))).put o.d 0).next4
          else .park s (.peek n off o.d)))

/-- The value-dependent ABSENT of TSET (R34, R256). -/
def tsetAbsent (caps : Word) (i v : Nat) : Bool :=
  !caps.getLsbD 8 && ((decide (i = 0) && decide (v = 1)) || (decide (i = 1) && decide (1 ≤ v) && decide (v ≤ 3)))

/-- TSET (R280): Writes a setting of the tile engine. -/
def execTset (o : Fone) (s : State) : Host.Outcome State Fault Refusal :=
  finish s (gate s o.useSrc fun s =>
    let i := o.i.toNat
    let v := (s.g o.g).toNat
    let t := s.myCore.tile
    if tsetAbsent s.caps i v then .trap causeABSENT (wordOf (.tset o))
    else if !isBinder s then .trap causeENGINE (engineVal 1 0)
    else if !setAccepts i v then .trap causeENGINE (engineVal 2 i)
    else .done (s.setTile s.cur.1 { t with set := t.set.put i v }).next4)

/-- TGET (R280, R270): Reads a setting, the status or the steps. -/
def execTget (o : Fone) (s : State) : Host.Outcome State Fault Refusal :=
  finish s (gate s o.useDst fun s =>
    let t := s.myCore.tile
    let i := o.i.toNat
    let v := if i = 6 then t.status
      else if i = 7 then BitVec.ofNat 64 ((t.queue.head?.map fun q => q.done).getD 0)
      else BitVec.ofNat 64 (t.set.get i)
    .done (s.put o.g v).next4)

end Sys2Proof.Machine
end

