-- ==== Sys2Proof/Machine/Copy.lean ====
section
/-! DEFINITION. The copy engine (R287 to R298 of spec/21_copy_engine_and_rings.md). -/

namespace Sys2Proof.Machine

/-- A field of the staged descriptor by index (R288). -/
def descAt (d : Vector Word 11) (i : Nat) : Word := d.getD i 0

/-- The total length of a descriptor (R288). -/
def copyTotal (d : Vector Word 11) : Nat := (descAt d 2).toNat * (descAt d 5).toNat * (descAt d 8).toNat

/-- POPV and POPRING, PUSHV and PUSHRING, FILL and SCOPE of the flags (R289). -/
def popV (d : Vector Word 11) : Bool := (descAt d 9).getLsbD 20
/-- POPRING. -/
def popRing (d : Vector Word 11) : Nat := (descAt d 9).toNat / 2 ^ 21 % 8
/-- PUSHV. -/
def pushV (d : Vector Word 11) : Bool := (descAt d 9).getLsbD 16
/-- PUSHRING. -/
def pushRing (d : Vector Word 11) : Nat := (descAt d 9).toNat / 2 ^ 17 % 8
/-- FILL = 1. -/
def fillV (d : Vector Word 11) : Bool := (descAt d 9).getLsbD 8
/-- SCOPE. -/
def copyScope (d : Vector Word 11) : Nat := (descAt d 9).toNat % 8

/-- A field of the descriptor that breaks R288 or R289 (log entry 16). -/
def fieldBad (c : Core) (d : Vector Word 11) (i : Nat) : Bool :=
  let v := (descAt d i).toNat
  match i with
  | 0 => popV d && decide ((c.ring (popRing d)).slots ≠ 0) && decide ((c.ring (popRing d)).size ≤ v)
  | 1 => pushV d && decide ((c.ring (pushRing d)).slots ≠ 0) && decide ((c.ring (pushRing d)).size ≤ v)
  | 2 => decide (v < 1) || decide (0x1000000 < v) || decide (2 ^ 40 < copyTotal d)
  | 5 => decide (v < 1) || decide (65536 < v)
  | 8 => decide (v < 1) || decide (65536 < v)
  | 9 =>
    decide (v / 2 ^ 24 ≠ 0) || decide (v / 2 ^ 10 % 2 ^ 6 ≠ 0) || decide (2 ≤ v / 2 ^ 8 % 4) || decide (v / 2 ^ 3 % 2 ^ 5 ≠ 0) ||
    decide (v % 8 < 1) || decide (4 < v % 8) || (fillV d && popV d)
  | _ => false

/-- The lowest and the highest offset that one side of the sequence reaches from its base (R290). -/
def sideSpan (base s1 s2 : Word) (d : Vector Word 11) : Int × Int :=
  let a := ((descAt d 5).toNat - 1 : Nat) * s1.toInt
  let b := ((descAt d 8).toNat - 1 : Nat) * s2.toInt
  (base.toInt + min 0 a + min 0 b, base.toInt + max 0 a + max 0 b + (descAt d 2).toNat - 1)

/-- BADRING for one side (R295). -/
def ringBad (c : Core) (md : Mode) (m : Nat) (span : Int × Int) : Bool :=
  let r := c.ring m
  decide (r.slots = 0) || decide (span.1 < 0) || decide ((r.size : Int) ≤ span.2) || !ringPermits c md r

/-- The first ring CPGO refuses (R295): POPRING, then PUSHRING. -/
def badRing (c : Core) (md : Mode) (d : Vector Word 11) : Option Nat :=
  if popV d && ringBad c md (popRing d) (sideSpan (descAt d 0) (descAt d 3) (descAt d 6) d) then some (popRing d)
  else if pushV d && ringBad c md (pushRing d) (sideSpan (descAt d 1) (descAt d 4) (descAt d 7) d) then some (pushRing d)
  else none

/-- A refusal of CPGO (R295). -/
def copyRefusal (item code : Nat) : Word := BitVec.ofNat 64 (2 ^ 63 + item % 256 * 256 + code)

/-- The start of the slot that a copy takes (R295): beyond the pending advances, as an offset. -/
def copySlot (c : Core) (m : Nat) (push : Bool) : Nat :=
  let r := c.ring m
  r.base + ((if push then r.tail else r.head) % 256 + c.pending m push) % max 1 r.slots * r.size

/-- Accept a copy (R295). -/
def acceptCopy (s : State) (d : Vector Word 11) (word : Option (Word × Word)) : State × Nat :=
  let c := s.myCore
  let src := if popV d then BitVec.ofNat 64 (copySlot c (popRing d) false) else 0
  let dst := if pushV d then BitVec.ofNat 64 (copySlot c (pushRing d) true) else 0
  let c1 := if popV d then reserve c s.serial (popRing d) false false 1 else c
  let c2 := if pushV d then reserve c1 s.serial (pushRing d) true false 1 else c1
  let cp : Copy := {
    id := s.serial, ticket := c.ticket, ctx := s.cur.2, mode := s.me.mode
    basin := if s.me.mode = .m then 0xFFFF else (coreBasin s s.cur.1).getD 64
    desc := d, srcBase := src, dstBase := dst, word := word, mark := s.serial, sent := 0, n := 0, running := false, abort := false
    finished := false, advanced := false, paused := none }
  (s.bump.setMyCore { c2 with copies := c2.copies ++ [cp], ticket := (c.ticket + 1) % 2 ^ 16 }, c.ticket)

/-- CPGO (R295): Starts a copy from the staged descriptor. -/
def execCpgo (o : R3) (s : State) : Host.Outcome State Fault Refusal :=
  finish s (gate s o.use fun s =>
    let c := s.myCore
    let d := s.me.desc
    let md := s.me.mode
    if vectorBusy s s.cur.1 s.cur.2 then .park s .vectorDrain
    else if o.a ≠ 0 ∧ (s.g o.a).toNat % 8 ≠ 0 then .trap causeMISALIGN (s.g o.a)
    else
      match (List.range 11).find? (fieldBad c d) with
      | some i => .done (s.put o.d (copyRefusal i 1)).next4
      | none =>
        match badRing c md d with
        | some r => .done (s.put o.d (copyRefusal r 2)).next4
        | none =>
          if pushV d && decide (((c.ring (pushRing d)).slots : Int) < (c.ring (pushRing d)).occupied + c.pending (pushRing d) true + 1)
          then .park s .copyQueue
          else if popV d && decide ((c.ring (popRing d)).occupied - c.pending (popRing d) false < 1) then .park s .copyQueue
          else if 16 ≤ c.copies.length then .park s .copyQueue
          else
            let p := acceptCopy s d (if o.a = 0 then none else some (s.g o.a, s.g o.b))
            .done (p.1.put o.d (BitVec.ofNat 64 p.2)).next4)

/-- The live copy of the executing thread's basin with a ticket (R296): the oldest, where a ticket has come round while a copy
stayed live (DESIGN CHOICE, log entry 90). -/
def findCopy (s : State) (t : Nat) : Option Copy :=
  s.myCore.copies.find? fun c => decide (c.ticket = t) &&
    decide (c.basin = (if s.me.mode = .m then 0xFFFF else (coreBasin s s.cur.1).getD 64))

/-- The state word of a copy (R296). -/
def Copy.state (c : Copy) : Word :=
  BitVec.ofNat 64 (match c.paused with
    | some (cause, _) => 3 * 2 ^ 62 + cause * 2 ^ 48 + c.n
    | none => if c.running then 2 * 2 ^ 62 + c.n else 2 ^ 62 + c.n)

/-- CPSTAT (R296): Reads the state of a copy. -/
def execCpstat (o : R2) (s : State) : Host.Outcome State Fault Refusal :=
  finish s (gate s o.use fun s =>
    let v := (s.g o.a).toNat
    if v / 2 ^ 16 ≠ 0 then .trap causeILL (wordOf (.cpstat o))
    else .done (s.put o.d (match findCopy s v with
      | some c => c.state
      | none => 0)).next4)

/-- Write a copy of a core. -/
def setCopy (s : State) (g : Nat) (c : Copy) : State :=
  s.setCore g { s.core g with copies := (s.core g).copies.map fun x => if x.id = c.id then c else x }

/-- Every CPABORT that waits for a ticket completes with a value (R297). -/
def endAborts (s : State) (g ticket : Nat) (v : Word) : FMap Ctx → State
  | [] => s
  | (k, _) :: r =>
    match (s.ctx g k).park with
    | some (.copy t rd) =>
      if t = ticket then endAborts (asCtx s g k fun s => (s.put rd v).next4) g ticket v r else endAborts s g ticket v r
    | _ => endAborts s g ticket v r

/-- What a copy's end releases is visible at its scope (R285, R291): what its fork covers, what it has read and what it has sent. -/
def Copy.visible (c : Copy) (s : State) (g : Nat) : Bool := visibleAt s (scopeOn g (copyScope c.desc)) g (max c.mark c.sent)

/-- A copy is no longer live; its reserved advances are ready (R285, R297), and the CPABORTs that wait for it
complete. -/
def endCopy (s : State) (g : Nat) (c : Copy) (v : Word) : State :=
  let s1 := s.setCore g { s.core g with copies := (s.core g).copies.filter fun x => decide (x.id ≠ c.id) }
  endAborts (makeReady s1 g c.id) g c.ticket v (s1.core g).ctxs

/-- CPABORT (R297): Stops a copy. It completes once the copy has stopped and the stores that its advances release are visible
(R285). -/
def execCpabort (o : R2) (s : State) : Host.Outcome State Fault Refusal :=
  finish s (gate s o.use fun s =>
    let v := (s.g o.a).toNat
    if v / 2 ^ 16 ≠ 0 then .trap causeILL (wordOf (.cpabort o))
    else
      match findCopy s v with
      | none => .done (s.put o.d 0x8000000000000000).next4
      | some c =>
        if c.running = true ∧ c.paused = none then
          .park (setCopy s s.cur.1 { c with abort := true }) (.copy v o.d)
        else if c.finished || !c.visible s s.cur.1 then .park (setCopy s s.cur.1 { c with finished := true, paused := none }) (.copy v o.d)
        else .done ((endCopy s s.cur.1 c (BitVec.ofNat 64 c.n)).put o.d (BitVec.ofNat 64 c.n)).next4)

/-- CPSET (R298): Writes a field of the staged descriptor. -/
def execCpset (o : Fone) (s : State) : Host.Outcome State Fault Refusal :=
  finish s (gate s o.useSrc fun s => .done (s.setMe { s.me with desc := s.me.desc.setIfInBounds o.i.toNat (s.g o.g) }).next4)

/-- CPGET (R298): Reads a field of the staged descriptor. -/
def execCpget (o : Fone) (s : State) : Host.Outcome State Fault Refusal :=
  finish s (gate s o.useDst fun s => .done (s.put o.g (descAt s.me.desc o.i.toNat)).next4)

/-! ### The engine at work (R287, R290 to R293) -/

/-- The source and destination address of byte n of the sequence (R290), relative to the slots where the descriptor says so. -/
def Copy.srcAt (c : Copy) (n : Nat) : Word :=
  let l := max 1 (descAt c.desc 2).toNat
  let k := max 1 (descAt c.desc 5).toNat
  c.srcBase + descAt c.desc 0 + BitVec.ofNat 64 (n / l / k) * descAt c.desc 6 + BitVec.ofNat 64 (n / l % k) * descAt c.desc 3 +
    BitVec.ofNat 64 (n % l)
/-- The destination address of byte n. -/
def Copy.dstAt (c : Copy) (n : Nat) : Word :=
  let l := max 1 (descAt c.desc 2).toNat
  let k := max 1 (descAt c.desc 5).toNat
  c.dstBase + descAt c.desc 1 + BitVec.ofNat 64 (n / l / k) * descAt c.desc 7 + BitVec.ofNat 64 (n / l % k) * descAt c.desc 4 +
    BitVec.ofNat 64 (n % l)

/-- The bytes that the next piece moves: within the run and one 64-byte block of the destination, and to the next
multiple of 4,096 when the copy is to stop (R297). -/
def Copy.piece (c : Copy) : Nat :=
  let l := max 1 (descAt c.desc 2).toNat
  let a := (c.dstAt c.n).toNat
  let m := min (l - c.n % l) (64 - a % 64)
  if c.abort then min m (4096 - c.n % 4096) else m

/-- Who a copy's accesses are made by (R287). -/
def Copy.who (c : Copy) (g : Nat) : Who := ⟨g, c.mode, c.basin⟩

/-- The first of n bytes at a place that a copy may not store: one of a protected part of a live frame (R310). -/
def storeRefused (s : State) (acc : Access) (pa n : Nat) : Option Nat :=
  match acc, placeOf s pa with
  | .store, .spad h off => (List.range n).find? fun i => protectedAt (s.core h) (off + i) 1
  | _, _ => none

/-- The place of n bytes of a copy, or the first of them that faults: a slot of the own scratchpad, or a translated address;
device registers fault as unbacked (R290), and stores to the protected parts of a live frame fault (R310). Nothing while a
walk finds the page's marking in progress (R143). -/
def copyPlace (s : State) (g : Nat) (c : Copy) (slot : Bool) (a : Word) (n : Nat) (acc : Access) :
    Option (Except Nat Where) × State :=
  let check (w : Where) (s : State) : Option (Except Nat Where) × State :=
    match storeRefused s acc w.pa n with
    | some i => (some (.error i), s)
    | none => (some (.ok w), s)
  if slot then check ⟨windowOf g + a.toNat, false, false⟩ s
  else
    match translateNow s (c.who g) a acc 8 with
    | (.ok w, s1) => if placeOf s1 w.pa = .device then (some (.error 0), s1) else check w s1
    | (.miss, s1) => (none, s1)
    | (_, s1) => (some (.error 0), s1)

/-- The way mask of a copy's accesses (R386). -/
def Copy.mask (s : State) (c : Copy) : Nat := basinMask s c.basin

/-- The context number that a copy engine's accesses bear: a thread of its own (R164), of no context of the core. -/
def engineCtx (g : Nat) : Nat := 16 * (2 ^ 16 + g)

/-- n bytes of a copy's source at a place, as plain loads of the engine see them (R164), read through the tower's slice (R346). -/
def copyRead (s : State) (g : Nat) (c : Copy) (w : Where) (n : Nat) : List Byte × State :=
  match placeOf s w.pa with
  | .dram =>
    (seenBytes s g (engineCtx g) false w.pa n,
      readThrough s (sliceTower s g) (lineOf w.pa) (homeSlice s w.vault w.pa) (c.mask s))
  | _ => (readBytes s.mem w.pa n, s)

/-- A line is one of those that n bytes touch. -/
def touches (pa n l : Nat) : Bool := decide (lineOf pa ≤ l) && decide (l ≤ lineOf (pa + n - 1))

/-- The core's own stores to a line that precede the copy are still on their way (R164). -/
def behindStores (s : State) (g : Nat) (mark pa n : Nat) : Bool :=
  let on := fun (e : WEntry) => touches pa n e.line && e.upTo mark
  (s.core g).wbuf.any on || (s.tower (sliceTower s g)).outbound.any on

/-- The core's stores that precede the copy and that no other thread of the core sees yet are on their way to a place (R158,
R164). -/
def hiddenStores (s : State) (g : Nat) (mark pa n : Nat) : Bool :=
  (s.tower (sliceTower s g)).outbound.any fun e => touches pa n e.line && e.bytes.any fun b =>
    decide (b.core = g) && decide (b.stamp ≤ mark) && !outForwards (engineCtx g) b

/-- Accesses of the core that the fork of a copy orders before it are still to be performed at a place (R164): stores through
windows, and atomics; for a place it writes, buffered stores; for one it reads, those that it cannot see yet, and bytes that a
context has buffered at a wider scope than core (R158). -/
def forkWaits (s : State) (g : Nat) (c : Copy) (pa n : Nat) (write : Bool) : Bool :=
  (s.remotes.any fun r => decide (r.core = g) && r.store.isSome && decide (r.stamp ≤ c.mark) && touches pa n (lineOf r.addr)) ||
  (s.atoms.any fun a => decide (a.core = g) && a.reply.isNone && decide (a.stamp ≤ c.mark) && touches pa n (lineOf a.addr)) ||
  (decide (placeOf s pa = .dram) && (if write then behindStores s g c.mark pa n
    else overlaps s g (engineCtx g) pa n || hiddenStores s g c.mark pa n))

/-- Write a copy's bytes at a place (R290): tags of scratchpad words are cleared; the core's own L1 drops the line. -/
def copyWrite (s : State) (g : Nat) (c : Copy) (w : Where) (bs : List Byte) : State :=
  match placeOf s w.pa with
  | .spad h off => writeSpad s h off bs
  | _ =>
    dropLine (performFor s (fun s l => homeSlice s w.vault (128 * l)) (c.mask s) w.pa bs (bs.length / 128 + 2)) g (lineOf w.pa)

/-- The tower where bytes at a place are performed: that of the home slice, or of the scratchpad's core. -/
def destTower (s : State) (w : Where) : Nat :=
  match placeOf s w.pa with
  | .spad h _ => h / 256
  | _ => homeSlice s w.vault w.pa / 256

/-- What a copy of core g writes at a place leaves a guarded tower, so that it is held as a message (R362). -/
def copyLeaves (s : State) (g : Nat) (w : Where) : Bool :=
  decide (g < 2048) && (s.guard (g / 256)).on && decide (destTower s w ≠ g / 256)

/-- Send a copy's bytes to another tower, through the outbound buffer or to the scratchpad's core; nothing while the buffer is
full (R135). -/
def sendCopy (s : State) (g : Nat) (c : Copy) (w : Where) (bs : List Byte) : Option State :=
  match placeOf s w.pa with
  | .spad _ _ => some { s.bump with
      remotes := s.remotes ++ [⟨s.serial, g, c.ctx, c.basin, w.pa, bs.length, some bs, none, s.serial, none⟩] }
  | _ =>
    let t := g / 256
    let home := homeSlice s w.vault w.pa
    if outFull s t then none
    else
      some (dropLine (s.bump.setTower t { s.tower t with outbound := (s.tower t).outbound ++
        [⟨lineOf w.pa, home, home % 256, storeBytes (w.pa % 128) 4 (engineCtx g) s.serial c.basin bs, s.serial⟩] }) g (lineOf w.pa))

/-- A copy's bytes are written at a place, or set out for it, and what they leave to be visible counts for its completion
(R291); nothing while they must wait. -/
def putCopy (s : State) (g : Nat) (c : Copy) (w : Where) (bs : List Byte) : Option (State × Copy) :=
  if forkWaits s g c w.pa bs.length true then none
  else if copyLeaves s g w then (sendCopy s g c w bs).map fun s1 => (s1, { c with sent := s.serial })
  else some (copyWrite s g c w bs, c)

/-- A copy pauses on a fault of byte n (R292), its pause point at the multiple of 4,096 at or below it, and its record is posted.
One that is to stop stops there (R297). -/
def pauseCopy (s : State) (g : Nat) (c : Copy) (n cause : Nat) (a : Word) : State :=
  let c1 := { c with n := n, paused := some (cause, a) }
  let s1 := post (setCopy s g c1)
    ⟨faultQueueOf s (if c.basin < 64 then c.basin else 64), 1, cause, c.ticket, 16 * g, 0, a, 0, [], some (2 ^ 20 + g * 2 ^ 16 + c.ticket)⟩
  if c.abort then setCopy s1 g { c1 with finished := true, paused := none } else s1

/-- The pause point of a fault of byte n (R292). -/
def pausePoint (n : Nat) : Nat := n / 4096 * 4096

/-- The byte of a fill at an address (R290). -/
def fillByte (v : Word) (a : Nat) : Byte := BitVec.ofNat 8 (v.toNat / 2 ^ (8 * (a % 8)))

/-- What reading a part of a piece comes to. -/
inductive Part where
  | bytes (bs : List Byte)
  | fault (i : Nat)
  | waits

/-- Read m bytes of the source from byte n of the sequence on. -/
def readPart (s : State) (g : Nat) (c : Copy) (n m : Nat) : Part × State :=
  match copyPlace s g c (popV c.desc) (c.srcAt n) m .load with
  | (none, s1) => (.waits, s1)
  | (some (.error i), s1) => (.fault i, s1)
  | (some (.ok w), s1) =>
    if forkWaits s1 g c w.pa m false then (.waits, s1)
    else
      let p := copyRead s1 g c w m
      (.bytes p.1, p.2)

/-- The m bytes of the next piece: of the fill pattern, or of the source, which may lie across two of its 64-byte blocks. -/
def readPiece (s : State) (g : Nat) (c : Copy) (m : Nat) : Part × State :=
  if fillV c.desc then (.bytes ((List.range m).map fun i => fillByte (descAt c.desc 10) ((c.dstAt c.n).toNat + i)), s)
  else
    let m1 := min m (64 - (c.srcAt c.n).toNat % 64)
    match readPart s g c c.n m1 with
    | (.bytes b1, s1) =>
      if m ≤ m1 then (.bytes b1, s1)
      else
        match readPart s1 g c (c.n + m1) (m - m1) with
        | (.bytes b2, s2) => (.bytes (b1 ++ b2), s2)
        | (.fault i, s2) => (.fault (m1 + i), s2)
        | (.waits, s2) => (.waits, s2)
    | p => p

/-- What moving bytes of a copy comes to: they are written, an access of byte n faults, or they wait. -/
inductive Moved where
  | ok (s : State) (c : Copy)
  | fault (s : State) (n cause : Nat) (a : Word)
  | waits (s : State)

/-- The next m bytes of a copy are read and written. The bytes read from memory count for what its completion releases (R161). The
address of a fault in a slot is the scratchpad offset (DESIGN CHOICE, log entry 89). -/
def movePiece (s : State) (g : Nat) (c : Copy) (m : Nat) : Moved :=
  match readPiece s g c m with
  | (.waits, s1) => .waits s1
  | (.fault i, s1) => .fault s1 (c.n + i) causeLOADF (c.srcAt (c.n + i))
  | (.bytes bs, s1) =>
    match copyPlace s1 g c (pushV c.desc) (c.dstAt c.n) m .store with
    | (none, s2) => .waits s2
    | (some (.error i), s2) => .fault s2 (c.n + i) causeSTOREF (c.dstAt (c.n + i))
    | (some (.ok w), s2) =>
      match putCopy s2 g { c with sent := if fillV c.desc then c.sent else s2.serial } w bs with
      | none => .waits s2
      | some (s3, c1) => .ok s3 { c1 with n := c.n + m, running := true }

/-- One piece of a copy: its bytes read and written, or its pause, once the bytes below the pause point are written (R292). -/
def moveCopy (s : State) (g : Nat) (c : Copy) : State :=
  match movePiece s g c c.piece with
  | .waits s1 => s1
  | .ok s1 c1 => setCopy s1 g c1
  | .fault s1 n cause a =>
    if pausePoint n ≤ c.n then pauseCopy s1 g c (pausePoint n) cause a
    else
      match movePiece s1 g c (pausePoint n - c.n) with
      | .ok s2 c1 => pauseCopy s2 g c1 (pausePoint n) cause a
      | .fault s2 k cause2 a2 => pauseCopy s2 g c (pausePoint k) cause2 a2
      | .waits s2 => s2

/-- COPY_RUN (R287, R290, R292, R297): the engine works the oldest copy that is neither paused nor written, also after a RESUME
of it while a later one is half done (DESIGN CHOICE, log entry 88); one that is to stop ends at a multiple of 4,096. -/
def execCopyRun (core : Nat) (s : State) : Host.Outcome State Fault Refusal :=
  match (s.core core).copies.find? fun c => decide (c.paused = none) && !c.finished && decide (c.n < copyTotal c.desc) with
  | none => event s
  | some c =>
    if c.abort = true ∧ c.n % 4096 = 0 then event (setCopy s core { c with finished := true })
    else event (moveCopy s core { c with running := true })

/-- The completion word of a copy is stored (R291 step 3), or the copy pauses there (R292). -/
def storeWord (s : State) (g : Nat) (c : Copy) : State :=
  let v := BitVec.ofNat 64 (2 ^ 62 + copyTotal c.desc)
  match c.word with
  | none => endCopy s g c v
  | some (a, x) =>
    match copyPlace s g c false a 8 .store with
    | (none, s1) => s1
    | (some (.error _), s1) => pauseCopy s1 g c c.n causeSTOREF a
    | (some (.ok w), s1) =>
      match putCopy s1 g c w (leBytes 8 x.toNat) with
      | none => s1
      | some (s2, c1) => endCopy s2 g c1 v

/-- COPY_COMPLETION (R291, R297): a copy whose bytes are written completes: once what its fork covers and what it has read and
sent is visible at its scope, the pop and the push, then the completion word. One that has been stopped makes its pop and push
then, and is over. Of two live copies with one ticket the oldest completes first (log entry 90). -/
def execCopyCompletion (core ticket : Nat) (s : State) : Host.Outcome State Fault Refusal :=
  match (s.core core).copies.find? fun c => decide (c.ticket = ticket) with
  | none => event s
  | some c =>
    if (c.paused.isSome ∨ c.n < copyTotal c.desc) ∧ c.finished = false then event s
    else if c.visible s core = false then event s
    else if c.finished then event (endCopy s core c (BitVec.ofNat 64 c.n))
    else
      let c1 := { c with advanced := true }
      let s1 := if c.advanced then s else makeReady (setCopy s core c1) core c.id
      if (s1.core core).owes c.id then event s1 else event (storeWord s1 core c1)

end Sys2Proof.Machine
end

