-- ==== Sys2Proof/Machine/Group.lean ====
section
/-! DEFINITION. Groups, barriers and the carve-out (R107 to R111, R124 to R128 of spec/07_execution_model.md and
spec/09_memory_hierarchy.md, R319 of spec/23_traps_and_preemption.md). -/

namespace Sys2Proof.Machine

/-! ### The group record (R107) -/

/-- SIZE. -/
def recSize (s : State) (r : Nat) : Nat := (read64 s.mem r).toNat % 2 ^ 32
/-- SENSE. -/
def recSense (s : State) (r : Nat) : Bool := (read64 s.mem (r + 8)).getLsbD 63
/-- ARRIVED. -/
def recArrived (s : State) (r : Nat) : Nat := (read64 s.mem (r + 8)).toNat % 2 ^ 32
/-- ONECORE. -/
def recOne (s : State) (r : Nat) : Nat := (read64 s.mem (r + 24)).toNat / 2 ^ 16 % 2 ^ 16
/-- TWRS. -/
def recTwrs (s : State) (r : Nat) : Nat := (read64 s.mem (r + 24)).toNat % 2 ^ 8

/-- How a core's access to a record reaches memory: in its basin's ways (R386), at the home that the page's placement gives
(R137). -/
def recVia (s : State) (g : Nat) (vault : Bool) : Via := ⟨(coreBasin s g).getD 64, some vault⟩

/-- Write SIZE; the reserved half is written zero. -/
def setSize (s : State) (v : Via) (r n : Nat) : State := perform64Via s v r (BitVec.ofNat 64 (n % 2 ^ 32))
/-- Write SENSE and ARRIVED. -/
def setPhase (s : State) (v : Via) (r : Nat) (sense : Bool) (n : Nat) : State :=
  perform64Via s v (r + 8) (BitVec.ofNat 64 ((if sense then 2 ^ 63 else 0) + n % 2 ^ 32))
/-- Write the carve fields: CARVEOUT, CARVEV and CARVEL1. -/
def setCarveWord (s : State) (v : Via) (r out : Nat) (valid : Bool) (l1 : Nat) : State :=
  perform64Via s v (r + 16) (BitVec.ofNat 64 (out % 256 * 2 ^ 8 + (if valid then 2 ^ 7 else 0) + l1 % 16))
/-- Write ONECORE and TWRS. -/
def setPlaces (s : State) (v : Via) (r one twrs : Nat) : State :=
  perform64Via s v (r + 24) (BitVec.ofNat 64 (one % 2 ^ 16 * 2 ^ 16 + twrs % 2 ^ 8))

/-- What the home keeps for a record. -/
def State.barrier (s : State) (r : Nat) : Barrier := fget ⟨[], [], 1, false⟩ s.barriers r

/-- Write what the home keeps for a record. -/
def State.setBarrier (s : State) (r : Nat) (b : Barrier) : State := { s with barriers := fset s.barriers r b }

/-- The bit of a core's tower in TWRS; an atelier core has none. -/
def towerBit (g : Nat) : Nat := if isAtelier g then 0 else 2 ^ towerOf g

/-- ONECORE and TWRS after a member has come to a core (R124, R108): the first member of an empty group sets both. -/
def joinPlaces (s : State) (v : Via) (r g : Nat) (first : Bool) : State :=
  if first then setPlaces s v r g (towerBit g)
  else setPlaces s v r (if recOne s r = g then g else 0xFFFF) (recTwrs s r ||| towerBit g)

/-- The scope of a release (R110). -/
def recScope (s : State) (r : Nat) : Nat :=
  if recOne s r ≠ 0xFFFF then 1 else if (List.range 8).any fun t => decide (recTwrs s r = 2 ^ t) then 2 else 3

/-! ### The carve-out (R126, R128) -/

/-- A change of a core's carve-out to n units is refused (R128, R267, R293); an empty save area counts by its base (log entry
78). -/
def carveRefused (s : State) (g n : Nat) : Bool :=
  let c := s.core g
  decide (n < 4) || decide (16 < n) || decide (n * 65536 < c.savebase.toNat + c.savesize.toNat) ||
  (c.spTag.any fun o => decide (n * 65536 ≤ o)) || (c.takers.any fun t => decide (n * 65536 ≤ t.off)) ||
  (s.cores.any fun p => p.2.ctxs.any fun q => match q.2.park with
    | some (.takeRetry h o) => decide (h = g) && decide (n * 65536 ≤ o)
    | _ => false) ||
  (s.feOps.any fun f => decide (f.owner = g) && decide (f.kind = .take) && decide (n * 65536 ≤ f.off)) ||
  decide (c.tile.queue ≠ []) || decide (c.copies ≠ [])

/-- The carve-out changes (R128): removed words are discarded, and L1 lines are dropped where the scratchpad grows
(log entry 17). -/
def changeCarve (s : State) (g n : Nat) : State :=
  let c := s.core g
  let lim := n * 65536
  let s1 := s.setCore g { c with
    units := n, l1 := if c.units < n then [] else c.l1
    spEmpty := c.spEmpty.filter fun o => decide (o < lim), spRel := c.spRel.filter fun p => decide (p.1 < lim) }
  if n < c.units then { s1 with mem := clearRange s1.mem (windowOf g + lim) ((c.units - n) * 65536) } else s1

/-! ### Members (R108, R109) -/

/-- The contexts of a core that are members of a record's group. -/
def residents (s : State) (g r : Nat) : List (Nat × Ctx) :=
  (s.core g).ctxs.filter fun p => match p.2.group with
    | some m => decide (m.record = r)
    | none => false

/-- A member has arrived in the present phase: its phase's release has not been performed. -/
def Member.inPhase (s : State) (m : Member) : Bool := m.arrived && (recSense s m.record != m.target)

/-- A resident member's arrival of the present phase is counted on its core. -/
def ctxArrived (s : State) (c : Ctx) : Bool :=
  match c.group with
  | some m => m.inPhase s
  | none => false

/-- The arrival of a resident member has not been sent. -/
def unsent (c : Ctx) : Bool :=
  match c.group with
  | some m => !m.sent
  | none => false

/-- The core's arrivals for a record have been sent. -/
def markSent (c : Ctx) (r : Nat) : Ctx :=
  match c.group with
  | some m => if m.record = r then { c with group := some { m with sent := true } } else c
  | none => c

/-- An arrival atomic sets out (R109). -/
def sendArrival (s : State) (g : Nat) (m : Member) (n : Nat) : State :=
  { s.bump with arrivals := s.arrivals ++ [⟨m.record, m.vault, n, g, (coreBasin s g).getD 64, ⟨g, s.serial, false⟩⟩] }

/-- When every resident member of a record's group has arrived, the core sends the arrivals it has counted (R109). -/
def flushArrivals (s : State) (g : Nat) (m : Member) : State :=
  let l := residents s g m.record
  let n := (l.filter fun p => unsent p.2).length
  if (l.all fun p => ctxArrived s p.2) ∧ 0 < n then
    let s1 := sendArrival s g m n
    s1.setCore g { s1.core g with ctxs := (s1.core g).ctxs.map fun p => (p.1, markSent p.2 m.record) }
  else s

/-- The executing member arrives (R109), which is a release at the scope of its group: the stores that follow wait for those before
it (R110, R161). With it comes the sense that the release of its phase produces. -/
def arrive (s : State) (m : Member) (bar : Option Word) : State × Bool :=
  let t := !recSense s m.record
  (flushArrivals (s.bump.setMe { s.me with
      group := some { m with arrived := true, sent := false, target := t, bar := bar }
      fences := s.me.fences ++ [⟨recScope s m.record, s.serial, true⟩] }) s.cur.1 m, t)

/-- A context of a core waits in BAR or BARW for the present phase of a record (R111). -/
def waitsBar (s : State) (r : Nat) (c : Ctx) : Bool := decide (c.park = some (.barrier r (!recSense s r) true))

/-- A group is quiescent (R111). -/
def quiescent (s : State) (r : Nat) : Bool :=
  let l := residents s (recOne s r) r
  decide (recOne s r ≠ 0xFFFF) && decide (l.length = recSize s r) && (l.all fun p => waitsBar s r p.2)

/-- Every context of a group's core but context 0 is a member or FREE (R111). -/
def onlyMembers (s : State) (r : Nat) : Bool :=
  (s.core (recOne s r)).ctxs.all fun p =>
    decide (p.1 = 0) || decide (p.2.phase = .free) || ((residents s (recOne s r) r).any fun q => decide (q.1 = p.1))

/-- The request attached to a record is handled at a release (R111). -/
def carveAtRelease (s : State) (v : Via) (r : Nat) : State :=
  let w := (read64 s.mem (r + 16)).toNat
  if w / 2 ^ 7 % 2 = 1 then
    let l1 := w % 16
    if (s.barrier r).quiet ∧ onlyMembers s r = true ∧ l1 ≤ 12 ∧ carveRefused s (recOne s r) (16 - l1) = false then
      setCarveWord (changeCarve s (recOne s r) (16 - l1)) v r 1 false l1
    else setCarveWord s v r 2 false l1
  else s

/-- The release test of R109 at the home: with as many arrivals as members the phase is released, the carve request is
handled first, and the releases of the arrivals are those that the wake-ups acquire (R110). -/
def releaseTest (s : State) (v : Via) (r : Nat) : State :=
  if recSize s r ≤ recArrived s r ∧ 0 < recSize s r then
    let s1 := carveAtRelease s v r
    let s2 := setPhase s1 v r (!recSense s r) 0
    s2.setBarrier r ⟨[], (s2.barrier r).now, recScope s r, false⟩
  else s

/-- BARRIER_ARRIVAL_AT_HOME (R109, R110): an arrival atomic takes effect at the record's home, once the stores it releases are
visible at the scope of the group and a guarded sender's tower lets it out (R362). -/
def execBarrierArrivalAtHome (n : Nat) (s : State) : Host.Outcome State Fault Refusal :=
  match s.arrivals[n]? with
  | none => event s
  | some a =>
   let v : Via := ⟨a.basin, some a.vault⟩
   let d := v.home s (lineOf a.record) / 256
   if heldCore s a.core d a.acq.mark || !visibleAt s (recScope s a.record) a.core a.acq.mark then event s
   else
    let s0 := if a.core / 256 = d then s else keepReplay s d (.arrival a)
    let s1 := setPhase { s0 with arrivals := s.arrivals.eraseIdx n } v a.record (recSense s a.record) (recArrived s a.record + a.n)
    let b := s1.barrier a.record
    event (releaseTest (s1.setBarrier a.record { b with now := b.now ++ [a.acq], quiet := quiescent s1 a.record }) v a.record)

/-- Every arrival of the last release is visible at the scope of its acquire (R110). -/
def phaseVisible (s : State) (r : Nat) : Bool :=
  let b := s.barrier r
  b.last.all fun a => visibleAt s b.scope a.core a.mark

/-- The acquire of a wake-up (R110). -/
def phaseAcquire (s : State) (g r : Nat) : State := if 2 ≤ (s.barrier r).scope then flashL1 s g else s

/-- A wait for a sense: with the release performed and visible, it acquires and goes on; otherwise it parks. -/
def awaitSense (s : State) (r : Nat) (sense bar : Bool) (k : State → Eff) : Eff :=
  if recSense s r = sense ∧ phaseVisible s r = true then k (phaseAcquire s s.cur.1 r) else .park s (.barrier r sense bar)

/-- BARRIER_WAKE (R109, R110): a release wakes a waiting member, with the acquire of the wake-up; the member re-executes its
instruction. -/
def execBarrierWake (core ctx : Nat) (s : State) : Host.Outcome State Fault Refusal :=
  match (s.ctx core ctx).park with
  | some (.barrier r sense _) =>
    if recSense s r = sense ∧ phaseVisible s r = true then event (unpark (phaseAcquire s core r) core ctx) else event s
  | _ => event s

/-! ### Instructions (R124, R125, R319) -/

/-- The value that group instructions write for a thread of the wrong membership (R124, R125). -/
def notMember : Word := 0x8000000000000000

/-- The place of a group record (R124): misaligned, in scratchpad, or failing translation, it traps. -/
def withRecord (s : State) (va : Word) (k : State → Where → Eff) : Eff :=
  if va.toNat % 64 ≠ 0 then .trap causeMISALIGN va
  else
    withPlace s va .atomic 8 causeSTOREF fun w =>
      if placeOf s w.pa ≠ .dram then .trap causeSTOREF va
      else if lineDraining s s.cur.1 s.cur.2 (lineOf w.pa) then .park s (.lineDrain (lineOf w.pa))
      else behindFences s 0 fun s => k s w

/-- JOIN (R124): Joins a group and reads its SENSE. -/
def execJoin (o : R2) (s : State) : Host.Outcome State Fault Refusal :=
  finish s (gate s o.use fun s =>
    if s.me.group.isSome then .done (s.put o.d notMember).next4
    else
      withRecord s (s.g o.a) fun s w =>
        let v := recVia s s.cur.1 w.vault
        let n := recSize s w.pa
        let s1 := joinPlaces (setSize s v w.pa (n + 1)) v w.pa s.cur.1 (decide (n = 0))
        .done ((s1.setMe { s1.me with group := some ⟨s.g o.a, w.pa, w.vault, false, false, false, none⟩ }).put o.d
          (boolWord (recSense s w.pa))).next4)

/-- The executing member leaves its group (R124): SIZE falls, the release test is made, and an empty group forgets its
places; the members that stay may all have arrived. -/
def leaveGroup (s : State) (m : Member) : State :=
  let v := recVia s s.cur.1 m.vault
  let n := (recSize s m.record + 2 ^ 32 - 1) % 2 ^ 32
  let s1 := setSize (s.setMe { s.me with group := none }) v m.record n
  let s2 := releaseTest (if n = 0 then setPlaces s1 v m.record 0 0 else s1) v m.record
  flushArrivals s2 s.cur.1 m

/-- A member that has arrived waits for its phase's release before it leaves (R124). -/
def leaveWait (s : State) (k : State → Eff) : Eff :=
  match s.me.group with
  | none => k s
  | some m => if m.arrived then awaitSense s m.record m.target false k else k s

/-- The executing thread leaves its group, if it is a member. -/
def leaveOwn (s : State) : State :=
  match s.me.group with
  | none => s
  | some m => leaveGroup s m

/-- LEAVE (R124): Leaves the thread's group. -/
def execLeave (o : Rd) (s : State) : Host.Outcome State Fault Refusal :=
  finish s (gate s o.use fun s =>
    if s.me.group = none then .done (s.put o.d notMember).next4
    else leaveWait s fun s => .done ((leaveOwn s).put o.d 0).next4)

/-- An arrival of the executing member: its vector instructions complete first, and a member that has already arrived
in the present phase waits for its release (R109). -/
def arriveEff (s : State) (m : Member) (bar : Option Word) (k : State → Bool → Eff) : Eff :=
  if vectorBusy s s.cur.1 s.cur.2 then .park s .vectorDrain
  else if m.inPhase s then .park s (.barrier m.record m.target false)
  else
    let p := arrive s m bar
    k p.1 p.2

/-- BARA (R125): Arrives without waiting. -/
def execBara (o : Rd) (s : State) : Host.Outcome State Fault Refusal :=
  finish s (gate s o.use fun s =>
    match s.me.group with
    | none => .done (s.put o.d notMember).next4
    | some m => arriveEff s m none fun s t => .done (s.put o.d (boolWord t)).next4)

/-- The executing member's phase is over: its arrival is forgotten. -/
def endPhase (s : State) : State :=
  match s.me.group with
  | some m => s.setMe { s.me with group := some { m with arrived := false, sent := false, bar := none } }
  | none => s

/-- BARW (R125): Waits for a phase. -/
def execBarw (o : Ra) (s : State) : Host.Outcome State Fault Refusal :=
  finish s (gate s o.use fun s =>
    match s.me.group with
    | none => .done s.next4
    | some m =>
      if (s.g o.a).getLsbD 63 then .done s.next4
      else awaitSense s m.record ((s.g o.a).getLsbD 0) true fun s => .done s.next4)

/-- BAR (R125): BARA and BARW in one instruction; re-executed, it does not arrive again (R309). -/
def execBar (o : Rd) (s : State) : Host.Outcome State Fault Refusal :=
  finish s (gate s o.use fun s =>
    match s.me.group with
    | none => .done (s.put o.d notMember).next4
    | some m =>
      let wait (s : State) (t : Bool) : Eff :=
        awaitSense s m.record t true fun s => .done ((endPhase s).put o.d 0).next4
      if m.bar = some s.me.pc then wait s m.target else arriveEff s m (some s.me.pc) wait)

/-- CARVE (R319): Requests an L1 size. BADSIZE is answered before the record is looked at, and MISALIGN or STOREF is taken
before NOTMEMBER (DESIGN CHOICE, log entry 52). -/
def execCarve (o : R3) (s : State) : Host.Outcome State Fault Refusal :=
  finish s (gate s o.use fun s =>
    let n := (s.g o.b).toNat
    let g := s.cur.1
    let answer (s : State) (v : Word) : Eff := .done (s.put o.d v).next4
    if 12 < n then answer s 1
    else if s.g o.a = 0 then
      if s.me.mode ≠ .m ∨ s.cur.2 ≠ 0 ∨ isAtelier g = true ∨ (s.core g).tenant.getLsbD 6 = false then answer s 3
      else if ((s.core g).ctxs.all fun p => decide (p.1 = 0) || decide (p.2.phase = .free)) ∧ carveRefused s g (16 - n) = false
      then answer (changeCarve s g (16 - n)) 0
      else answer s 4
    else
      withRecord s (s.g o.a) fun s w =>
        if (match s.me.group with
            | some m => decide (m.record = w.pa)
            | none => false) then answer (setCarveWord s (recVia s s.cur.1 w.vault) w.pa 0 true n) 0
        else answer s 2)

end Sys2Proof.Machine
end

