-- ==== Sys2Proof/Machine/Queue.lean ====
section
/-! DEFINITION. Launch records, die ready queues, takes from the fork-join deques and the start of threads (R96 to R106
of spec/07_execution_model.md). -/

namespace Sys2Proof.Machine

/-- The basin whose records a core takes (R97): its bed's, or 64 for an unassigned bed, which takes records of M-mode
code only. -/
def queueBasin (s : State) (g : Nat) : Nat := (coreBasin s g).getD 64

/-- The basin that the executing thread's records carry (R97). -/
def recordBasin (s : State) : Nat := if s.me.mode = .m then 64 else queueBasin s s.cur.1

/-- The cores of a tower that take a basin's records (R96, R97). -/
def matesOf (s : State) (t b : Nat) : List Nat :=
  if towerPresent s t then ((List.range 256).map fun i => t * 256 + i).filter fun g => decide (queueBasin s g = b) else []

/-- The towers that hold a bed of a basin, by physical number; for records of M-mode code, every present tower. -/
def basinTowers (s : State) (b : Nat) : List Nat :=
  (presentTowers s).filter fun t => decide (64 ≤ b) || decide ((s.basin b).bedsOn t ≠ [])

/-! ### Reading a launch record (R98, R99) -/

/-- The words of 64 bytes. -/
def wordsOf : Nat → List Byte → List Word
  | 0, _ => []
  | n + 1, bs => leWord (bs.take 8) :: wordsOf n (bs.drop 8)

/-- Read n × 8 bytes at an address for the executing thread, with their tags when they lie in its own scratchpad (R99). -/
def withWords (s : State) (va : Word) (n : Nat) (k : List (Word × Bool) → Eff) : Eff :=
  withPlace s va .load (8 * n) causeLOADF fun w =>
    match placeOf s w.pa with
    | .spad g off =>
      if vectorBusy s s.cur.1 s.cur.2 then .park s .vectorDrain
      else k ((wordsOf n (readBytes s.mem w.pa (8 * n))).zipIdx.map fun p => (p.1, w.own && tagAt s g (off + 8 * p.2)))
    | .dram =>
      if lineBusy s s.cur.1 s.cur.2 (lineOf w.pa) then .park s (.lineDrain (lineOf w.pa))
      else if overlaps s s.cur.1 (gctx s.cur.1 s.cur.2) w.pa (8 * n) then .park s (.overlap w.pa (8 * n))
      else k ((wordsOf n (seenBytes s s.cur.1 (gctx s.cur.1 s.cur.2) true w.pa (8 * n))).map fun v => (v, false))
    | _ => .trap causeLOADF va

/-- TOWERS after the masking of R98, by physical number, for records of a basin. -/
def maskTowers (s : State) (b mask : Nat) : List Nat :=
  (basinTowers s b).filter fun t =>
    if 64 ≤ b then decide (mask / 2 ^ t % 2 = 1)
    else match virtTower s b t with
      | some v => decide (mask / 2 ^ v % 2 = 1)
      | none => false

/-- The physical core that CORE names on a tower (R98, R385), if it names one of the basin's. M-mode code may name any core (log
entry 75). -/
def hintCore (s : State) (b t core : Nat) : Option Nat :=
  if 64 ≤ b then some (t * 256 + core)
  else match virtTower s b t with
    | some v => physCore s b (v * 256 + core)
    | none => none

/-- A list of towers as a mask. -/
def towerMask (l : List Nat) : Nat := (l.map fun t => 2 ^ t).sum

/-- A tower is in a mask. -/
def inTowers (mask t : Nat) : Bool := decide (mask / 2 ^ t % 2 = 1)

/-- A launch record of a basin and mode, with the eligible towers (R98, R101), or none for one that R99 refuses by its
fields. An EXACT record's core on each tower is among its hints. -/
def parseRecord (s : State) (b : Nat) (md : Mode) (w : List (Word × Bool)) : Option (ReadyRec × Bool) :=
  let v (i : Nat) : Nat := ((w.getD i (0, false)).1).toNat
  let f := v 6
  let exact := decide (f / 2 ^ 17 % 2 = 1)
  let hintv := decide (f / 2 ^ 16 % 2 = 1)
  let towers := maskTowers s b (f % 256)
  let hints := if hintv then towers.filterMap fun t => hintCore s b t (f / 2 ^ 8 % 256) else []
  let elig := if exact then towers.filter fun t => hints.any fun g => decide (towerOf g = t) else towers
  let tagged := [0, 6, 7].any fun i => (w.getD i (0, false)).2
  if v 0 % 4 ≠ 0 ∨ f / 2 ^ 24 ≠ 0 ∨ f / 2 ^ 21 % 8 ≠ 0 ∨ v 7 ≠ 0 ∨ (exact && !hintv) = true ∨ elig = [] ∨ tagged = true then none
  else
    some (⟨.launch (w.getD 0 (0, false)).1 ((w.drop 1).take 5), if md = .m then .m else .u, b, f / 2 ^ 18 % 8, 0, none,
      hints, towerMask elig, []⟩, exact)

/-- The tagged arguments of a record are ends that the executing thread may move (R99). -/
def argsMovable (s : State) (w : List (Word × Bool)) : Bool :=
  ((w.drop 1).take 5).all fun a => !a.2 ||
    (match checkEnd s a.1 true none 2 with
     | none => false
     | some (_, rcv, c) => rcv || decide (c.openPkt = 0))

/-- The ends that a record's arguments carry are the record's (R190). -/
def carryArgs (s : State) : List (Word × Bool) → State
  | [] => s
  | (v, t) :: r =>
    let s1 := if t then
        match findEnd s v with
        | some (id, rcv) =>
          match flook s.chans id with
          | some c => if (c.theEnd rcv).holder = .carrier then s else carryEnd s id rcv
          | none => s
        | none => s
      else s
    carryArgs s1 r

/-! ### Die ready queues (R101, R102) -/

/-- A bank of a tower's queue. -/
def Tower.bank (w : Tower) (n : Nat) : List ReadyRec := fget [] w.banks n

/-- Every dispatcher of a tower tries again (R96). -/
def wakeTower (s : State) (t : Nat) : State :=
  { s with cores := s.cores.map fun p => if towerOf p.1 = t then (p.1, { p.2 with asleep := false }) else p }

/-- The bank a record starts from on a tower (R101 step 2): its hint's, or a free choice. -/
def firstBank (s : State) (t : Nat) (r : ReadyRec) : Nat × State :=
  match r.hints.find? fun g => decide (towerOf g = t) with
  | some g => (g % 256 / 16, s)
  | none => freeBelow s 16

/-- Place a record on a tower's queue (R101 steps 2 to 4); none when every bank is full. -/
def placeOn (s : State) (t : Nat) (r : ReadyRec) : Option State :=
  let (b, s1) := firstBank s t r
  let w := s1.tower t
  match ((List.range 16).map fun i => (b + i) % 16).find? fun n => decide ((w.bank n).length < 256) with
  | none => none
  | some n =>
    let s2 := s1.bump.setTower t { w with banks := fset w.banks n (w.bank n ++ [{ r with stamp := s1.serial }]) }
    some (wakeTower s2 t)

/-- The tower that a record of the executing core is placed on (R101 step 1): its own when it is eligible, or a free
choice among the eligible ones. -/
def chooseTower (s : State) (g mask : Nat) : Nat × State :=
  if isAtelier g = false ∧ inTowers mask (towerOf g) = true then (towerOf g, s)
  else
    let l := (List.range 8).filter (inTowers mask)
    let (i, s1) := freeBelow s l.length
    (l.getD i 0, s1)

/-- An EXACT record as it stands on a tower: the one core that may take it. -/
def bindExact (r : ReadyRec) (exact : Bool) (t : Nat) : ReadyRec :=
  if exact then { r with exact := r.hints.find? fun g => decide (towerOf g = t) } else r

/-- A record's frame, if it is a restore record, may be restored on a core (R102, R312). -/
def frameFits (s : State) (g : Nat) (w : Work) : Bool :=
  match w with
  | .frame id =>
    match findFrame s id with
    | some (_, f) => f.wide == (s.core g).wide
    | none => true
  | _ => true

/-- A core may take a record (R102). -/
def mayTake (s : State) (g : Nat) (r : ReadyRec) : Bool :=
  decide (r.basin = queueBasin s g) && (decide (r.exact = none) || decide (r.exact = some g)) && frameFits s g r.work

/-- A record precedes another by PRIO and then by age (R102). -/
def better (a b : ReadyRec) : Bool := decide (b.prio < a.prio) || (decide (a.prio = b.prio) && decide (a.stamp < b.stamp))

/-- The best of some records. -/
def bestOf : List (Nat × ReadyRec) → Option (Nat × ReadyRec)
  | [] => none
  | p :: r =>
    match bestOf r with
    | none => some p
    | some q => if better q.2 p.2 then some q else some p

/-- The head of a bank for a core (R102), with its bank. -/
def headFor (s : State) (g t n : Nat) : Option (Nat × ReadyRec) :=
  bestOf ((((s.tower t).bank n).filter (mayTake s g)).map fun r => (n, r))

/-- The record that a pop by a core's dispatcher takes (R102), with its bank, and the state with the pop counted. The
two sampled banks are given. -/
def popFor (s : State) (g t bank0 bank1 : Nat) : Option (Nat × ReadyRec) × State :=
  let own := g % 256 / 16
  match bestOf ((((s.tower t).bank own).filter fun r => mayTake s g r && decide (r.exact = some g)).map fun r => (own, r)) with
  | some p => (some p, s)
  | none =>
    let w := s.tower t
    let sweep := decide ((w.pops + 1) % 16 = 0)
    let s1 := s.setTower t { w with pops := (w.pops + 1) % 16, round := if sweep then (w.round + 1) % 16 else w.round }
    match (if sweep then headFor s g t w.round else none) with
    | some p => (some p, s1)
    | none => (bestOf ((headFor s g t (bank0 % 16)).toList ++ (headFor s g t (bank1 % 16)).toList), s1)

/-- Take a record out of its bank. -/
def dropRecord (s : State) (t n : Nat) (r : ReadyRec) : State :=
  let w := s.tower t
  s.setTower t { w with banks := fset w.banks n ((w.bank n).erase r) }

/-! ### Starting a thread (R100, R105) -/

/-- Deliver a record's arguments in g4 to g8, each with its tag. -/
def giveArgs (c : Ctx) : Nat → List (Word × Bool) → Ctx
  | _, [] => c
  | n, (v, t) :: r => giveArgs (c.setRegIn false (BitVec.ofNat 6 n) (GReg.of v t)) (n + 1) r

/-- The ends that the arguments carry are the thread's (R190). -/
def takeArgs (s : State) (g k : Nat) : List (Word × Bool) → State
  | [] => s
  | (v, t) :: r => takeArgs (takeWord s v t g k) g k r

/-- Start the thread of a launch record in a context (R100); its end is a completion (R387). -/
def startLaunch (s : State) (g k : Nat) (md : Mode) (pc : Word) (args : List (Word × Bool)) (acqs : List Acq) (owned : Bool) : State :=
  let c := { giveArgs Ctx.fresh 4 args with phase := .run, mode := md, pc := pc, owned := owned, acqs := acqs, counted := true }
  takeArgs (s.setCtx g k c) g k args

/-- Start a continuation in a context (R105). -/
def startCont (s : State) (g k : Nat) (r : DqRec) : State :=
  let c := giveArgs Ctx.fresh 2 [(r.g2, false), (r.g3, false)]
  s.setCtx g k { c with phase := .run, mode := r.mode, pc := r.pc, acqs := [r.acq] }

/-- The lowest-numbered FREE context of a core (R96). -/
def freeCtx (s : State) (g : Nat) : Option Nat :=
  ((List.range (s.core g).count).drop 1).find? fun k => decide ((s.ctx g k).phase = .free)

/-- The number of FREE contexts of a core. -/
def freeCount (s : State) (g : Nat) : Nat :=
  (((List.range (s.core g).count).drop 1).filter fun k => decide ((s.ctx g k).phase = .free)).length

/-! ### Takes (R105, R106) -/

/-- The outcome of a take: nothing to take, a record, or the atomic waits for stores to its line. -/
inductive TakeOut where
  | none (s : State)
  | took (r : DqRec) (s : State)
  | waits (s : State)

/-- Add to the join count at a place (R105, R121): the home's atomic unit, or the unit of the core that owns the word. -/
def addCount (s : State) (b : Nat) (w : Where) (d : Word) : State :=
  storeVia s (w.via b) w.pa (leBytes 8 (read64 s.mem w.pa + d).toNat)

/-- A record of a deque becomes unstealable (R105). -/
def pinRec (s : State) (owner : Nat) (r : DqRec) : State :=
  s.setCore owner { s.core owner with
    deque := (s.core owner).deque.map fun x => if x = r then { x with pinned := true } else x }

/-- A take of a record of a core's deque (R105): the join count at its g3 rises by one, or the record stays and becomes
unstealable. The add follows the pushing core's stores to the word. -/
def takeRec (s : State) (owner : Nat) (r : DqRec) : TakeOut :=
  if r.g3.toNat % 8 ≠ 0 then .none (pinRec s owner r)
  else
    match translateNow s ⟨owner, r.mode, r.basin⟩ r.g3 .atomic 8 with
    | (.ok w, s1) =>
      if placeOf s1 w.pa = .device ∨ protectedPlace s1 w.pa 8 = true then .none (pinRec s1 owner r)
      else if lineBuffered s1 owner (lineOf w.pa) ||
          (s1.tower (sliceTower s1 owner)).outbound.any (fun e => decide (e.line = lineOf w.pa)) then .waits s1
      else .took r (addCount (s1.setCore owner { s1.core owner with deque := (s1.core owner).deque.erase r }) r.basin w 1)
    | (.miss, s1) => .waits s1
    | (_, s1) => .none (pinRec s1 owner r)

/-- A take of the top record of a core's deque for a core of a basin; no record below it is considered (R105). -/
def takeTop (s : State) (owner b : Nat) : TakeOut :=
  match (s.core owner).deque with
  | [] => .none s
  | r :: _ => if r.pinned ∨ r.basin ≠ b then .none s else takeRec s owner r

/-- A taken continuation as a record of a die ready queue (R106): priority 0, any tower. -/
def contRecord (r : DqRec) : ReadyRec := ⟨.cont r, r.mode, r.basin, 0, 0, none, [], 0xFF, [r.acq]⟩

/-- Place a continuation on a tower's queue, or with every bank full on that of a neighbour that holds a bed of the
basin (R106); none when all are full. -/
def placeCont (s : State) (t : Nat) (r : ReadyRec) : Option State :=
  if 8 ≤ t then none
  else (t :: (neighbours t).filter fun n => (basinTowers s r.basin).contains n).findSome? fun n => placeOn s n r

/-- The thread of a context has ended or been saved: the records it has pushed lose the unstealable mark (R106). -/
def unpinAll (c : Core) (k : Nat) : Core :=
  { c with deque := c.deque.map fun r => if r.ctx = k then { r with pinned := false } else r }

end Sys2Proof.Machine
end

