-- ==== Sys2Proof/Machine/Frames.lean ====
section
/-! DEFINITION. Pre-emption and the save area: frames, saves and restores (R308 to R313, R407, R408 of
spec/23_traps_and_preemption.md). -/

namespace Sys2Proof.Machine

/-! ### Grids (the accessors that saves need) -/

/-- A grid's key: its holding tower and slot. -/
def gridKey (t slot : Nat) : Nat := t * 64 + slot

/-- The grid of a key, if live. -/
def State.grid (s : State) (key : Nat) : Option Grid := flook (s.tower (key / 64)).grids (key % 64)

/-- Write a grid. -/
def State.setGrid (s : State) (key : Nat) (x : Grid) : State :=
  let w := s.tower (key / 64)
  s.setTower (key / 64) { w with grids := fset w.grids (key % 64) x }

/-- A group in its first state: BLOCKED. -/
def GGroup.fresh : GGroup := ⟨.blocked, 0, [], [], [], 0, false⟩

/-- A group of a grid that has left its first state. -/
def Grid.group (x : Grid) (n : Nat) : GGroup := fget GGroup.fresh x.groups n

/-- Write a group. -/
def Grid.setGroup (x : Grid) (n : Nat) (p : GGroup) : Grid := { x with groups := fset x.groups n p }

/-- Change a group of a grid, if the grid is live. -/
def updGroup (s : State) (gr : Option (Nat × Nat)) (f : GGroup → GGroup) : State :=
  match gr with
  | none => s
  | some (key, n) =>
    match s.grid key with
    | none => s
    | some x => s.setGrid key (x.setGroup n (f (x.group n)))

/-- A member saved (R329, R338): it leaves the live members, and its frame is the group's. -/
def GGroup.saved (p : GGroup) (k id : Nat) : GGroup := { p with live := p.live.filter (fun j => decide (j ≠ k)), frames := p.frames ++ [id] }

/-! ### The layout of a frame (R310, R408) -/

/-- The size of a frame: with 64 registers or 32, n deque records, and the tile state of a binder. -/
def frameSize (wide : Bool) (n : Nat) (binder : Bool) : Nat :=
  (if wide then 1792 else 1536) + (32 * n + 63) / 64 * 64 + (if binder then 16640 else 0)

/-- The offset of the deque records. -/
def dqOff (wide : Bool) : Nat := if wide then 1792 else 1536

/-- The first free place of a size in a core's save area, from SAVEBASE upward (R311). -/
def allocFrame (c : Core) (size : Nat) : Option Nat :=
  let lo := c.savebase.toNat
  let live := c.frames.filter fun f => !f.spilled
  let fits (o : Nat) : Bool :=
    decide (o + size ≤ lo + c.savesize.toNat) && live.all fun f => decide (o + size ≤ f.off) || decide (f.off + f.size ≤ o)
  ((lo :: live.map fun f => f.off + f.size).filter fits).foldl
    (fun a o => match a with
      | none => some o
      | some b => some (min b o)) none

/-- Eight-byte words as bytes. -/
def wordBytes (l : List Word) : List Byte := l.flatMap fun w => leBytes 8 w.toNat

/-- The states of the registers, 2 bits each (R310). -/
def stateBytes (codes : List Nat) : List Byte :=
  (List.range 64).map fun j =>
    BitVec.ofNat 8 (codes.getD (4 * j) 0 + 4 * codes.getD (4 * j + 1) 0 + 16 * codes.getD (4 * j + 2) 0 + 64 * codes.getD (4 * j + 3) 0)

/-- The registers of a context as a frame holds them: g0 up, then the shadow bank. -/
def Ctx.saveRegs (c : Ctx) (wide : Bool) : List GReg := c.regs.toList.take (if wide then 64 else 32) ++ c.shadow.toList

/-- The group arrival state word (R309; log entry 11): arrived, the sense awaited, and whether a BAR waits for it. -/
def arrivalWord (m : Option Member) : Word :=
  match m with
  | none => 0
  | some m => BitVec.ofNat 64 ((if m.arrived then 1 else 0) + (if m.target then 2 else 0) + (if m.bar.isSome then 4 else 0))

/-- The header of a frame (R408). -/
def Frame.header (f : Frame) (gc : Nat) : List Word :=
  [BitVec.ofNat 64 (f.size / 64),
   BitVec.ofNat 64 ((if f.mode = .m then 0xFFFF else f.basin) * 2 ^ 40 + f.mode.code * 2 ^ 32 + gc),
   BitVec.ofNat 64 ((if f.openPkt then 2 ^ 8 else 0) + (if f.ownCore then 2 ^ 7 else 0) + (if f.tile.isSome then 2 ^ 6 else 0) +
     (if f.owned then 2 ^ 5 else 0) + (if f.wide then 2 ^ 4 else 0)),
   BitVec.ofNat 64 f.dq.length, 0, 0, 0, 0]

/-- A deque record in a frame (log entry 11). -/
def DqRec.words (r : DqRec) : List Word := [r.pc, r.g2, r.g3, BitVec.ofNat 64 (r.mode.code + 4)]

/-- The bytes of a frame of a context (R310). -/
def frameImage (c : Ctx) (f : Frame) (gc : Nat) : List Byte :=
  let regs := c.saveRegs f.wide
  wordBytes (f.header gc) ++
  wordBytes [c.pc, c.status, c.cause.zeroExtend 64, c.epc, c.tval, c.scratch, c.evl, c.ivec, c.iepc, c.fpctl,
    (match f.member with
     | some m => m.va
     | none => 0), arrivalWord f.member, 0, 0, 0, 0] ++
  wordBytes (regs.map fun r => r.val) ++ stateBytes (regs.map fun r => r.st.code) ++
  wordBytes (c.streams.toList.flatMap fun x => (List.range 13).map x.read) ++
  wordBytes (c.desc.toList ++ [0, 0, 0, 0, 0]) ++
  wordBytes (f.dq.flatMap DqRec.words) ++ (List.replicate ((32 * f.dq.length + 63) / 64 * 64 - 32 * f.dq.length) 0) ++
  (match f.tile with
   | none => []
   | some t => ((List.range 4).flatMap fun n => imageOf (t.acc n)) ++ leBytes 8 t.status.toNat ++ List.replicate 248 0)

/-- The protected parts of a frame (R310). -/
def protParts (wide : Bool) (n : Nat) (binder : Bool) : List (Nat × Nat) :=
  let st := if wide then 192 + 512 + 64 else 192 + 256 + 64
  let dq := (32 * n + 63) / 64 * 64
  [(0, 64), (144, 16), (st, 64)] ++ (if n = 0 then [] else [(dqOff wide, dq)]) ++
  (if binder then [(dqOff wide + dq + 16384, 256)] else [])

/-- Set the tags of a frame's registers (R310). -/
def tagFrame (s : State) (g : Nat) (f : Frame) : Nat → List GReg → State
  | _, [] => s
  | i, r :: l => tagFrame (if r.tag then setFrameTag s g f (192 + 8 * i) true else s) g f (i + 1) l

/-- The value of a save handle (R320), with the core in a numbering. -/
def saveHandle (core off : Nat) : Word := BitVec.ofNat 64 (core % 2 ^ 16 * 2 ^ 48 + off / 64 % 2 ^ 16 * 2 ^ 16)

/-- A core's number as an issuer of a mode and basin names it (R320). -/
def coreNumber (s : State) (md : Mode) (b g : Nat) : Nat := if md = .m then g else (virtCore s b g).getD 0

/-! ### Saving a thread (R309) -/

/-- Rename the thread that late results, ends and closures reach (R39, R190); a change of holder clears ARRINT (R199). -/
def retarget (s : State) (g k g' k' : Nat) : State :=
  let swap (e : ChEnd) : ChEnd := if e.holder = .thread g k then { e with holder := .thread g' k', sub := e.sub &&& ~~~(1#64) } else e
  let re (r : ChRecv) : ChRecv := if r.core = g ∧ r.ctx = k then { r with core := g', ctx := k' } else r
  { s with
    chans := s.chans.map fun p => (p.1, { p.2 with
      snd := swap p.2.snd, rcv := swap p.2.rcv, recvs := p.2.recvs.map re })
    chReplies := s.chReplies.map fun r => if r.core = g ∧ r.ctx = k then { r with core := g', ctx := k' } else r
    closures := s.closures.map fun r => if r.core = g ∧ r.ctx = k then { r with core := g', ctx := k' } else r
    atoms := s.atoms.map fun a => if a.core = g ∧ a.ctx = k ∧ a.reply.isSome = true then { a with core := g', ctx := k' } else a }

/-- The thread may be saved where it stands (R309): at a boundary, or in a range operation, with its vector instructions
complete and its atomics performed. -/
def saveable (s : State) (g k : Nat) : Bool :=
  let c := s.ctx g k
  (match c.park with
   | none => true
   | some (.lineTokens _ _) => true
   | some p => p.open) &&
  !vectorBusy s g k && !(s.atoms.any fun a => decide (a.core = g) && decide (a.ctx = k) && a.reply.isNone)

/-- Bring the thread to the point that its frame records (R309): a range operation completes with its partial count, and a
halted thread stands after the HALT. -/
def settleThread (s : State) (g k : Nat) : State :=
  let c := s.ctx g k
  let s1 := match c.range with
    | some (n, rd) => asCtx s g k fun s => endRange s rd n
    | none => leavePark s g k
  let c1 := s1.ctx g k
  s1.setCtx g k { (c1.fills.foldl Ctx.land c1) with
    fills := [], park := none, pc := if c.stop = some .halted then c1.pc + 4 else c1.pc }

/-- A saved member leaves its core's count; its own arrival is sent at once (R108). -/
def groupSaved (s : State) (g k : Nat) : State :=
  match (s.ctx g k).group with
  | none => s
  | some m =>
    let s1 := if m.inPhase s && !m.sent then sendArrival s g m 1 else s
    flushArrivals (s1.setCtx g k { s1.ctx g k with group := none }) g m

/-- The stealable records of a saved context go to a die ready queue; those with no room become unstealable (R106). None
while an add waits for stores to its line. -/
def shedRecords (s : State) (g k : Nat) : Nat → Option State
  | 0 => some s
  | n + 1 =>
    match (s.core g).deque.find? fun r => decide (r.ctx = k) && !r.pinned with
    | none => some s
    | some r =>
      match takeRec s g r with
      | .waits _ => none
      | .none s1 => shedRecords s1 g k n
      | .took r s1 =>
        match placeCont s1 (if isAtelier g then 8 else towerOf g) (contRecord r) with
        | some s2 => shedRecords s2 g k n
        | none => shedRecords (pinRec s g r) g k n

/-- The engine as a save records it (R266): the K-step in computation is finished, and a loaded one is abandoned. -/
def stopEngine (s : State) (g : Nat) : State :=
  let s1 := if (s.core g).tile.loads = [] then s else kComplete s g
  s1.setTile g { (s1.core g).tile with loads := [] }

/-- The frame of a thread that stands at its point, at an offset of its core's save area (R310, R311). -/
def makeFrame (s : State) (g k off : Nat) (own : Bool) : Frame :=
  let c := s.ctx g k
  let wide := (s.core g).wide
  let dq := (s.core g).deque.filter fun r => decide (r.ctx = k)
  let t := (s.core g).tile
  let tile := if t.binder = some k then some t else none
  let n := dq.length
  { id := s.serial, off := off, base := windowOf g + off, size := frameSize wide n tile.isSome, wide := wide
    prot := protParts wide n tile.isSome, spilled := false, tags := [], placed := false
    vcore := coreNumber s c.mode (queueBasin s g) g
    basin := if c.mode = .m then 64 else queueBasin s g, mode := c.mode, owned := c.owned, openPkt := (openEnd s g k).isSome
    ownCore := own || tile.any (fun t => decide (t.queue ≠ []))
    owed := ((c.saveRegs wide).zipIdx.filterMap fun p => p.1.acq.map fun a =>
      let r := if wide then 64 else 32
      (decide (r ≤ p.2), if r ≤ p.2 then p.2 - r + 24 else p.2, a))
    edge := c.acqs ++ [⟨g, s.serial, true⟩], grid := c.grid
    member := c.group.map fun m => { m with sent := m.arrived, arrived := m.arrived }
    dq := dq, tile := tile, counted := c.counted, deferred := c.deferred }

/-- The tile engine after the save of its binder (R266): its accumulators are 0 and full, and it is FREE; OV and the settings stand
(R270). -/
def Tile.left (t : Tile) : Tile := { t with binder := none, accs := [], queue := [], loads := [], chain := [] }

/-- Write a thread's frame, and free its context (R311): the save is a release at dev scope. -/
def writeFrame (s : State) (g k : Nat) (f : Frame) : State :=
  let c := s.ctx g k
  let s1 := writeSpad s.bump g f.off (frameImage c f (gctx g k))
  let s2 := tagFrame s1 g f 0 (c.saveRegs f.wide)
  let s3 := retarget s2 g k (frameKey + f.id) 0
  let s4 := groupSaved s3 g k
  let x := s4.core g
  let x1 := { x with
    frames := x.frames ++ [f], deque := x.deque.filter fun r => decide (r.ctx ≠ k), asleep := false
    tile := if f.tile.isSome then x.tile.left else x.tile }
  let s5 := (s4.setCore g x1).setCtx g k Ctx.fresh
  updGroup (if f.tile.isSome then freePeeks s5 g (peekers (s5.core g)) else s5) f.grid fun p => p.saved k f.id

/-- The outcome of an attempt to save: the frame, no room for a number of bytes, or not yet. -/
inductive SaveOut where
  | saved (s : State) (f : Frame)
  | full (bytes : Nat)
  | later

/-- A core's bed is being moved and the grace period is over (R388 step 2). -/
def movedOut (s : State) (g : Nat) : Bool :=
  !isAtelier g && s.bedMoves.any fun m => decide (m.tower = towerOf g) && decide (m.bed = g % 256 / 16) && m.graced

/-- Attempt to save a thread that is saveable (R309 to R311). -/
def trySave (s : State) (g k : Nat) (own : Bool) : SaveOut :=
  let s1 := settleThread s g k
  if (s1.core g).tile.binder = some k ∧ (s1.core g).tile.loads ≠ [] ∧ kReleased s1 g = false then .later
  else
  match shedRecords s1 g k 65 with
  | none => .later
  | some s2 =>
    let s3 := if (s2.core g).tile.binder = some k then
        (let s' := stopEngine s2 g
         if movedOut s' g then retireQueue s' g (s'.core g).tile.queue.length else s')
      else s2
    let f := makeFrame s3 g k 0 own
    match allocFrame (s3.core g) f.size with
    | none => .full f.size
    | some off =>
      let f1 := makeFrame s3 g k off own
      .saved (writeFrame s3 g k f1) f1

/-- The SAVEFULL record of a save without room (R311, R308). -/
def savefullRec (s : State) (g k bytes : Nat) (wait : Bool) : FaultRec :=
  ⟨faultQueueOf s (faultBasin s g (s.ctx g k).mode), 5, causeSAVEFULL, 0, gctx g k, 0, 0, BitVec.ofNat 64 bytes, [],
    if wait then some (gctx g k) else none⟩

/-- A PREEMPT completes with a value (R320); its wake-up acquires the listed releases. -/
def answerTo (s : State) (a : Option (Nat × Nat × RegNo)) (v : Word) (acqs : List Acq) : State :=
  match a with
  | none => s
  | some (g, k, rd) =>
    asCtx s g k fun s =>
      let s1 := (s.put rd v).next4
      s1.setMe { s1.me with acqs := s1.me.acqs ++ acqs }

/-- The handle of a frame as an answer gives it to its requester (R320). -/
def handleFor (s : State) (a : Option (Nat × Nat × RegNo)) (g off : Nat) : Word :=
  match a with
  | none => 0
  | some (h, k, _) => saveHandle (coreNumber s (s.ctx h k).mode (queueBasin s h) g) off

/-- A save request is over. -/
def dropSave (s : State) (id : Nat) : State := { s with saves := s.saves.filter fun r => decide (r.id ≠ id) }

/-- Mark a save request. -/
def setSave (s : State) (r : SaveReq) : State := { s with saves := s.saves.map fun x => if x.id = r.id then r else x }

/-- The DOUBLE record of a saved double trap, unless it has been posted already (R301); its request is over. -/
def postDouble (s0 s : State) (g k off : Nat) : State :=
  match (s0.ctx g k).stop with
  | some (.double _ _) =>
    let done := s0.saves.any fun r => decide (r.core = g) && decide (r.ctx = k) && decide (r.why = 4) && r.tried
    let q := faultQueueOf s0 (faultBasin s0 g (s0.ctx g k).mode)
    let h := if q = 64 then saveHandle g off else saveHandle (coreNumber s0 .s q g) off
    let s1 := if done then s else post s (doubleRec s0 g k q h)
    { s1 with saves := s1.saves.filter fun r => !(decide (r.core = g) && decide (r.ctx = k) && decide (r.why = 4)) }
  | _ => s

/-! ### Requests for a save (R309, R407) -/

/-- The contexts that a request saves together (R338): the group's live members for a grid's pre-emption. -/
def saveSet (s : State) (r : SaveReq) : List Nat :=
  match r.group with
  | some (key, n) => ((s.grid key).map fun x => (x.group n).live).getD []
  | none => [r.ctx]

/-- Save every listed context, or none (R338). -/
def saveAll (s : State) (g : Nat) (own : Bool) : List Nat → SaveOut
  | [] => .later
  | [k] =>
    match trySave s g k own with
    | .saved s1 f => .saved (postDouble s s1 g k f.off) f
    | o => o
  | k :: l =>
    match trySave s g k own with
    | .saved s1 f => saveAll (postDouble s s1 g k f.off) g own l
    | o => o

/-- The PREEMPTs that wait for a grid complete once none of its saves is left (R338): 0, or 3 when a group kept an open
packet. -/
def settleGrid (s : State) (key : Nat) : State :=
  match s.grid key with
  | none => s
  | some x =>
    if s.saves.any fun r => decide (r.group.map Prod.fst = some key) then s
    else
      let s1 := s.setGrid key { x with waiters := [], openPkt := false }
      x.waiters.foldl (fun s a => answerTo s (some a) (if x.openPkt then 3 else 0)
        (x.groups.flatMap fun p => p.2.edges)) s1

/-- Settle the grid of a key, if any. -/
def settleOpt (s : State) (key : Option Nat) : State :=
  match key with
  | some n => settleGrid s n
  | none => s

/-- A group whose live members have all been saved by a grid's pre-emption or a bed move is SUSPENDED (R329), and is offered anew
(R333); saves by PREEMPT of kind CONTEXT (R339) and by double traps leave their group RUNNING. -/
def suspendGroup (s : State) (gr : Option (Nat × Nat)) (edges : List Acq) : State :=
  updGroup s gr fun p =>
    if p.st = .running ∧ p.live = [] ∧ p.frames ≠ [] then { p with st := .suspended, wide := false, edges := p.edges ++ edges } else p

/-- A request is first among those for its contexts (R407). -/
def firstSave (s : State) (n : Nat) (r : SaveReq) : Bool :=
  !((s.saves.take n).any fun x => decide (x.core = r.core) && (saveSet s x).any fun j => (saveSet s r).contains j)

/-- The issue of every listed context stops at its next boundary; a trap that it owes is taken at its restore (R268). -/
def holdAll (s : State) (g : Nat) : List Nat → State
  | [] => s
  | k :: l =>
    let c := s.ctx g k
    holdAll (if c.stop = none then s.setCtx g k { c with stop := some .saving } else s) g l

/-- The issue of every listed context goes on. -/
def goAll (s : State) (g : Nat) : List Nat → State
  | [] => s
  | k :: l => goAll (unstop s g k) g l

/-- CONTEXT_SAVE (R309 to R311): a requested save is made once its thread stands at a boundary with no packet open;
without room it is withdrawn, or deferred when the part asked for it. The frame of one member of a group restores on its own core:
that of PREEMPT of kind CONTEXT (R339), and that of a double trap (DEDUCED from R329, log entry 92). -/
def execContextSave (n : Nat) (s : State) : Host.Outcome State Fault Refusal :=
  match s.saves[n]? with
  | none => event s
  | some r =>
    let g := r.core
    let k := r.ctx
    let c := s.ctx g k
    let set := saveSet s r
    if firstSave s n r = false ∨ r.deferred = true then event s
    else if r.group.isSome = true ∧ set = [] then event (settleOpt (suspendGroup (dropSave s r.id) r.group []) (r.group.map Prod.fst))
    else if r.group = none ∧ c.phase ≠ .run then event (answerTo (dropSave s r.id) r.answer 1 [])
    else if (set.any fun j => (openEnd s g j).isSome) ∧ r.waited = false then
      event (holdAll s g (set.filter fun j => (openEnd s g j).isNone))
    else if !(set.all fun j => saveable s g j) then
      event (holdAll s g set)
    else
      let gr := if r.group.isSome then r.group else c.grid
      match saveAll s g ((decide (r.why = 1) || decide (r.why = 4)) && c.grid.isSome) set with
      | .later => event s
      | .full bytes =>
        if r.why = 1 then
          event (answerTo (post (goAll (dropSave s r.id) g set) (savefullRec s g k bytes false)) r.answer 2 [])
        else
          let s1 := setSave (goAll s g set) { r with deferred := true, tried := true, freed := false }
          let s2 := if r.tried then s1 else post s1 (savefullRec s g k bytes true)
          event (if r.why = 4 ∧ r.tried = false then
            post s2 { doubleRec s g k (faultQueueOf s (faultBasin s g c.mode)) 0 with waitKey := some (gctx g k) } else s2)
      | .saved s1 f =>
        let s2 := dropSave s1 r.id
        let s3 := if r.why = 2 ∨ r.why = 3 then suspendGroup s2 gr f.edge else s2
        event (settleOpt (answerTo s3 r.answer (handleFor s r.answer g f.off) f.edge) (gr.map Prod.fst))

/-- PACKET_WAIT_EXPIRY (R309, R338): after 10 µs with a packet still open, a save that PREEMPT asked for is withdrawn; a
bed move's is made with the packet open. -/
def execPacketWaitExpiry (n : Nat) (s : State) : Host.Outcome State Fault Refusal :=
  match s.saves[n]? with
  | none => event s
  | some r =>
    let isOpen := (saveSet s r).any fun j => (openEnd s r.core j).isSome
    if firstSave s n r = false ∨ isOpen = false ∨ r.waited = true then event s
    else if r.why = 1 then event (answerTo (goAll (dropSave s r.id) r.core (saveSet s r)) r.answer 3 [])
    else if r.why = 2 then
      let key := r.group.map Prod.fst
      let s1 := goAll (dropSave s r.id) r.core (saveSet s r)
      let s2 := match key with
        | some q => ((s1.grid q).map fun x => s1.setGrid q { x with openPkt := true }).getD s1
        | none => s1
      event (settleOpt s2 key)
    else event (setSave s { r with waited := true })

/-- DEFERRED_SAVE_RETRY (R311): a deferred save is attempted again once a frame of the area has been freed. -/
def execDeferredSaveRetry (n : Nat) (s : State) : Host.Outcome State Fault Refusal :=
  match s.saves[n]? with
  | none => event s
  | some r => if r.deferred && r.freed then event (setSave s { r with deferred := false, freed := false }) else event s

/-! ### Restoring a frame (R310, R312) -/

/-- A register of a frame. -/
def frameReg (s : State) (g : Nat) (f : Frame) (sh : Bool) (n : Nat) : GReg :=
  let i := f.regIndex sh n
  let code := (readByte s.mem (f.base + f.stateOff + i / 4)).toNat / 4 ^ (i % 4) % 4
  ⟨frameWord s f (192 + 8 * i), if code = 1 then .pending else if code = 2 then .empty else .full,
    frameTag s g f (192 + 8 * i), (f.owed.find? fun p => (p.1 == sh) && decide (p.2.1 = n)).map fun p => p.2.2⟩

/-- A stream of a frame, as its words stand. -/
def frameStream (s : State) (f : Frame) (n : Nat) : Stream :=
  let w (i : Nat) : Word := frameWord s f (f.stateOff + 64 + 104 * n + 8 * i)
  ⟨w 0, w 1, #v[(w 2).toNat, (w 4).toNat, (w 6).toNat, (w 8).toNat, (w 10).toNat], #v[w 3, w 5, w 7, w 9, w 11], (w 12).toNat⟩

/-- The lowest field of a stream that R232 to R234 refuse. -/
def badField (x : Stream) : Option Nat := (List.range 13).find? fun i => !x.accepts i (x.read i)

/-- The lowest-numbered stream of a frame that fails its check, with the field (R310). -/
def badStream (s : State) (f : Frame) : Option (Nat × Nat) :=
  (List.range 8).findSome? fun n => (badField (frameStream s f n)).map fun i => (n, i)

/-- The context that a frame holds (R310): edited words are taken as their layouts bound them. -/
def frameCtx (s : State) (g : Nat) (f : Frame) : Ctx :=
  let w (i : Nat) : Word := frameWord s f (64 + 8 * i)
  let st := w 1
  let pm := st.extractLsb' 8 2
  let pc := w 0 &&& ~~~(3#64)
  { Ctx.fresh with
    phase := .run, owned := f.owned, pc := pc, mode := f.mode
    regs := Vector.ofFn fun (i : Fin 64) => if i.val = 0 ∨ (f.wide = false ∧ 32 ≤ i.val) then GReg.zero else frameReg s g f false i.val
    shadow := Vector.ofFn fun (i : Fin 8) => frameReg s g f true (24 + i.val)
    th := st.getLsbD 1, ih := st.getLsbD 2, icount := st.extractLsb' 16 6
    pmode := if pm = 2 ∨ (pm = 3 ∧ f.mode ≠ .m) then 0 else pm
    cause := (w 2).setWidth 8, epc := w 3, tval := w 4, scratch := w 5, evl := w 6 &&& ~~~(0x4000000000000000#64), ivec := w 7 &&& ~~~(0x3F#64)
    iepc := w 8, fpctl := fpctlWrite (w 9)
    streams := Vector.ofFn fun (i : Fin 8) =>
      if (badField (frameStream s f i.val)).isSome then Stream.zero else frameStream s f i.val
    desc := Vector.ofFn fun (i : Fin 11) => frameWord s f (f.stateOff + 64 + 832 + 8 * i.val)
    grid := f.grid, acqs := f.edge, counted := f.counted
    deferred := (f.deferred.map fun d => { d with epc := pc }) ++ (match badStream s f with
      | some (n, i) => [⟨causeSTREAM, streamVal (BitVec.ofNat 3 n) 5 i, pc⟩]
      | none => []) }

/-- The tile engine as a frame holds it, bound to a context (R266): the accumulators are read from their images. -/
def frameTile (s : State) (g k : Nat) (f : Frame) (t : Tile) (waiters : List Nat) : Tile :=
  let off := dqOff f.wide + (32 * f.dq.length + 63) / 64 * 64
  { t with
    binder := some k, loads := [], waiters := waiters.filter fun w => decide (w ≠ k)
    accs := (List.range 4).map fun n => (n, accOf 1024 (frameRead s f (off + 4096 * n) 4096))
    queue := t.queue.map fun q => { q with core := g, ctx := k } }

/-- The thread rejoins its group on the restoring core (R108). -/
def groupRestored (s : State) (g k : Nat) (m : Option Member) : State :=
  match m with
  | none => s
  | some m => joinPlaces (s.setCtx g k { s.ctx g k with group := some m }) (recVia s g m.vault) m.record g false

/-- The ends that a restored thread holds move to its core (R191, R192). The state of a send end that was taken for the thread while
it was saved is with its core again when that is the core it came from. -/
def relocateHeld (s : State) (g : Nat) : List (Nat × Bool) → State
  | [] => s
  | (id, rcv) :: l =>
    let s1 := match flook s.chans id with
      | none => s
      | some c =>
        if (c.theEnd rcv).core ≠ g then relocateEnd s id rcv g
        else if !rcv && !c.sndMoving then s.setChan id { c with sendState := 0 }
        else s
    relocateHeld s1 g l

/-- A frame of core g's save area has been freed: a deferred save is retried (R311). -/
def noteFreed (s : State) (g : Nat) : State :=
  { s with saves := s.saves.map fun r => if r.core = g then { r with freed := true } else r }

/-- Remove a frame. -/
def freeFrame (s : State) (g id : Nat) : State :=
  noteFreed (s.setCore g { s.core g with frames := (s.core g).frames.filter fun f => decide (f.id ≠ id) }) g

/-- Steps 2 and 3 of R312 up to the wait for the engine: the frame of core h is read into context k of core g, its deque records
are pushed, its thread rejoins its group, and the ends that it holds are relocated. -/
def loadFrame (s : State) (h : Nat) (f : Frame) (g k : Nat) : State :=
  let s1 := s.setCtx g k (frameCtx s h f)
  let x := s1.core g
  let s2 := s1.setCore g { x with deque := x.deque ++ f.dq.map fun r => { r with ctx := k } }
  let s3 := retarget (groupRestored s2 g k f.member) (frameKey + f.id) 0 g k
  relocateHeld s3 g (heldEnds s3 g k)

/-- Step 4 of R312: the engine state of a binder is reloaded, the frame is freed, and the thread goes on. -/
def endRestore (s : State) (h : Nat) (f : Frame) (g k : Nat) : State :=
  let s1 := match f.tile with
    | some t => s.setTile g (frameTile s g k f t (s.core g).tile.waiters)
    | none => s
  let s2 := updGroup s1 f.grid fun p => { p with frames := p.frames.filter fun i => decide (i ≠ f.id) }
  freeFrame (s2.setCtx g k { s2.ctx g k with park := none }) h f.id

/-- A context begins the restore of a frame (R312); a group of which one member alone is restored runs again. -/
def beginRestore (s : State) (g k id : Nat) : State :=
  match findFrame s id with
  | some (h, f) =>
    let s1 := s.setCtx g k { Ctx.fresh with phase := .run, owned := f.owned, park := some (.restore id), grid := f.grid }
    updGroup (setFrame s1 h { f with placed := true }) f.grid fun p => { p with st := .running, core := g, live := p.live.filter (fun j => decide (j ≠ k)) ++ [k] }
  | none => s.setCtx g k Ctx.fresh

/-- CONTEXT_RESTORE (R312): the restore in a context is made once the deque has room for its records; a binder's then waits for
the tile engine in its turn (R255). -/
def execContextRestore (core n : Nat) (s : State) : Host.Outcome State Fault Refusal :=
  match (s.ctx core n).park with
  | some (.restore id) =>
    match findFrame s id with
    | none => event (s.setCtx core n Ctx.fresh)
    | some (h, f) =>
      let t := (s.core core).tile
      if t.waiters.contains n then
        (if t.binder = none ∧ t.waiters.head? = some n then event (endRestore s h f core n) else event s)
      else if 64 < (s.core core).deque.length + f.dq.length then event s
      else
        let s1 := loadFrame s h f core n
        if f.tile.isNone then event (endRestore s1 h f core n)
        else
          event ((s1.setCtx core n { s1.ctx core n with park := some (.restore id) }).setTile core
            { (s1.core core).tile with waiters := (s1.core core).tile.waiters ++ [n] })
  | _ => event s

end Sys2Proof.Machine
end

