-- ==== Sys2Proof/Machine/Glaze.lean ====
section
/-! DEFINITION. Glaze launches (R323 to R344 of spec/25_glaze_launches.md). -/

namespace Sys2Proof.Machine

/-- Translation for a basin by an agent that is no core and reaches memory through tower t's slices: a grid's completion store
(R337), an easel (R378) or a port (R345). The walk starts at the basin's root, and the local scratchpad alias names nothing. -/
def translateFor (s : State) (t : Nat) (md : Mode) (b : Nat) (va : Word) (a : Access) (size : Nat) : Tr × State :=
  if md = .m then (translatePhys s ⟨4096, .m, 64⟩ va.toNat a size, s)
  else if 0x00F0000000000000 ≤ va.toNat ∧ va.toNat < 0x00F0000000400000 then (.bad, s)
  else
    match translateFixed s ⟨4096, md, b⟩ va.toNat a with
    | some r => (r, s)
    | none =>
      let root := (s.basin b).ptroot.toNat
      let s1 := walkReads s t b va.toNat 3 root
      match walkFrom s b va.toNat 3 root with
      | .fault => (.page, s1)
      | .leaf x entry zt mk =>
        if mk then (.miss, s1) else (x.answer md a va.toNat, if zt then touchZero s1 x entry else s1)

/-! ### The descriptor (R323 to R325, R330) -/

/-- A dword of a descriptor as a number. -/
def glWord (w : List Word) (i : Nat) : Nat := (w.getD i 0).toNat

/-- The extents, GSIZE and NDEP of a descriptor. -/
def glX (w : List Word) : Nat := glWord w 2 % 2 ^ 32
/-- Y. -/
def glY (w : List Word) : Nat := glWord w 2 / 2 ^ 32
/-- Z. -/
def glZ (w : List Word) : Nat := glWord w 3 % 2 ^ 32
/-- GSIZE. -/
def glSize (w : List Word) : Nat := glWord w 3 / 2 ^ 32 % 16
/-- NDEP. -/
def glDeps (w : List Word) : Nat := glWord w 3 / 2 ^ 36 % 8
/-- The bits of dependence vector i. -/
def glVec (w : List Word) (i : Nat) : Nat := glWord w (4 + i / 2) / 2 ^ (24 * (i % 2)) % 2 ^ 24

/-- A dependence vector (dz, dy, dx) of its bits (R323). -/
def depOf (v : Nat) : Int × Int × Int :=
  ((BitVec.ofNat 8 (v / 2 ^ 16)).toInt, (BitVec.ofNat 8 (v / 2 ^ 8)).toInt, (BitVec.ofNat 8 v).toInt)

/-- A vector is lexicographically positive (R325). -/
def depLegal (d : Int × Int × Int) : Bool :=
  decide (0 < d.1) || (decide (d.1 = 0) && (decide (0 < d.2.1) || (decide (d.2.1 = 0) && decide (0 < d.2.2))))

/-- A dword that breaks row 1 of R330, the eligible towers given. -/
def glBad (w : List Word) (towers : List Nat) (i : Nat) : Bool :=
  let v := glWord w i
  match i with
  | 0 => decide (v % 4 ≠ 0)
  | 2 => decide (glX w = 0) || decide (glY w = 0)
  | 3 =>
    decide (glZ w = 0) || decide (2 ^ 20 < glX w * glY w * glZ w) || decide (glSize w = 0) || decide (4 < glDeps w) ||
    decide (v / 2 ^ 43 % 2 ^ 5 ≠ 0) || decide (v / 2 ^ 56 ≠ 0) || decide (towers = [])
  | 4 => decide (v / 2 ^ 48 ≠ 0) || (decide (glDeps w ≤ 0) && decide (glVec w 0 ≠ 0)) || (decide (glDeps w ≤ 1) && decide (glVec w 1 ≠ 0))
  | 5 => decide (v / 2 ^ 48 ≠ 0) || (decide (glDeps w ≤ 2) && decide (glVec w 2 ≠ 0)) || (decide (glDeps w ≤ 3) && decide (glVec w 3 ≠ 0))
  | 6 => decide (v = 0) || decide (v % 128 ≠ 0)
  | 7 => decide (v % 8 ≠ 0)
  | i => decide (10 ≤ i) && decide (v ≠ 0)

/-- The failure word of R326. -/
def glFail (status info : Nat) : Word := BitVec.ofNat 64 (2 ^ 63 + info * 256 + status)

/-- BASIN of a handle: 0xFFFF in M mode (R326). -/
def handleBasin (b : Nat) : Nat := if 64 ≤ b then 0xFFFF else b

/-- A grid's handle (R326). -/
def gridHandle (key : Nat) (x : Grid) : Word :=
  BitVec.ofNat 64 (handleBasin x.basin * 2 ^ 32 + key / 64 * 2 ^ 28 + key % 64 * 2 ^ 22 + x.reuse)

/-- The grid of a basin that a value names (R326); one that has ended keeps its entry until its completion store. -/
def findGrid (s : State) (v : Word) (b : Nat) : Option (Nat × Grid) :=
  let key := gridKey (v.toNat / 2 ^ 28 % 16) (v.toNat / 2 ^ 22 % 64)
  match s.grid key with
  | none => none
  | some x => if gridHandle key x = v ∧ x.basin = b then some (key, x) else none

/-- The lines of a scoreboard (R324). -/
def boardLines (n : Nat) : Nat := (n + 1023) / 1024

/-- The checks of R330 in order: the failure word, or none. -/
def glCheck (w : List Word) (towers : List Nat) (b : Nat) (full : Bool) : Option Word :=
  match (List.range 16).find? (glBad w towers) with
  | some i => some (glFail 2 i)
  | none =>
    match (List.range (glDeps w)).find? fun i => !depLegal (depOf (glVec w i)) with
    | some i => some (glFail 3 i)
    | none =>
      let p := glWord w 9
      if p ≠ 0 ∧ (p / 2 ^ 63 = 1 ∨ p / 2 ^ 32 % 2 ^ 16 ≠ handleBasin b) then some (glFail 4 0)
      else if full then some (glFail 1 0) else none

/-- The tower that holds a grid (R327): the issuer's, or the lowest-numbered permitted one. -/
def holdingTower (mine : Nat) (towers : List Nat) : Nat := if towers.contains mine then mine else towers.headD 0

/-! ### Groups (R324, R329, R331) -/

/-- The number of groups. -/
def Grid.count (x : Grid) : Nat := x.x * x.y * x.z

/-- The linear index of coordinates, if they lie in the grid. -/
def Grid.index (x : Grid) (c : Int × Int × Int) : Option Nat :=
  if 0 ≤ c.1 ∧ c.1 < x.z ∧ 0 ≤ c.2.1 ∧ c.2.1 < x.y ∧ 0 ≤ c.2.2 ∧ c.2.2 < x.x then
    some (c.2.2.toNat + x.x * (c.2.1.toNat + x.y * c.1.toNat))
  else none

/-- The coordinates (z, y, x) of a linear index. -/
def Grid.coords (x : Grid) (n : Nat) : Int × Int × Int :=
  ((n / (max 1 x.x * max 1 x.y) : Nat), (n / max 1 x.x % max 1 x.y : Nat), (n % max 1 x.x : Nat))

/-- The predecessors of a group inside the grid, in vector order (R325). -/
def Grid.preds (x : Grid) (n : Nat) : List Nat :=
  let c := x.coords n
  x.deps.filterMap fun d => x.index (c.1 - d.1, c.2.1 - d.2.1, c.2.2 - d.2.2)

/-- The successors of a group inside the grid, in vector order (R331). -/
def Grid.succs (x : Grid) (n : Nat) : List Nat :=
  let c := x.coords n
  x.deps.filterMap fun d => x.index (c.1 + d.1, c.2.1 + d.2.1, c.2.2 + d.2.2)

/-- The address of the dword that holds a group's scoreboard bit (R324). -/
def Grid.bitAddr (x : Grid) (n : Nat) : Nat := (x.board.getD (n / 1024) (0, false)).1 + n % 1024 / 64 * 8

/-- How the part's store of a group's bit reaches memory (R137, R386). -/
def Grid.bitVia (x : Grid) (n : Nat) : Via := ⟨x.basin, (x.board[n / 1024]?).map Prod.snd⟩

/-- A group's scoreboard bit. -/
def groupBit (s : State) (x : Grid) (n : Nat) : Bool := (read64 s.mem (x.bitAddr n)).getLsbD (n % 64)

/-- The release test (R331). -/
def released (s : State) (x : Grid) (n : Nat) : Bool := (x.preds n).all (groupBit s x)

/-- The state of a group (R329): one that has no predecessor in the grid is READY from the launch on. -/
def Grid.stateOf (x : Grid) (n : Nat) : GroupSt :=
  let st := match flook x.groups n with
    | some p => p.st
    | none => if x.preds n = [] then .ready else .blocked
  if x.cancelled = true ∧ (st = .ready ∨ st = .blocked ∨ st = .suspended) then .dropped else st

/-- A group as listed, or in the state it has at launch. -/
def Grid.full (x : Grid) (n : Nat) : GGroup :=
  match flook x.groups n with
  | some p => p
  | none => { GGroup.fresh with st := x.stateOf n, stamp := x.stamp }

/-- The number of groups in a state. -/
def Grid.countIn (x : Grid) (st : GroupSt) : Nat := ((List.range x.count).filter fun n => decide (x.stateOf n = st)).length

/-- The number of listed groups in a state. -/
def Grid.listed (x : Grid) (st : GroupSt) : Nat := (x.groups.filter fun p => decide (p.2.st = st)).length

/-- A grid has nothing left to run (R328); a STOPPED one waits for its RESUME. -/
def Grid.over (x : Grid) : Bool :=
  if x.cancelled then decide (x.listed .running = 0) else decide (x.st ≠ .stopped) && decide (x.listed .retired = x.count)

/-- The grid of a basin that a value names and that has not ended (R326, R328). -/
def liveGrid (s : State) (v : Word) (b : Nat) : Option (Nat × Grid) :=
  match findGrid s v b with
  | some p => if p.2.over then none else some p
  | none => none

/-! ### Launch (R330, R337, R342) -/

/-- A free slot of a tower's grid table; which one is a free choice (log entry 6). -/
def freeGrid (s : State) (t : Nat) : Option Nat × State :=
  let l := (List.range 64).filter fun n => (flook (s.tower t).grids n).isNone
  match l with
  | [] => (none, s)
  | _ =>
    let (i, s1) := freeBelow s l.length
    (l[i]?, s1)

/-- The places of the lines of a scoreboard, or the first line that fails (R342). -/
def boardPlaces (s : State) (tr : State → Word → Tr × State) (board : Word) : Nat → (Except (Word × Tr) (List Where)) × State
  | 0 => (.ok [], s)
  | n + 1 =>
    match boardPlaces s tr board n with
    | (.error e, s1) => (.error e, s1)
    | (.ok l, s1) =>
      let a := board + BitVec.ofNat 64 (128 * n)
      match tr s1 a with
      | (.ok w, s2) => if placeOf s2 w.pa = .dram then (.ok (l ++ [w]), s2) else (.error (a, .bad), s2)
      | (r, s2) => (.error (a, r), s2)

/-- Every line of a scoreboard becomes a zero line in the ways of a mask, as by L2ZERO (R342); its tokens are gathered in the
same step (log entry 13). -/
def zeroBoard (s : State) (mask : Nat) : List Where → State
  | [] => s
  | w :: l =>
    let home := homeSlice s w.vault w.pa
    zeroBoard (lineOp (gatherHome s (lineOf w.pa) home mask true) .zero (lineOf w.pa) home) mask l

/-- A grid of a descriptor (R323), held in an entry, with the tower mask, the predecessor if it lives, the scoreboard
and the release of its launch (R337). -/
def newGrid (w : List Word) (b : Nat) (md : Mode) (reuse towers : Nat) (pred : Option (Nat × Nat)) (board : List (Nat × Bool))
    (edges : List Acq) (stamp : Nat) : Grid where
  basin := b
  reuse := reuse
  mode := md
  pc := w.getD 0 0
  argp := w.getD 1 0
  x := glX w
  y := glY w
  z := glZ w
  towers := towers
  prio := glWord w 3 / 2 ^ 40 % 8
  anyOrder := decide (glWord w 3 / 2 ^ 39 % 2 = 1)
  deps := (List.range (glDeps w)).map fun i => depOf (glVec w i)
  gsize := glSize w
  board := board
  doneAt := w.getD 7 0
  value := w.getD 8 0
  pred := pred
  st := if pred.isSome then .waiting else .running
  halt := false
  cancelled := false
  groups := []
  edges := edges
  resumes := []
  stamp := stamp
  waiters := []
  openPkt := false

/-- Take a table entry for a checked descriptor (R327, R328), its scoreboard zeroed; the handle. -/
def launchGrid (s : State) (w : List Word) (b : Nat) (md : Mode) (t slot : Nat) (towers : List Nat) (places : List Where)
    (edges : List Acq) : State × Word :=
  let s1 := zeroBoard s (basinMask s b) places
  let pred := (findGrid s1 (w.getD 9 0) b).map fun p => (p.1, p.2.reuse)
  let x := newGrid w b md (fget 1 (s1.tower t).gridReuse slot) (towerMask towers) pred (places.map fun w => (w.pa, w.vault)) edges s1.serial
  let s2 := s1.bump.setGrid (gridKey t slot) x
  ({ s2 with cores := s2.cores.map fun p => (p.1, { p.2 with asleep := false }) }, gridHandle (gridKey t slot) x)

/-- The first line of a scoreboard that stores on their way must reach first (R152). -/
def boardDraining (s : State) : List Where → Option Nat
  | [] => none
  | w :: l => if lineDraining s s.cur.1 s.cur.2 (lineOf w.pa) then some (lineOf w.pa) else boardDraining s l

/-- GLAZE (R342): Launches the grid of a descriptor. -/
def execGlaze (o : R3) (s : State) : Host.Outcome State Fault Refusal :=
  finish s (gate s o.use fun s =>
    let va := s.g o.a
    if va.toNat % 128 ≠ 0 then .trap causeMISALIGN va
    else withWords s va 16 fun l =>
      let d := l.map Prod.fst
      let w := if o.b ≠ 0 ∧ s.g o.b ≠ 0 then d.set 9 (s.g o.b) else d
      let b := recordBasin s
      let towers := maskTowers s b (glWord w 3 / 2 ^ 48 % 256)
      let t := holdingTower (sliceTower s s.cur.1) towers
      let (slot, s1) := freeGrid s t
      match glCheck w towers b slot.isNone with
      | some v => .done (s1.put o.d v).next4
      | none =>
        match boardPlaces s1 (fun s a => translateNow s s.who a .store 128) (w.getD 6 0) (boardLines (glX w * glY w * glZ w)) with
        | (.error (a, .page), _) => .pageFault causeSTOREF a
        | (.error (a, .miss), s2) => .park s2 (.walk a .store causeSTOREF)
        | (.error (a, _), _) => .trap causeSTOREF a
        | (.ok places, s2) =>
          match boardDraining s2 places with
          | some line => .park s2 (.lineDrain line)
          | none =>
            releaseAt s2 3 fun s =>
              let p := launchGrid s w b s.me.mode t (slot.getD 0) towers places [⟨s.cur.1, s.serial, true⟩]
              .done (p.1.put o.d p.2).next4)

/-- The state word of a grid (R343). -/
def gridStat (x : Grid) : Word :=
  let st := match x.st with
    | .waiting => 1
    | .running => 2
    | .stopped => 3
    | .cancelling => 4
  let ready := if x.st = .waiting then 0 else min (x.countIn .ready) 16383
  BitVec.ofNat 64 (st * 2 ^ 61 + x.listed .retired * 2 ^ 40 + x.listed .running * 2 ^ 27 + x.countIn .suspended * 2 ^ 14 + ready)

/-- The state word of the grid of a basin that a value names; 0 for none (R343). -/
def gridWordOf (s : State) (v : Word) (b : Nat) : Word :=
  match liveGrid s v b with
  | some (_, x) => gridStat x
  | none => 0

/-- GLSTAT (R343): Reads the state of a grid; rd is pending until the answer lands. -/
def execGlstat (o : R2) (s : State) : Host.Outcome State Fault Refusal :=
  finish s (gate s o.use fun s =>
    let b := recordBasin s
    let s1 := (s.putPending o.d).next4
    .done (if o.d = 0 then s1 else s1.setMe { s1.me with
      fills := s1.me.fills ++ [⟨inShadow s.me.ih o.d, o.d.toNat, gridWordOf s (s.g o.a) b, 0, false, some (s.g o.a, b)⟩] }))

/-- A late result as it lands: GLSTAT's is the state of its grid at that time (R343). -/
def Fill.landing (s : State) (f : Fill) : Fill :=
  match f.grid with
  | some (v, b) => { f with val := gridWordOf s v b }
  | none => f

/-- The n-th late result of a context lands. -/
def landFill (s : State) (g k n : Nat) : State :=
  let c := s.ctx g k
  match c.fills[n]? with
  | some f => s.setCtx g k { (c.land (f.landing s)) with fills := c.fills.eraseIdx n }
  | none => s

/-- The late results that may land next: the oldest division or square root (R65), and every GLSTAT (R343). -/
def landable (l : List Fill) : List Nat :=
  (List.range l.length).filter fun n => match l[n]? with
    | some f => f.grid.isSome || !((l.take n).any fun e => e.grid.isNone)
    | none => false

/-- LONG_LATENCY_FILL (R65, R343): a late result of a context lands; which of several is a free choice (log entry 6). -/
def execLongLatencyFill (core ctx : Nat) (s : State) : Host.Outcome State Fault Refusal :=
  match landable (s.ctx core ctx).fills with
  | [] => event s
  | [n] => event (landFill s core ctx n)
  | l =>
    let p := freeBelow s l.length
    event (landFill p.2 core ctx (l.getD p.1 0))

/-- Free the frames of saved threads that will never run, and close the ends they hold (R340). -/
def dropFrames (s : State) : List Nat → State
  | [] => s
  | id :: l =>
    let s1 := closeEnds s none (heldEnds s (frameKey + id) 0)
    dropFrames (match findFrame s1 id with
      | some (g, _) => freeFrame s1 g id
      | none => s1) l

/-- GLCANCEL (R344, R340): Cancels a grid. -/
def execGlcancel (o : R2) (s : State) : Host.Outcome State Fault Refusal :=
  finish s (gate s o.use fun s =>
    match liveGrid s (s.g o.a) (recordBasin s) with
    | none => .done (s.put o.d 6).next4
    | some _ =>
      releaseAt s 3 fun s =>
        match liveGrid s (s.g o.a) (recordBasin s) with
        | none => .done (s.put o.d 6).next4
        | some (key, x) =>
          if x.st = .cancelling then .done (s.put o.d 1).next4
          else
            let susp := x.groups.filter fun p => decide (p.2.st = .suspended)
            let x1 := { x with
              st := .cancelling, cancelled := true
              groups := x.groups.map fun p => if p.2.st = .suspended then (p.1, { p.2 with st := .dropped, frames := [] }) else p
              edges := x.edges ++ [⟨s.cur.1, s.serial, true⟩] }
            .done ((dropFrames (s.bump.setGrid key x1) (susp.flatMap fun p => p.2.frames)).put o.d 0).next4)

/-! ### Placement (R333, R334, R336, R339) -/

/-- The core on which a group's most recently retired predecessor ran. -/
def Grid.lastPred (x : Grid) (n : Nat) : Option Nat :=
  ((x.preds n).filterMap fun i => (flook x.groups i).bind fun p => if p.st = .retired then some p else none).foldl
    (fun (a : Option GGroup) p => match a with
      | none => some p
      | some q => if q.stamp < p.stamp then some p else some q) none |>.map fun p => p.core

/-- A group of a wavefront grid is offered to a core (R333): to every core after its time, or without a retired predecessor;
otherwise to the core on which its last predecessor ran. -/
def Grid.offered (x : Grid) (n g : Nat) : Bool :=
  (x.full n).wide ||
  (match x.lastPred n with
   | none => true
   | some h => decide (h = g))

/-- A predecessor of a group ran on a core. -/
def Grid.ranBefore (x : Grid) (n g : Nat) : Bool :=
  (x.preds n).any fun i => (flook x.groups i).any fun p => decide (p.st = .retired) && decide (p.core = g)

/-- Every frame of a suspended group may be restored on a core (R312, R339). -/
def framesFit (s : State) (g : Nat) (l : List Nat) : Bool :=
  l.all fun id => match findFrame s id with
    | some (h, f) => (f.wide == (s.core g).wide) && !f.placed && (!f.ownCore || decide (h = g))
    | none => true

/-- The group of a grid that a core would take: SUSPENDED groups before READY ones (R339); a wavefront grid offers those in linear
order, any other one a free choice of those whose predecessors ran on the core, or else of all (R333, log entry 6). -/
def gridOffer (s : State) (g : Nat) (x : Grid) : Option Nat :=
  match x.groups.find? fun p =>
      decide (x.stateOf p.1 = .suspended) && framesFit s g p.2.frames && (x.anyOrder || x.offered p.1 g) with
  | some p => some p.1
  | none =>
    let ready := (List.range x.count).filter fun n => decide (x.stateOf n = .ready)
    if x.anyOrder then
      let near := ready.filter fun n => x.ranBefore n g
      let l := if near = [] then ready else near
      l[Config.freeNat s.freeCtr % max 1 l.length]?
    else ready.find? fun n => x.offered n g

/-- The best group that a core with n FREE contexts may take (R333): key, group, PRIO and time. -/
def bestGroup (s : State) (g n : Nat) : Option (Nat × Nat × Nat × Nat) :=
  let l := s.towers.flatMap fun p => p.2.grids.map fun q => (gridKey p.1 q.1, q.2)
  let c := l.filterMap fun q =>
    let x := q.2
    if x.st = .running ∧ x.basin = queueBasin s g ∧ inTowers x.towers (towerOf g) = true ∧ x.gsize ≤ n ∧ x.listed .running < 4096 then
      (gridOffer s g x).map fun i => (q.1, i, x.prio, (x.full i).stamp)
    else none
  c.foldl (fun (a : Option (Nat × Nat × Nat × Nat)) q => match a with
    | none => some q
    | some b => if b.2.2.1 < q.2.2.1 ∨ (b.2.2.1 = q.2.2.1 ∧ q.2.2.2 < b.2.2.2) then some q else some b) none

/-- The first n FREE contexts of a core (R333). -/
def freeCtxs (s : State) (g n : Nat) : List Nat :=
  (((List.range (s.core g).count).drop 1).filter fun k => decide ((s.ctx g k).phase = .free)).take n

/-- The edges that are not yet visible at dev scope (R336). -/
def openEdges (s : State) (l : List Acq) : List Acq := (l.filter fun a => !visibleAt s 3 a.core a.mark).eraseDups

/-- The edges of a group's predecessors (R335, R336). -/
def Grid.predEdges (x : Grid) (n : Nat) : List Acq := (x.preds n).flatMap fun i => (x.group i).edges

/-- The edges that the members of a group acquire on core g (R336). Those of a predecessor on g itself need no drain and no
invalidation: only g's own stores of it remain, which g sees, and g has acquired the launch for it. After one elsewhere, L1 is
invalidated also when its stores are visible already. -/
def Grid.edgesFor (x : Grid) (n g : Nat) : List Acq :=
  (if x.ranBefore n g then [] else x.edges) ++ x.resumes ++ (x.preds n).flatMap fun i =>
    let p := x.group i
    if p.core = g then p.edges.filter fun a => decide (a.core = g) else p.edges ++ [⟨p.core, 0, false⟩]

/-- The value in a member's g8 (R334). -/
def memberWord (gsize i : Nat) : Word := BitVec.ofNat 64 (gsize * 16 + i)

/-- Start the members of a group in contexts (R334). -/
def startMembers (s : State) (g : Nat) (x : Grid) (key n : Nat) (acqs : List Acq) : Nat → List Nat → State
  | _, [] => s
  | i, k :: l =>
    let c := x.coords n
    let args := [(x.argp, false), (BitVec.ofInt 64 c.2.2, false), (BitVec.ofInt 64 c.2.1, false), (BitVec.ofInt 64 c.1, false),
      (memberWord x.gsize i, false)]
    let s1 := startLaunch s g k (if x.mode = .m then .m else .u) x.pc args acqs false
    startMembers (s1.setCtx g k { s1.ctx g k with grid := some (key, n) }) g x key n acqs (i + 1) l

/-- Begin the restore of every frame in its context. -/
def restoreAll (s : State) (g : Nat) : List (Nat × Nat) → State
  | [] => s
  | (k, id) :: l => restoreAll (beginRestore s g k id) g l

/-- Place a group on a core (R333, R336, R339). -/
def placeGroup (s : State) (g key n : Nat) : State :=
  match s.grid key with
  | none => s
  | some x =>
    let p := x.full n
    if p.st = .suspended then
      restoreAll (s.setGrid key (x.setGroup n { p with st := .running, core := g })) g ((freeCtxs s g p.frames.length).zip p.frames)
    else
      let ks := freeCtxs s g x.gsize
      let inherited := openEdges s (x.predEdges n)
      let s1 := if x.anyOrder then { s with freeCtr := s.freeCtr + 1 } else s
      startMembers (s1.setGrid key (x.setGroup n { p with st := .running, core := g, live := ks, edges := inherited })) g x key n
        (x.edgesFor n g) 0 ks

/-- GROUP_OFFER_TIMEOUT (R333): 200 ns after its release a group is offered to every core. -/
def execGroupOfferTimeout (tower slot group : Nat) (s : State) : Host.Outcome State Fault Refusal :=
  let key := gridKey tower slot
  match s.grid key with
  | none => event s
  | some x =>
    if x.stateOf group = .ready ∨ x.stateOf group = .suspended then
      event (s.setGrid key (x.setGroup group { x.full group with wide := true }))
    else event s

/-! ### Retirement and the end (R331, R332, R335, R337) -/

/-- A member's thread has ended (R332). -/
def memberEnds (s : State) (g k : Nat) : State :=
  updGroup s (s.ctx g k).grid fun p => { p with live := p.live.filter fun j => decide (j ≠ k) }

/-- Successors whose release test now passes are READY (R331). -/
def releaseSuccs (s : State) (key : Nat) : List Nat → State
  | [] => s
  | n :: l =>
    match s.grid key with
    | none => s
    | some x =>
      if x.stateOf n = .blocked ∧ released s x n = true then
        releaseSuccs (s.bump.setGrid key (x.setGroup n { GGroup.fresh with st := .ready, stamp := s.serial })) key l
      else releaseSuccs s key l

/-- GROUP_RETIREMENT (R331, R332, R336): a group whose members have all ended retires: its scoreboard bit is set, its
writes and those it inherited are its successors' edges, and the successors are tested. -/
def execGroupRetirement (tower slot group : Nat) (s : State) : Host.Outcome State Fault Refusal :=
  let key := gridKey tower slot
  match s.grid key with
  | none => event s
  | some x =>
    let p := x.group group
    if p.st = .running ∧ p.live = [] ∧ p.frames = [] then
      let a := x.bitAddr group
      let s1 := perform64Via s.bump (x.bitVia group) a (read64 s.mem a ||| BitVec.ofNat 64 (2 ^ (group % 64)))
      let p1 := { p with st := .retired, stamp := s.serial, edges := openEdges s1 (p.edges ++ [⟨p.core, s.serial, false⟩]) }
      let s2 := s1.setGrid key (x.setGroup group p1)
      let s3 := if x.cancelled then s2 else releaseSuccs s2 key (x.succs group)
      event { s3 with cores := s3.cores.map fun q => (q.1, { q.2 with asleep := false }) }
    else event s

/-- A waiting grid whose predecessor has ended runs, or is STOPPED when it was pre-empted meanwhile (R328, R337); its groups without
predecessors are released now (R333). -/
def Grid.afterPred (x : Grid) (key reuse now : Nat) : Grid :=
  if x.st = .waiting ∧ x.pred = some (key, reuse) then
    { x with st := if x.halt then .stopped else .running, edges := x.edges ++ [⟨0, 0, true⟩], pred := none, stamp := now }
  else x

/-- The entry of an ended grid is freed, and its successors start (R326, R328). A PREEMPT that still waits for it completes
(R338). -/
def endGrid (s : State) (key : Nat) (x : Grid) : State :=
  let w := s.tower (key / 64)
  let s1 := s.setTower (key / 64) { w with
    grids := fdel w.grids (key % 64), gridReuse := fset w.gridReuse (key % 64) (nextReuse x.reuse) }
  let s2 := dropFrames s1 (x.groups.flatMap fun p => p.2.frames)
  let s3 := x.waiters.foldl (fun s a => answerTo s (some a) (if x.openPkt then 3 else 0) []) { s2 with
    saves := s2.saves.filter fun r => decide (r.group.map Prod.fst ≠ some key) }
  { s3.bump with
    towers := s3.towers.map fun p => (p.1, { p.2 with grids := p.2.grids.map fun q => (q.1, q.2.afterPred key x.reuse s3.serial) })
    cores := s3.cores.map fun q => (q.1, { q.2 with asleep := false }) }

/-- The completion value of a grid (R337). -/
def Grid.doneValue (x : Grid) : Word := if x.cancelled then x.value ^^^ 0x8000000000000000 else x.value

/-- An 8-byte store that the part makes for a basin: to memory, or on its way to a device register (R391), as of no core. -/
def partStore (s : State) (b : Nat) (w : Where) (v : Word) : State :=
  if placeOf s w.pa = .device then
    { s.bump with remotes := s.remotes ++ [⟨s.serial, 2 * frameKey, 0, b, w.pa, 8, some (leBytes 8 v.toNat), none, s.serial, none⟩] }
  else storeVia s (w.via b) w.pa (leBytes 8 v.toNat)

/-- The completion store of a grid (R337), or the record of one that fails. -/
def storeDone (s : State) (key : Nat) (x : Grid) : State :=
  if x.doneAt = 0 then s
  else
    match translateFor s (key / 64) x.mode x.basin x.doneAt .store 8 with
    | (.ok w, s1) => partStore s1 x.basin w x.doneValue
    | (_, s1) => post s1 ⟨faultQueueOf s1 x.basin, 8, causeSTOREF, 0, 0xFFFF, 0, x.doneAt, gridHandle key x, [], none⟩

/-- GRID_COMPLETION_STORE (R337): a grid with nothing left to run ends: once the writes of its groups are visible at dev
scope, its completion value is stored and its entry is freed. -/
def execGridCompletionStore (tower slot : Nat) (s : State) : Host.Outcome State Fault Refusal :=
  let key := gridKey tower slot
  match s.grid key with
  | none => event s
  | some x =>
    if x.doneAt ≠ 0 ∧ (translateFor s tower x.mode x.basin x.doneAt .store 8).1 = .miss then event s
    else if x.over = true ∧ ((x.edges ++ x.resumes ++ x.groups.flatMap fun p => p.2.edges).all fun a => visibleAt s 4 a.core a.mark) then
      event (endGrid (storeDone s key x) key x)
    else event s

end Sys2Proof.Machine
end

