-- ==== Sys2Proof/Machine/Task.lean ====
section
/-! DEFINITION. The TASK instructions of contexts, tasks and forks, and the dispatcher (R93 to R106, R113 to R123 of
spec/07_execution_model.md; R95, R318 REPART). -/

namespace Sys2Proof.Machine

/-! ### TID and EXIT (R114, R115) -/

/-- What TID writes (R114). -/
def tidWord (s : State) : Word :=
  let g := s.cur.1
  let m := decide (s.me.mode = .m)
  let b := queueBasin s g
  BitVec.ofNat 64 ((if m then 0xFFFF else b) * 2 ^ 40 + s.me.mode.code * 2 ^ 32 + coreNumber s s.me.mode b g * 2 ^ 16 +
    (if s.myCore.wide then 16 else 0) + s.cur.2)

/-- TID (R114): Writes the identity of the executing thread. -/
def execTid (o : Rd) (s : State) : Host.Outcome State Fault Refusal :=
  finish s (gate s o.use fun s => .done (s.put o.d (tidWord s)).next4)

/-- A register of a context is pending (R115). -/
def Ctx.anyPending (c : Ctx) : Bool := (c.regs.toList ++ c.shadow.toList).any fun r => r.st == .pending

/-- The steps of EXIT before the context leaves its thread (R115): with no open packet and nothing outstanding, a group's
phase over, the tile engine's chain drained and, in context 0, an event latched, they take effect together (R1): every end is
closed, the group left and the engine released. -/
def exitSteps (s : State) (k : State → Eff) : Eff :=
  let g := s.cur.1
  let c := s.cur.2
  match openEnd s g c with
  | some h => .trap causePACKET h
  | none =>
    if s.me.anyPending || vectorBusy s g c then .park s .exitDrain
    else
      leaveWait s fun s =>
        if isBinder s && decide (s.myCore.tile.queue ≠ []) then .park s (.tileQueue false)
        else if c = 0 ∧ s.me.evl = 0 then .park s .exitZero
        else
          let s1 := leaveOwn (closeEnds s.bump (some ⟨g, s.serial, false⟩) (heldEnds s g c))
          k (if isBinder s1 then s1.setTile g { s1.myCore.tile with binder := none } else s1)

/-- A completion of a basin's thread is counted (R387). -/
def countEnd (s : State) (g : Nat) : State :=
  match coreBasin s g with
  | none => s
  | some b =>
    let x := s.basin b
    s.setBasin b { x with ended := (x.ended.headD 0 + 1) :: x.ended.drop 1 }

/-- The executing context leaves its thread (R93, R106, R115): to DONE with its registers when START owns it, else to
FREE. -/
def endThread (s : State) : State :=
  let g := s.cur.1
  let k := s.cur.2
  let s1 := if s.me.counted then countEnd (memberEnds s g k) g else memberEnds s g k
  let c := s1.ctx g k
  let s2 := s1.setCore g { unpinAll (s1.core g) k with asleep := false }
  s2.setCtx g k (if c.owned then { c with phase := .done, park := none, fetched := none, relMark := none, inval := none } else Ctx.fresh)

/-- EXIT (R115): Ends the thread; in context 0 it waits for an event and goes on. -/
def execExit (s : State) : Host.Outcome State Fault Refusal :=
  finish s (exitSteps s fun s =>
    if s.cur.2 = 0 then .done s.next4 else .done (endThread s))

/-! ### START, REAP, CTXPUT, CTXGET (R117 to R119) -/

/-- k is a context of the core other than 0 (R117). -/
def goodCtx (s : State) (v : Word) : Bool := decide (v.toNat / 16 = 0) && decide (v ≠ 0) && decide (v.toNat < s.myCore.count)

/-- START (R117): Starts a context from a launch record or from its held image, as a release at core scope that the started
thread acquires. -/
def execStart (o : R3) (s : State) : Host.Outcome State Fault Refusal :=
  finish s (privGate s (.start o) .s true (gate s o.use fun s =>
    let g := s.cur.1
    let k := (s.g o.a).toNat
    let a := s.g o.b
    let answer (s : State) (v : Word) : Eff := .done (s.put o.d v).next4
    if vectorBusy s s.cur.1 s.cur.2 then .park s .vectorDrain
    else if !goodCtx s (s.g o.a) then answer s 3
    else
      let c := s.ctx g k
      if c.phase = .run ∨ c.phase = .done then answer s 1
      else if a = 0 then
        if c.phase = .free then answer s 2
        else
          releaseAt s 1 fun s =>
            answer (s.setCtx g k { s.ctx g k with phase := .run, owned := true, counted := true, acqs := [⟨g, s.serial, false⟩] }) 0
      else if a.toNat % 64 ≠ 0 then .trap causeMISALIGN a
      else withWords s a 8 fun w =>
        match parseRecord s (recordBasin s) s.me.mode w with
        | none => answer s 2
        | some (r, _) =>
          if !argsMovable s w then answer s 2
          else
            releaseAt s 1 fun s =>
              let args := (w.drop 1).take 5
              answer (startLaunch (carryArgs s args) g k r.mode (w.getD 0 (0, false)).1 args [⟨g, s.serial, false⟩] true) 0))

/-- REAP (R118): Frees a finished or held context; it waits for a running START-owned thread. -/
def execReap (o : R2) (s : State) : Host.Outcome State Fault Refusal :=
  finish s (privGate s (.reap o) .s true (gate s o.use fun s =>
    let g := s.cur.1
    let k := (s.g o.a).toNat
    let answer (s : State) (v : Word) : Eff := .done (s.put o.d v).next4
    let free (s : State) : State := (s.setCtx g k Ctx.fresh).setCore g { (s.setCtx g k Ctx.fresh).core g with asleep := false }
    if !goodCtx s (s.g o.a) then answer s 3
    else
      let c := s.ctx g k
      match c.phase with
      | .free => answer s 0
      | .held => answer (free s) 2
      | .done => answer (free s) (((c.regIn false 4).val.setWidth 32).zeroExtend 64 <<< 32 ||| 1)
      | .run => if c.owned then .park s (.reap k) else answer s 0))

/-- The item of a CTXPUT or CTXGET operand (R119). -/
def ctxItem (v : Word) : Nat := v.toNat / 256 % 256

/-- The reserved bits of the operand are zero. -/
def ctxClean (v : Word) : Bool := decide (v.toNat / 2 ^ 16 = 0) && decide (v.toNat / 16 % 16 = 0)

/-- CTXPUT accepts a value for an item (R119). -/
def itemAccepts (regs i : Nat) (v : Word) : Bool :=
  decide (i < regs) || (decide (64 ≤ i) && decide (i < 64 + regs)) || (decide (i = 128) && decide (v.toNat % 4 = 0)) ||
  (decide (i = 129) && decide (v.toNat ≤ 1)) || decide (i = 130)

/-- Write an item of an image (R119). -/
def writeItem (c : Ctx) (i : Nat) (v : Word) (tag : Bool) : Ctx :=
  if i < 64 then c.setRegIn false (BitVec.ofNat 6 i) (GReg.of v tag)
  else if i < 128 then
    let n := BitVec.ofNat 6 (i - 64)
    c.setRegIn false n { c.regIn false n with st := .empty }
  else if i = 128 then { c with pc := v }
  else if i = 129 then { c with mode := Mode.ofCode v.toNat }
  else { c with fpctl := fpctlWrite v }

/-- CTXPUT (R119): Writes an item of a context's image. -/
def execCtxput (o : R3) (s : State) : Host.Outcome State Fault Refusal :=
  finish s (privGate s (.ctxput o) .s true (gate s o.use fun s =>
    let g := s.cur.1
    let v := s.g o.a
    let k := v.toNat % 16
    let i := ctxItem v
    let c := s.ctx g k
    let answer (s : State) (x : Word) : Eff := .done (s.put o.d x).next4
    if k = 0 ∨ s.myCore.count ≤ k then answer s 3
    else if c.phase = .run ∨ c.phase = .done then answer s 1
    else if !ctxClean v || !itemAccepts s.myCore.regCount i (s.g o.b) then answer s 4
    else
      let img := if c.phase = .free then { Ctx.fresh with phase := .held } else c
      answer (s.setCtx g k (writeItem img i (s.g o.b) (s.gtag o.b))) 0))

/-- The number of a context's state (R119). -/
def Phase.code : Phase → Nat
  | .free => 0
  | .held => 1
  | .run => 2
  | .done => 3

/-- An item of an image, with its tag (R119). -/
def readItem (c : Ctx) (regs i : Nat) : Option (Word × Bool) :=
  if i < regs then some ((c.regIn false (BitVec.ofNat 6 i)).val, (c.regIn false (BitVec.ofNat 6 i)).tag)
  else if 64 ≤ i ∧ i < 64 + regs then some (if (c.regIn false (BitVec.ofNat 6 (i - 64))).st = .full then 0 else 2, false)
  else if i = 128 then some (c.pc, false)
  else if i = 129 then some (BitVec.ofNat 64 c.mode.code, false)
  else if i = 130 then some (c.fpctl, false)
  else none

/-- CTXGET (R119): Reads an item of a context's image. -/
def execCtxget (o : R2) (s : State) : Host.Outcome State Fault Refusal :=
  finish s (privGate s (.ctxget o) .s true (gate s o.use fun s =>
    let v := s.g o.a
    let k := v.toNat % 16
    let i := ctxItem v
    let c := s.ctx s.cur.1 k
    if !ctxClean v then .trap causeILL v
    else if i = 255 then
      .done (s.put o.d (BitVec.ofNat 64 (if s.myCore.count ≤ k then 4 else if k = 0 then 2 else c.phase.code))).next4
    else if k = 0 ∨ s.myCore.count ≤ k ∨ (c.phase ≠ .held ∧ c.phase ≠ .done) then .trap causeILL v
    else
      match readItem c s.myCore.regCount i with
      | none => .trap causeILL v
      | some (x, t) => .done (s.putTagged o.d x t).next4))

/-! ### FORK, RETF, FWAIT, ENQ (R120 to R123) -/

/-- A register of either bank has its tag set (R104). -/
def Ctx.anyTag (c : Ctx) : Bool := (c.regs.toList ++ c.shadow.toList).any fun r => r.tag

/-- FORK's uses: rd, ra, and g2 and g3 as data (R120), also when the child runs inline (log entry 76). -/
def forkUse (o : R2) : Use := ⟨[o.d, o.a], [(o.a, o.x), (2, false), (3, false)], [o.d]⟩

/-- FORK (R120): Pushes the parent's continuation and starts the child, or runs it inline when the deque is full. -/
def execFork (o : R2) (s : State) : Host.Outcome State Fault Refusal :=
  finish s (gate s (forkUse o) fun s =>
    let t := s.g o.a
    if !aligned4 t then .trap causeMISALIGN t
    else if 64 ≤ s.myCore.deque.length then .done ((s.put o.d (s.me.pc + 4)).goto t)
    else
      releaseAt s 1 fun s =>
        let r : DqRec := ⟨s.me.pc + 4, s.g 2, s.g 3, s.me.mode, recordBasin s, s.cur.2, s.me.anyTag, ⟨s.cur.1, s.serial, false⟩⟩
        let s1 := s.bump.setMyCore { s.myCore with deque := s.myCore.deque ++ [r] }
        .done ((s1.put o.d (s.me.pc + 5)).goto t))

/-- The newest record that a context has pushed (R121). -/
def newestRec (c : Core) (k : Nat) : Option DqRec := (c.deque.filter fun r => decide (r.ctx = k)).getLast?

/-- Remove the last occurrence of a record from a deque. -/
def eraseLast (l : List DqRec) (r : DqRec) : List DqRec := (l.reverse.erase r).reverse

/-- The stolen path of RETF (R121): the join count falls by one, as a release at dev scope, and the thread ends as by
EXIT. What EXIT waits for comes first, so that re-execution decrements once (log entry 20). -/
def retfStolen (s : State) : Eff :=
  let va := s.g 3
  if va.toNat % 8 ≠ 0 then .trap causeMISALIGN va
  else
    withPlace s va .atomic 8 causeSTOREF fun w =>
      if placeOf s w.pa = .device ∨ protectedPlace s w.pa 8 = true then .trap causeSTOREF va
      else if lineDraining s s.cur.1 s.cur.2 (lineOf w.pa) then .park s (.lineDrain (lineOf w.pa))
      else
        releaseAt s 3 fun s => exitSteps s fun s =>
          let s1 := addCount s (recordBasin s) w (-1)
          if s.cur.2 = 0 then .done s1.next4 else .done (endThread s1)

/-- RETF (R121): Ends a forked child: inline, back to its parent, or along the stolen path. The increment of a taker has
always been performed when its record has left the deque (R105). It parks on g3 when it reads it, and on g2 while that is pending
(log entry 76). -/
def execRetf (o : Ra) (s : State) : Host.Outcome State Fault Refusal :=
  finish s (gate s o.use fun s =>
    let l := s.g o.a
    if l.getLsbD 1 then .trap causeMISALIGN l
    else if !l.getLsbD 0 then .done (s.goto l)
    else if (s.me.reg 3).st ≠ .full then .park s (.regs [(false, 3)])
    else
      match newestRec s.myCore s.cur.2 with
      | some r =>
        if r.pc = l - 1 ∧ r.g3 = s.g 3 then
          if (s.me.reg 2).st = .pending then .park s (.regs [(false, 2)])
          else
            let s1 := s.setMyCore { s.myCore with deque := eraseLast s.myCore.deque r }
            .done (((s1.put 2 r.g2).put 3 r.g3).goto (l - 1))
        else retfStolen s
      | none => retfStolen s)

/-- FWAIT (R122): Waits for a join count of zero; the read is an acquire at dev scope. -/
def execFwait (o : Ra) (s : State) : Host.Outcome State Fault Refusal :=
  finish s (gate s o.use fun s =>
    let va := s.g o.a
    if va.toNat % 8 ≠ 0 then .trap causeMISALIGN va
    else
      withPlace s va .load 8 causeLOADF fun w =>
        waitRead s w fun v => if v = 0 then .done (flashL1 s s.cur.1).next4 else .park s (.fwait w.pa))

/-- FWAIT_WAKE (R122): the join count has been performed as 0, and the FWAIT re-executes. -/
def execFwaitWake (core ctx : Nat) (s : State) : Host.Outcome State Fault Refusal :=
  match (s.ctx core ctx).park with
  | some (.fwait pa) => if seen64 s core ctx pa = 0 then event (unpark s core ctx) else event s
  | _ => event s

/-- ENQ (R123): Places a launch record on a die ready queue. -/
def execEnq (o : R2) (s : State) : Host.Outcome State Fault Refusal :=
  finish s (gate s o.use fun s =>
    let va := s.g o.a
    let answer (s : State) (v : Word) : Eff := .done (s.put o.d v).next4
    if va.toNat % 64 ≠ 0 then .trap causeMISALIGN va
    else if vectorBusy s s.cur.1 s.cur.2 then .park s .vectorDrain
    else withWords s va 8 fun w =>
      match parseRecord s (recordBasin s) s.me.mode w with
      | none => answer s 2
      | some (r, exact) =>
        if !argsMovable s w then answer s 2
        else
          let (t, s1) := chooseTower s s.cur.1 r.towers
          releaseAt s1 (if isAtelier s.cur.1 = false ∧ t = towerOf s.cur.1 then 2 else 3) fun s =>
            match placeOn s t (bindExact { r with acqs := [⟨s.cur.1, s.serial, false⟩] } exact t) with
            | none => answer s 1
            | some s2 => answer (carryArgs s2 ((w.drop 1).take 5)) 0)

/-! ### REPART (R95, R318) -/

/-- The idle condition of R95. -/
def repartIdle (s : State) (g : Nat) : Bool :=
  let c := s.core g
  (c.ctxs.all fun p => decide (p.1 = 0) || decide (p.2.phase = .free) || decide (p.2.phase = .held)) &&
  (match c.tile.binder with
   | none => true
   | some k => decide (k = 0)) &&
  (c.copies.all fun p => decide (p.ctx = 0))

/-- The registers from g32 up whose fill is outstanding. -/
def Ctx.highPending (c : Ctx) : List Nat :=
  ((List.range 32).map (· + 32)).filter fun n => (c.regIn false (BitVec.ofNat 6 n)).st == .pending

/-- A context's registers from g32 up become 0, full, untagged (R95). That write takes effect over a pending register's fill, which
REPART does not wait for (R39): the register stays pending and is 0 once the fill has landed. -/
def Ctx.narrow (c : Ctx) : Ctx :=
  { c with
    regs := Vector.ofFn fun (i : Fin 64) =>
      if 32 ≤ i.val ∧ c.highPending.contains i.val = false then GReg.zero else c.regs[i.val]'(i.isLt)
    void := c.highPending }

/-- REPART (R95): Changes the core's register-count mode when its other contexts are idle. -/
def execRepart (o : R2) (s : State) : Host.Outcome State Fault Refusal :=
  finish s (privGate s (.repart o) .s true (gate s o.use fun s =>
    let v := (s.g o.a).toNat
    let c := s.myCore
    if 1 < v then .done (s.put o.d 2).next4
    else if decide (v = 1) = c.wide then .done (s.put o.d 0).next4
    else if !repartIdle s s.cur.1 then .done (s.put o.d 1).next4
    else
      .done ((s.setMyCore { c with wide := decide (v = 1), ctxs := [(0, s.me.narrow)], asleep := false }).put o.d 0).next4))

/-! ### The dispatcher (R96) -/

/-- A core's bed is being moved, and its dispatcher fills no context (R388). -/
def bedMoving (s : State) (g : Nat) : Bool :=
  !isAtelier g && s.bedMoves.any fun m => decide (m.tower = towerOf g) && decide (m.bed = g % 256 / 16)

/-- A core is an atelier core or one of a present tower (R19). -/
def corePresent (s : State) (g : Nat) : Bool := isAtelier g || towerPresent s (towerOf g)

/-- Start a record's thread in a context (R100, R105, R312). -/
def startRec (s : State) (g k : Nat) (r : ReadyRec) : State :=
  match r.work with
  | .launch pc args => startLaunch s g k r.mode pc args r.acqs false
  | .cont d => startCont s g k d
  | .frame id =>
    match findFrame s id with
    | some (h, f) => beginRestore (setFrame s h { f with edge := f.edge ++ r.acqs }) g k id
    | none => s

/-- The core sleeps until its next retry, and asks a neighbour for work unless a request is outstanding (R96 step 4). -/
def askSteal (s : State) (g : Nat) : State :=
  let c := s.core g
  let l := (neighbours (towerOf g)).filter fun t => (basinTowers s (queueBasin s g)).contains t
  let c1 := { c with asleep := true }
  match c.steal, l[c.stealTurn % max 1 l.length]? with
  | none, some t => s.setCore g { c1 with steal := some ⟨t, false, none⟩, stealTurn := c.stealTurn + 1 }
  | _, _ => s.setCore g c1

/-- Step 3 of R96: the top record of the deque of one other core of the tower, given as a choice. -/
def stealHere (s : State) (g k victim : Nat) : State :=
  let b := queueBasin s g
  let l := (matesOf s (towerOf g) b).filter fun h => decide (h ≠ g)
  match l[victim % max 1 l.length]? with
  | none => askSteal s g
  | some h =>
    match takeTop s h b with
    | .took r s1 => startCont s1 g k r
    | .waits s1 => s1
    | .none s1 => askSteal s1 g

/-- The group goes before the record (R333): by PRIO, then by time. -/
def groupFirst (q : Nat × Nat × Nat × Nat) (r : ReadyRec) : Bool :=
  decide (r.prio < q.2.2.1) || (decide (r.prio = q.2.2.1) && decide (q.2.2.2 < r.stamp))

/-- Steps 2 to 4 of R96 for a tower core. A READY group is compared with the record that the pop has chosen, and displaces it
while the pop stays counted (log entry 75). -/
def fillFromTower (s : State) (g k bank0 bank1 victim : Nat) : State :=
  let t := towerOf g
  let (cand, s1) := popFor s g t bank0 bank1
  match cand, bestGroup s1 g (freeCount s1 g) with
  | some (n, r), some q => if groupFirst q r then placeGroup s1 g q.1 q.2.1 else startRec (dropRecord s1 t n r) g k r
  | some (n, r), none => startRec (dropRecord s1 t n r) g k r
  | none, some q => placeGroup s1 g q.1 q.2.1
  | none, none => stealHere s1 g k victim

/-- DISPATCH_FILL (R96): a dispatcher tries to fill the lowest-numbered FREE context of its core. The banks sampled and
the core chosen at random are given. An atelier core belongs to no tower (log entry 18). -/
def execDispatchFill (core bank0 bank1 victim : Nat) (s : State) : Host.Outcome State Fault Refusal :=
  match freeCtx s core with
  | none => event s
  | some k =>
    let c := s.core core
    if c.asleep || bedMoving s core || !corePresent s core then event s
    else
      match c.stolen with
      | r :: l => event (startRec (s.setCore core { c with stolen := l }) core k r)
      | [] =>
        match takeTop s core (queueBasin s core) with
        | .took r s1 => event (startCont s1 core k r)
        | .waits s1 => event s1
        | .none s1 =>
          if isAtelier core then event (s1.setCore core { s1.core core with asleep := true })
          else event (fillFromTower s1 core k bank0 bank1 victim)

/-- DISPATCH_RETRY_EXPIRY (R96): 256 clocks after a failed try the dispatcher tries again. -/
def execDispatchRetryExpiry (core : Nat) (s : State) : Host.Outcome State Fault Refusal :=
  if (s.core core).asleep then event (s.setCore core { s.core core with asleep := false }) else event s

/-- A tower's best record that may be sent to a core of another tower (R96 step 4), with its bank. -/
def bestToSend (s : State) (t g : Nat) : Option (Nat × ReadyRec) :=
  bestOf (((s.tower t).banks.flatMap fun p => p.2.map fun r => (p.1, r)).filter fun p =>
    decide (p.2.basin = queueBasin s g) && decide (p.2.exact = none) && inTowers p.2.towers (towerOf g) && frameFits s g p.2.work)

/-- STEAL_REQUEST_RECEIVE (R96 step 4): the asked tower answers with its best record, with the top record of a core's
deque, or with none. -/
def execStealRequestReceive (core victim : Nat) (s : State) : Host.Outcome State Fault Refusal :=
  match (s.core core).steal with
  | none => event s
  | some q =>
    if q.answered || !corePresent s core || !towerPresent s q.tower then event s
    else
      let answer (s : State) (r : Option ReadyRec) : State := s.setCore core { s.core core with steal := some ⟨q.tower, true, r⟩ }
      match bestToSend s q.tower core with
      | some (n, r) => event (answer (dropRecord s q.tower n r) (some r))
      | none =>
        let b := queueBasin s core
        let l := matesOf s q.tower b
        match l[victim % max 1 l.length]? with
        | none => event (answer s none)
        | some h =>
          match takeTop s h b with
          | .took r s1 => event (answer s1 (some (contRecord r)))
          | .waits s1 => event s1
          | .none s1 => event (answer s1 none)

/-- A stolen record without a context is placed on the requester's tower, or waits at the core (R96). -/
def keepStolen (s : State) (g : Nat) (r : ReadyRec) : State :=
  let p := match r.work with
    | .cont _ => placeCont s (towerOf g) r
    | _ => placeOn s (towerOf g) r
  match p with
  | some s1 => s1
  | none => s.setCore g { s.core g with stolen := (s.core g).stolen ++ [r] }

/-- STEAL_ANSWER_RECEIVE (R96): the answer of a steal request arrives, and its record starts or is kept. -/
def execStealAnswerReceive (core : Nat) (s : State) : Host.Outcome State Fault Refusal :=
  match (s.core core).steal with
  | none => event s
  | some q =>
    if !q.answered || !corePresent s core then event s
    else
      let s1 := s.setCore core { s.core core with steal := none }
      match q.found with
      | none => event s1
      | some r =>
        match freeCtx s1 core with
        | some k => if bedMoving s1 core then event (keepStolen s1 core r) else event (startRec s1 core k r)
        | none => event (keepStolen s1 core r)

end Sys2Proof.Machine
end

