-- ==== Sys2Proof/Machine/Preempt.lean ====
section
/-! DEFINITION. PREEMPT and RESUME (R313, R320, R321 of spec/23_traps_and_preemption.md; R338, R339 of
spec/25_glaze_launches.md). -/

namespace Sys2Proof.Machine

/-- The core that a target operand names (R320): virtual in S mode, global in M mode. -/
def targetCore (s : State) (n : Nat) : Option Nat :=
  if s.me.mode = .m then
    (if (n < 2048 ∧ towerPresent s (towerOf n) = true) ∨ (2048 ≤ n ∧ n < 2064) then some n else none)
  else physCore s (queueBasin s s.cur.1) n

/-- The context that a target operand names (R320): a core, and a context from 1 to 15 of that core. Contexts 8 to 15 of a core in
8-context mode are no contexts of it, and give BADARG (DESIGN CHOICE, log entry 91). -/
def targetCtx (s : State) (v : Word) : Option (Nat × Nat) :=
  let k := v.toNat % 16
  match targetCore s (v.toNat / 16 % 2 ^ 16) with
  | none => none
  | some g => if v.toNat / 2 ^ 20 = 0 ∧ 1 ≤ k ∧ k < (s.core g).count then some (g, k) else none

/-- Ask for the save of every running group of a grid that has live members; one whose members have all been saved is SUSPENDED
(R338). -/
def askGroups (s : State) (key : Nat) : List (Nat × GGroup) → State
  | [] => s
  | p :: l =>
    match p.2.live with
    | [] => askGroups (suspendGroup s (some (key, p.1)) []) key l
    | k :: _ => askGroups
        { s.bump with saves := s.saves ++ [⟨s.serial, p.2.core, k, 2, none, false, false, false, some (key, p.1), false⟩] } key l

/-- PREEMPT of kind GRID (R338): placement stops, and every running group is to be saved. -/
def preemptGrid (s : State) (o : R3) : Eff :=
  match liveGrid s (s.g o.a) (recordBasin s) with
  | none => .done (s.put o.d 6).next4
  | some (key, x) =>
    match x.st with
    | .waiting => .done ((s.setGrid key { x with halt := true }).put o.d 0).next4
    | .running =>
      let s1 := s.setGrid key { x with st := .stopped, waiters := x.waiters ++ [(s.cur.1, s.cur.2, o.d)] }
      let s2 := askGroups s1 key (x.groups.filter fun p => decide (p.2.st = .running))
      .done (settleGrid (s2.parkMe (.answer s.serial)) key)
    | _ => .done (s.put o.d 0).next4

/-- PREEMPT (R320): Saves a context, or stops a grid, and waits for the answer. -/
def execPreempt (o : R3) (s : State) : Host.Outcome State Fault Refusal :=
  finish s (privGate s (.preempt o) .s false (gate s o.use fun s =>
    let kind := s.g o.b
    if 1 < kind.toNat then .done (s.put o.d 4).next4
    else if kind = 1 then preemptGrid s o
    else
      match targetCtx s (s.g o.a) with
      | none => .done (s.put o.d 4).next4
      | some (g, k) =>
        if g = s.cur.1 ∧ k = s.cur.2 then .done (s.put o.d 4).next4
        else
          .park { s.bump with saves := s.saves ++ [⟨s.serial, g, k, 1, some (s.cur.1, s.cur.2, o.d), false, false, false, none, false⟩] }
            (.answer s.serial)))

/-! ### RESUME (R321) -/

/-- The live frame that a save handle names for the executing thread (R320, R321); the handle keeps its value when the
frame's bed has been taken (R388). -/
def handleFrame (s : State) (v : Word) : Option (Nat × Frame) :=
  let n := v.toNat
  if n % 2 ^ 16 ≠ 0 ∨ n / 2 ^ 32 % 2 ^ 16 ≠ 0 then none
  else
    let names (f : Frame) : Bool := decide (f.off = n / 2 ^ 16 % 2 ^ 16 * 64) &&
      (decide (s.me.mode = .m) || (decide (f.basin = recordBasin s) && decide (f.vcore = n / 2 ^ 48)))
    if s.me.mode = .m then
      match targetCore s (n / 2 ^ 48) with
      | none => none
      | some g => ((s.core g).frames.find? names).map fun f => (g, f)
    else s.cores.findSome? fun p => (p.2.frames.find? names).map fun f => (p.1, f)

/-- RESUME of kind FRAME (R321): a restore record is placed under R101. The mask of an EXACT record is not looked at, and does not
keep it from the saving core's tower (DESIGN CHOICE, log entry 56). -/
def resumeFrame (s : State) (o : R3) : Eff :=
  match handleFrame s (s.g o.a) with
  | none => .done (s.put o.d 4).next4
  | some (g, f) =>
    let w := (s.g o.b).toNat
    let exact := decide (w / 2 ^ 16 % 2 = 1) || f.ownCore
    let mask := w / 2 ^ 8 % 2 ^ 8
    let home := if isAtelier g then sliceTower s g else towerOf g
    let towers := if mask = 0 then [home] else maskTowers s (recordBasin s) mask
    let elig := if exact ∨ towers = [] then [home] else towers
    if f.placed then .done (s.put o.d 4).next4
    else
      let r : ReadyRec := ⟨.frame f.id, f.mode, f.basin, w / 2 ^ 21 % 8, 0, if exact then some g else none,
        if exact then [g] else [], towerMask elig, [⟨s.cur.1, s.serial, true⟩]⟩
      let (t, s1) := chooseTower s s.cur.1 r.towers
      match placeOn s1 t r with
      | none => .done (s1.put o.d 1).next4
      | some s2 => .done ((setFrame s2 g { f with placed := true }).put o.d 0).next4

/-- RESUME of kind GRID (R339). -/
def resumeGrid (s : State) (o : R3) : Eff :=
  match liveGrid s (s.g o.a) (recordBasin s) with
  | none => .done (s.put o.d 6).next4
  | some (key, x) =>
    if x.st = .stopped then
      let x1 := { x with st := .running, resumes := x.resumes ++ [⟨s.cur.1, s.serial, true⟩] }
      let s1 := s.bump.setGrid key x1
      .done (({ s1 with cores := s1.cores.map fun p => (p.1, { p.2 with asleep := false }) } : State).put o.d 0).next4
    else .done (s.put o.d 1).next4

/-- A stopped thread goes on (R313): it re-executes the instruction that faulted, or continues after its HALT. -/
def Ctx.restart (c : Ctx) (a : Acq) : Ctx :=
  { c with stop := none, pc := if c.stop = some .halted then c.pc + 4 else c.pc, acqs := c.acqs ++ [a] }

/-- RESUME of kind STOPPED (R313, R321). -/
def resumeStopped (s : State) (o : R3) : Eff :=
  match targetCtx s (s.g o.a) with
  | none => .done (s.put o.d 4).next4
  | some (g, k) =>
    let c := s.ctx g k
    if g = s.cur.1 ∧ k = s.cur.2 then .done (s.put o.d 4).next4
    else if c.phase = .run ∧ (c.stop = some .fault ∨ c.stop = some .halted) then
      .done ((s.bump.setCtx g k (c.restart ⟨s.cur.1, s.serial, true⟩)).put o.d 0).next4
    else .done (s.put o.d 1).next4

/-- RESUME of kind COPY (R292, R321). -/
def resumeCopy (s : State) (o : R3) : Eff :=
  let v := (s.g o.a).toNat
  match targetCore s (v / 2 ^ 16 % 2 ^ 16) with
  | none => .done (s.put o.d 4).next4
  | some g =>
    if v / 2 ^ 32 ≠ 0 then .done (s.put o.d 4).next4
    else
      let b := recordBasin s
      match (s.core g).copies.find? fun c => decide (c.ticket = v % 2 ^ 16) && c.paused.isSome &&
          (decide (s.me.mode = .m) || decide (c.basin = b)) with
      | some c => .done ((setCopy s.bump g { c with paused := none, mark := s.serial }).put o.d 0).next4
      | none => .done (s.put o.d 1).next4

/-- RESUME (R321): Resumes a frame, a grid, a stopped context or a paused copy, as a release at dev scope. -/
def execResume (o : R3) (s : State) : Host.Outcome State Fault Refusal :=
  finish s (privGate s (.resume o) .s false (gate s o.use fun s =>
    let w := (s.g o.b).toNat
    let kind := w % 8
    if w / 2 ^ 24 ≠ 0 ∨ w / 2 ^ 17 % 16 ≠ 0 ∨ w / 2 ^ 3 % 32 ≠ 0 ∨ 3 < kind ∨ (2 ≤ kind ∧ w / 8 ≠ 0) then
      .done (s.put o.d 4).next4
    else
      releaseAt s 3 fun s =>
        match kind with
        | 0 => resumeFrame s o
        | 1 => resumeGrid s o
        | 2 => resumeStopped s o
        | _ => resumeCopy s o))

end Sys2Proof.Machine
end

