-- ==== Sys2Proof/Machine/Guarded.lean ====
section
/-! DEFINITION. Package links, checkpoints of guarded towers, the census, and warm and cold tower resets (R349, R352, R360
to R370 of spec/27_tokens_and_dies.md). -/

namespace Sys2Proof.Machine

/-- The checkpoint interval in µs: INTERVAL, or the default of 1 ms for 0 (R363, R392). -/
def Guard.period (x : Guard) : Nat := if x.interval = 0 then 1000 else x.interval

/-! ### Links (R349, R352) -/

/-- Every link of a tower to a present tower has failed (R352). -/
def isolated (s : State) (t : Nat) : Bool :=
  towerPresent s t && [0, 1, 2, 3].all fun i => !linkUp s t i

/-- FLIT_RESEND (R352): a flit received with an error is resent from the retry buffer; LINKRETRY counts it, saturating. When
the resend fails as well, the link is one bad resend nearer to its failure. -/
def execFlitResend (tower link : Nat) (bad : Bool) (s : State) : Host.Outcome State Fault Refusal :=
  if linkUp s tower link then
    let x := s.guard tower
    event (s.setGuard tower { x with
      retry := fset x.retry link (min (fget 0 x.retry link + 1) 0xFFFF)
      bad := fset x.bad link (if bad then fget 0 x.bad link + 1 else 0) })
  else event s

/-- Mark a link of a tower as failed. -/
def failLink (s : State) (t link : Nat) : State :=
  s.setGuard t { s.guard t with down := insertSorted link (s.guard t).down }

/-- LINK_FAILURE (R352): after 16 consecutive failed resends a link is declared failed, at both its ends, and traffic is
rerouted. -/
def execLinkFailure (tower link : Nat) (s : State) : Host.Outcome State Fault Refusal :=
  if linkUp s tower link = true ∧ 16 ≤ fget 0 (s.guard tower).bad link then
    event (failLink (failLink s tower link) (linkPeer tower link) link)
  else event s

/-! ### Checkpoints (R360 to R364) -/

/-- A core's number is on a tower. -/
def onTower (t g : Nat) : Bool := decide (g / 256 = t)

/-- The listed cores of a tower. -/
def towerCores (s : State) (t : Nat) : FMap Core := s.cores.filter fun p => onTower t p.1

/-- Steps 1 and 2 of R360 have ended: no vector instruction is outstanding, and every engine is at a K-step boundary. -/
def towerQuiet (s : State) (t : Nat) : Bool :=
  (towerCores s t).all fun p => decide (p.2.vjobs = []) && decide (p.2.tile.loads = [])

/-- An address in the scratchpad windows of a tower. -/
def inSpads (t a : Nat) : Bool := decide (spBase + t * 2 ^ 32 ≤ a) && decide (a < spBase + (t + 1) * 2 ^ 32)

/-- A line's bytes. -/
def lineBytes (s : State) (l : Nat) : List Byte := readBytes s.mem (128 * l) 128

/-- What a checkpoint captures (R360 step 5). -/
def capture (s : State) (t : Nat) : Ckpt where
  no := (s.guard t).count + 1
  stamp := s.serial
  cores := towerCores s t
  base := s.tower t
  spads := s.mem.filter fun c => inSpads t c.1
  lines := s.lines
  owned := (s.lines.filter fun p => decide (p.2.ownerSlice = some t)).map fun p => (p.1, lineBytes s p.1, flook s.stale p.1)
  chans := s.chans
  atoms := s.atoms.filter fun a => onTower t a.core
  feOps := s.feOps.filter fun a => onTower t a.core
  remotes := s.remotes.filter fun a => onTower t a.core
  escs := s.escs.filter fun a => onTower t a.core
  saves := s.saves.filter fun a => onTower t a.core
  closures := s.closures.filter fun a => (flook s.chans a.chan).any fun c => decide (c.tower = t)
  replies := s.chReplies.filter fun a => onTower t a.core

/-- Take the cut (R360 step 4) and capture the tower; issue resumes (step 6). -/
def takeCut (s : State) (t : Nat) : State :=
  let x := s.guard t
  s.bump.setGuard t { x with
    stopping := false, cutAt := s.clock, count := x.count + 1, pending := some (capture s t), undoNew := [], logNew := [] }

/-- Begin a checkpoint of a guarded tower that is not storing one (R360, R362): issue stops, and the cut is taken as soon
as the tower is quiet. -/
def askCut (s : State) (t : Nat) : State :=
  let x := s.guard t
  if x.on && x.pending.isNone then
    if towerQuiet s t then takeCut s t else s.setGuard t { x with stopping := true }
  else s

/-- CHECKPOINT_INTERVAL_EXPIRY (R362): a guarded tower takes a checkpoint. -/
def execCheckpointIntervalExpiry (tower : Nat) (s : State) : Host.Outcome State Fault Refusal := event (askCut s tower)

/-- The checkpoint buddy of a tower (R349). -/
def buddy (t : Nat) : Nat := t ^^^ 1

/-- The buddy of a tower stands: it is present and not isolated, so that it can serve a recovery (R364, R368). -/
def buddyStands (s : State) (t : Nat) : Bool := towerPresent s (buddy t) && !isolated s (buddy t)

/-- The global context number that names a tower in a record (R364). -/
def towerSource (t : Nat) : Nat := 16 * (256 * t)

/-- The record of a stored or abandoned checkpoint (R364). How many bytes have been streamed is not stated (log entry 6). -/
def postCkpt (s : State) (t no outcome : Nat) : State :=
  post { s with freeCtr := s.freeCtr + 1 } ⟨64, 6, causeCHECKPOINT, 0, towerSource t, BitVec.ofNat 64 no, Config.freeWord s.freeCtr,
    BitVec.ofNat 64 outcome, [], none⟩

/-- The pending checkpoint is abandoned: the stored one stays in force, with the images and the log of both cuts. -/
def abandon (x : Guard) : Guard := { x with pending := none, undoNew := [], log := x.log ++ x.logNew, logNew := [] }

/-- CHECKPOINT_STORED (R360 to R362, R364): the buddy has written the last byte and the commit word, or the checkpoint is
abandoned (1 the buddy is absent or under reset, 2 a region is full). A stored checkpoint releases the messages that its cut
covers, and discards the before-images and the replay log of the cut before it. -/
def execCheckpointStored (tower outcome : Nat) (s : State) : Host.Outcome State Fault Refusal :=
  let x := s.guard tower
  match x.pending with
  | none => event s
  | some c =>
    let o := if buddyStands s tower then outcome else 1
    if o = 0 then
      let x1 := { x with
        stored := some c, pending := none, covered := c.stamp
        undo := x.undoNew, undoNew := [], log := x.logNew, logNew := [] }
      event (postCkpt (s.setGuard tower x1) tower c.no 0)
    else if o ≤ 2 then event (postCkpt (s.setGuard tower (abandon x)) tower c.no o)
    else event s

/-- BEFORE_IMAGE_COPY (R361): the content of a page of the tower's DRAM is copied to the buddy's undo region. -/
def execBeforeImageCopy (tower page : Nat) (s : State) : Host.Outcome State Fault Refusal :=
  if page * 65536 / 2 ^ 35 = tower ∧ tower < 8 then event (takeImage s page) else event s

/-! ### Census (R367) -/

/-- Bit t of an RSET. -/
def inSet (n t : Nat) : Bool := decide (n / 2 ^ t % 2 = 1)

/-- The tokens in messages for a line. -/
def flying (s : State) (l : Nat) : Nat :=
  (s.msgs.map fun m => if m.line = l then (match m.body with
    | .tok c _ _ _ _ => c
    | .reply c => c
    | _ => 0) else 0).sum

/-- The line's tokens, wherever they are. -/
def LineTok.total (x : LineTok) : Nat := x.ctl.tok + (x.slices.map fun p => p.2.tok).sum

/-- The RSET of the owner token that is in a message for the line; empty when it is in none. -/
def flyingRset (s : State) (l : Nat) : Nat :=
  (s.msgs.findSome? fun m => if m.line = l then (match m.body with
    | .tok _ true _ _ r => some r
    | _ => none) else none).getD 0

/-- The line's RSET, of the controller, of the home tag, or of the owner token on its way, has a tower's bit. -/
def hasRset (s : State) (l r : Nat) : Bool :=
  let x := s.line l
  inSet x.ctl.rset r || inSet (flyingRset s l) r || x.slices.any fun p => p.2.owner && inSet p.2.rset r

/-- A line is due for the census of tower r (R366, R367), and loses what r's slice held; a home tag of r itself, whose tokens its
checkpoint and the replayed messages give, keeps eight. -/
def censusLine (s : State) (r l : Nat) : State :=
  let x := s.line l
  match (if x.ownerSlice = some r then flook x.slices r else none) with
  | some g =>
    let missing := 8 - (x.total + flying s l)
    s.setLine l { x with slices := fset x.slices r { g with tok := g.tok + missing } }
  | none => if hasRset s l r then s.setLine l { x with slices := fdel x.slices r, due := insertSorted r x.due } else s

/-- The RSET without a tower's bit. -/
def dropBit (n r : Nat) : Nat := if inSet n r then n - 2 ^ r else n

/-- The census of tower r ends (R367 step 3): the owner holder creates the tokens that are missing and clears the RSET bit. A
request of the home slice is then met. -/
def endCensus (s : State) (l r t : Nat) (byHome : Bool) : State :=
  let x := s.line l
  let x1 := { x with maker := none, due := x.due.filter fun d => decide (d ≠ r) }
  if byHome then
    match flook x.slices t with
    | some g => settleReq (s.setLine l { x1 with
        slices := [(t, { g with tok := 8, rset := 0 })], ctl := { x.ctl with rset := dropBit x.ctl.rset r } }) t l
    | none => s
  else s.setLine l { x1 with ctl := { x.ctl with tok := 8, rset := 0 } }

/-- CENSUS_SCAN (R367): the scan of a tower's home tags and vaults reaches a line that is due: its owner holder begins the
census. Once every reply is in and no other holder or message has a token, it creates the tokens that are missing; a slice that
has tokens by then is asked again. A request that waited for a census is activated. -/
def execCensusScan (tower line : Nat) (s : State) : Host.Outcome State Fault Refusal :=
  let x := s.line line
  let next (s : State) : State := match (s.line line).weir with
    | e :: _ => weirNext s line e.home
    | [] => s
  if pageSaved s (line / 512) = false then event s
  else
    match x.maker, x.due, x.owner line with
    | none, [], _ => event (next s)
    | none, _ :: _, some (t, _) => if t = tower then event (startCensus s line) else event s
    | some (r, 0), _, some (t, byHome) =>
      let others := (x.slices.filter fun p => !(byHome && decide (p.1 = t))).map Prod.fst
      let asked := s.msgs.any fun m => decide (m.line = line) && decide (m.body = .census byHome)
      if t ≠ tower ∨ flying s line ≠ 0 ∨ asked = true then event s
      else if others ≠ [] ∨ (byHome = true ∧ 0 < x.ctl.tok) then
        let n := (others.filter fun d => decide (d ≠ r)).length + if byHome then 1 else 0
        event (sendAll (s.setLine line { x with maker := some (r, n) }) t line (knownHome s line) (.census byHome) others)
      else event (next (endCensus s line r t byHome))
    | _, _, _ => event s

/-- CENSUS_RECEIVE (R367 step 2): a recipient of a census sends all its tokens of the line to the census maker, as for a
persistent write, and discards its data. The slice of the tower under census has none of the tokens that were lost, and sends what
it has taken since (log entry 26). -/
def execCensusReceive (n : Nat) (s : State) : Host.Outcome State Fault Refusal :=
  match tokReady s n with
  | some m =>
    match m.body with
    | .census byHome =>
      let s1 := dropMsg s n
      let x := s1.line m.line
      match x.maker with
      | none => event s1
      | some (r, _) =>
        if m.toCtl then
          if byHome then
            event (sendTok (s1.setLine m.line { x with ctl := { x.ctl with tok := 0 } }) (ctlTower m.line) m.src false m.line m.home
              (.reply x.ctl.tok))
          else event s1
        else if byHome = true ∧ m.dst = m.src then event s1
        else
          let c := ((flook x.slices m.dst).map SliceTag.tok).getD 0
          let s2 := s1.setLine m.line { x with slices := fdel x.slices m.dst }
          if m.dst ≠ r then event (sendTok s2 m.dst m.src (!byHome) m.line m.home (.reply c))
          else if c = 0 then event s1
          else event (sendTok s2 m.dst m.src (!byHome) m.line m.home (.tok c false false false 0))
    | _ => event s
  | none => event s

/-! ### Resets (R365 to R370) -/

/-- The basin that a page of DRAM belongs to, or 64 where the atelier has given it to none. -/
def pageOwner (s : State) (pa : Nat) : Nat :=
  match s.allocs.find? fun a => decide (a.base ≤ pa) && decide (pa < a.base + 2 ^ a.bits) with
  | some a => a.basin
  | none => 64

/-- The data that only a slice held is lost: the line is DRAM's again. -/
def revertLine (s : State) (l : Nat) : State :=
  match flook s.stale l with
  | some img => { s with mem := writeBytes s.mem (128 * l) img, stale := fdel s.stale l }
  | none => s

/-- The request of a tower whose weir is gone begins again (R354). -/
def restartReqs (l : FMap TokReq) (r : Nat) : FMap TokReq :=
  l.map fun p => if p.2.stage = 3 ∧ p.2.home / 256 = r then (p.1, { p.2 with stage := 1 }) else p

/-- A weir drops the entries that tower r requested and ends an activation of r's (R366 step 1). -/
def dropRequester (s : State) (r l : Nat) : State :=
  let x := s.line l
  let x1 := { x with
    weir := x.weir.filter fun e => decide (e.requester ≠ r), fifo := x.fifo.filter fun f => decide (f.requester ≠ r)
    active := x.active.filter fun p => decide (p.2.1 ≠ r) }
  let cut : Bool := match x.weir with
    | e :: _ => decide (e.requester = r) && decide (e.st ≠ .placed)
    | [] => false
  if cut then
    let s1 := { s.setLine l x1 with msgs := s.msgs.filter fun m => !(decide (m.line = l) && decide (m.body.cls = 2)) }
    match x1.weir with
    | e :: _ => weirNext s1 l e.home
    | [] => s1
  else s.setLine l x1

/-- Every line that a list names, in turn. -/
def overLines (s : State) (f : State → Nat → State) (l : List Nat) : State := l.foldl f s

/-- A cause of R302, which names every code that is ever produced. -/
def someCause (n : Nat) : Nat := if n % 20 < 14 then n % 20 + 1 else n % 20 + 3

/-- Post a DATALOST record for a line (R308, R369). Its CAUSE and SOURCE are not stated (log entry 6). -/
def postLost (s : State) (l : Nat) : State :=
  let v := (Config.freeWord s.freeCtr).toNat
  post { s with freeCtr := s.freeCtr + 1 } ⟨faultQueueOf s (pageOwner s (128 * l)), 4, someCause v, 0, v / 256 % 2 ^ 16, 0,
    BitVec.ofNat 64 (128 * l), 0, [], none⟩

/-- A line is subject to the census of a cold reset (R369): its RSET has r's bit, or it is homed on r and its controller does not
hold all its tokens. -/
def coldCensus (s : State) (r l : Nat) : Bool :=
  hasRset s l r || (decide (knownHome s l / 256 = r) && decide ((s.line l).ctl.tok ≠ 8))

/-- DMARK for a line is on its way: its home has written it. -/
def markFlying (s : State) (l : Nat) : Bool := s.msgs.any fun m => decide (m.line = l) && decide (m.body = .dmark)

/-- A cold reset's effect on one line (R369): what r's slice held is lost, and a line homed on r, or with RSET bit r, is due for the
census. Where r's home slice had the owner token, the controller recreates it with DRAM's data, and data that HD shows as lost is
reported. -/
def coldLine (s0 : State) (r l : Nat) : State :=
  let due := coldCensus s0 r l
  let s := dropRequester s0 r l
  let x := s.line l
  let x1 := { x with
    slices := fdel x.slices r, reqs := restartReqs (fdel x.reqs r) r
    weir := x.weir.filter fun e => decide (e.home / 256 ≠ r)
    fifo := x.fifo.filter fun f => decide (f.home / 256 ≠ r)
    active := if x.weir.any fun e => decide (e.home / 256 = r) then [] else x.active
    maker := if ctlTower l = r ∨ x.ownerSlice = some r then none else x.maker
    due := if due then insertSorted r x.due else x.due }
  if x.ownerSlice = some r then
    let s1 := revertLine (takeImage s (l / 512)) l
    let s2 := s1.setLine l { x1 with ctl := { x.ctl with tok := x.ctl.tok + 1, own := true, hd := false } }
    let s3 := { s2 with msgs := s2.msgs.filter fun m => !(decide (m.line = l) && decide (m.body = .dmark)) }
    if x.ctl.hd || markFlying s l then postLost s3 l else s3
  else s.setLine l x1

/-- A message that outlives a cold reset of r: tokens on their way keep their count, and persistent requests that neither r's
weirs hold nor r's slices have made go on; r's own requests, and what is for r's weirs, are lost (log entry 26). -/
def outlives (r : Nat) (m : TokMsg) : Bool :=
  match m.body with
  | .treq _ q => decide (q ≠ r)
  | .preq _ q => decide (q ≠ r) && decide (m.home / 256 ≠ r)
  | .pact _ q => decide (q ≠ r) && decide (m.home / 256 ≠ r)
  | .pdeact _ _ => decide (m.home / 256 ≠ r)
  | .pack => decide (m.home / 256 ≠ r)
  | .pdone => decide (m.home / 256 ≠ r) && decide (m.src ≠ r)
  | _ => true

/-- The ends that listed records carry close when the records are lost (R196). -/
def closeRecs (s : State) (l : List ReadyRec) : State :=
  l.foldl (fun s q => match q.work with
    | .launch _ args => args.foldl (fun s a => closeCarried s a.1 a.2 none) s
    | _ => s) s

/-- The records that tower r holds: in its banks, and stolen for its cores (R96, R101). -/
def towerRecs (s : State) (r : Nat) : List ReadyRec :=
  (s.tower r).banks.flatMap (fun p => p.2) ++
  (towerCores s r).flatMap fun p => p.2.stolen ++ (match p.2.steal with
    | some q => q.found.toList
    | none => [])

/-- The words in the receive buffers of tower r's cores are lost with the scratchpads: they count as discarded, and what they
carry closes (R186, R195, R196). -/
def loseWords (s : State) (r : Nat) : State :=
  s.chans.foldl (fun s p =>
    match flook s.chans p.1 with
    | none => s
    | some c =>
      let mine := c.bufs.filter fun b => onTower r b.core
      let words := mine.flatMap fun b => bufWords s c b
      if words = [] then s
      else
        closeWords (s.setChan p.1 { c with
          disc := min (c.disc + words.length) (2 ^ 32 - 1), bufs := c.bufs.map fun b => if onTower r b.core then { b with words := [] } else b })
          words) s

/-- The ends on tower r have lost their holders. -/
def orphan (r : Nat) (c : Chan) : Chan :=
  let e (x : ChEnd) : ChEnd := match x.holder with
    | .thread g _ => if onTower r g then { x with holder := .gone } else x
    | _ => x
  { c with snd := e c.snd, rcv := e c.rcv, recvs := c.recvs.filter fun q => !onTower r q.core }

/-- A cold reset of tower r (R369): every context and scratchpad is lost, with the words and records they held. -/
def coldReset (s0 : State) (r : Nat) : State :=
  let x := s0.guard r
  let s := closeRecs (loseWords s0 r) (towerRecs s0 r)
  let s1 := { s with
    msgs := s.msgs.filter (outlives r)
    cores := s.cores.filter fun p => !onTower r p.1
    towers := fdel s.towers r
    mem := s.mem.filter fun c => !inSpads r c.1
    chans := s.chans.map fun p => (p.1, orphan r p.2)
    atoms := s.atoms.filter fun a => !onTower r a.core
    feOps := s.feOps.filter fun a => !onTower r a.core
    remotes := s.remotes.filter fun a => !onTower r a.core
    escs := s.escs.filter fun a => !onTower r a.core
    saves := s.saves.filter fun a => !onTower r a.core
    chReplies := s.chReplies.filter fun a => !onTower r a.core
    arrivals := s.arrivals.filter fun a => !onTower r a.core
    bedMoves := s.bedMoves.filter fun m => decide (m.tower ≠ r)
    basins := s.basins.map fun p => (p.1, { p.2 with beds := p.2.beds.filter fun b => decide (b.1 ≠ r) }) }
  let s2 := overLines s1 (fun s l => coldLine s r l) (s1.lines.map Prod.fst)
  s2.bump.setGuard r { Guard.fresh with on := x.on, interval := x.interval, covered := s2.serial, count := x.count, retry := x.retry }

/-- Write listed cells over a memory. -/
def putCells (m : List Host.Cell) (l : List Host.Cell) : List Host.Cell := l.foldl (fun m c => writeByte m c.1 c.2) m

/-- Ranges of lines without the n lines from lo on. -/
def rangesWithout (l : List (Nat × Nat)) (lo n : Nat) : List (Nat × Nat) :=
  (l.flatMap fun p =>
    [(p.1, min p.2 (lo - p.1)), (max p.1 (lo + n), p.1 + p.2 - max p.1 (lo + n))]).filter fun p => decide (0 < p.2)

/-- Restore a page to its before-image (R366 step 3): a line that another tower's slice owns keeps its newer data. -/
def restorePage (s : State) (r : Nat) (p : Nat × PageImage) : State :=
  let ls := ((s.lines.filter fun q => decide (q.1 / 512 = p.1)).map Prod.fst)
  let kept := ls.filter fun l => decide ((s.line l).ownerSlice.isSome) && decide ((s.line l).ownerSlice ≠ some r)
  let data := kept.map fun l => (l, lineBytes s l)
  let m1 := putCells (clearRange s.mem (p.1 * 65536) 65536) p.2.cells
  let stale1 := kept.foldl (fun f l => fset f l (readBytes m1 (128 * l) 128)) (s.stale.filter fun q => decide (q.1 / 512 ≠ p.1))
  let s1 := { s with
    mem := data.foldl (fun m d => writeBytes m (128 * d.1) d.2) m1, stale := stale1
    zeroed := rangesWithout s.zeroed (p.1 * 512) 512 ++ if p.2.zero then [(p.1 * 512, 512)] else [] }
  let plain := if p.2.zero then LineTok.marked.ctl else LineTok.fresh.ctl
  let s2 := overLines s1 (fun s l => s.setLine l { s.line l with ctl := fget plain p.2.ctl l }) ls
  p.2.ctl.foldl (fun s q => s.setLine q.1 { s.line q.1 with ctl := q.2 }) s2

/-- A line's token state on tower r as the checkpoint captured it (R360, R366): the home slice's tag, r's requests, and the
weir when it is on r. -/
def warmLine (s0 : State) (c : Ckpt) (r l : Nat) : State :=
  let s := dropRequester s0 r l
  let x := s.line l
  let x0 := fget LineTok.fresh c.lines l
  let mine (w : List WeirEntry) : Bool := w.any fun e => decide (e.home / 256 = r)
  s.setLine l { x with
    slices := (match flook x0.slices r with
      | some g => if g.owner then fset x.slices r g else fdel x.slices r
      | none => fdel x.slices r)
    reqs := (match flook x0.reqs r with
      | some q => fset x.reqs r q
      | none => fdel x.reqs r)
    active := (x.active.filter fun p => decide (p.1 ≠ r)) ++ x0.active.filter fun p => decide (p.1 = r)
    weir := if mine x0.weir then x0.weir else if mine x.weir then [] else x.weir
    fifo := (x0.fifo.filter fun f => decide (f.home / 256 = r)) ++ x.fifo.filter fun f => decide (f.home / 256 ≠ r) }

/-- A channel's state on tower r as captured, and the rest as it is (R366 step 3): words that r issued after the cut were
never released. -/
def chanBack (r covered : Nat) (old cur : Chan) : Chan :=
  let sndOn := onTower r old.snd.core
  let rcvOn := onTower r old.rcv.core
  let anc := decide (old.tower = r)
  { cur with
    snd := { (if sndOn then old.snd else cur.snd) with closed := if anc then old.snd.closed else cur.snd.closed }
    sendCtr := if sndOn then old.sendCtr else cur.sendCtr
    credits := if sndOn then old.credits else cur.credits
    openPkt := if sndOn then old.openPkt else cur.openPkt
    sendState := if sndOn then old.sendState else cur.sendState
    sndMoving := if sndOn then old.sndMoving else cur.sndMoving
    dest := if sndOn then old.dest else cur.dest
    rcv := { (if rcvOn then old.rcv else cur.rcv) with closed := if anc then old.rcv.closed else cur.rcv.closed }
    recvCtr := if rcvOn then old.recvCtr else cur.recvCtr
    bufs := if rcvOn then old.bufs else cur.bufs
    batch := if rcvOn then old.batch else cur.batch
    recvs := if rcvOn then old.recvs else cur.recvs
    evDone := if rcvOn then old.evDone else cur.evDone
    intDone := if rcvOn then old.intDone else cur.intDone
    moves := if anc then old.moves else cur.moves
    closeSeq := if anc then old.closeSeq else cur.closeSeq
    closeCred := if anc then old.closeCred else cur.closeCred
    closeAcq := if anc then old.closeAcq else cur.closeAcq
    disc := if anc then old.disc else cur.disc
    flight := cur.flight.filter fun w => !(onTower r w.acq.core && decide (covered < w.acq.mark))
    creditFlight := if rcvOn then cur.creditFlight.filter fun q => decide (q.2 ≤ covered) else cur.creditFlight }

/-- The channel touches tower r. -/
def Chan.touches (c : Chan) (r : Nat) : Bool := onTower r c.snd.core || onTower r c.rcv.core || decide (c.tower = r)

/-- The channels after a recovery of r: those that r created after the cut are gone, and those freed since are back. -/
def chansBack (s : State) (c : Ckpt) (r covered : Nat) : FMap Chan :=
  let kept := s.chans.filter fun p => !(decide (p.2.tower = r) && decide (covered < p.1))
  c.chans.foldl (fun f p =>
    if p.2.touches r then
      match flook f p.1 with
      | some cur => fset f p.1 (chanBack r covered p.2 cur)
      | none => fset f p.1 p.2
    else f) kept

/-- A message of a replay log is sent again (R366 step 4). Tokens for r's replica slices are discarded: the census has
counted them. -/
def resend (s : State) (r : Nat) (x : Replay) : State :=
  match x with
  | .tok m =>
    let replica := !m.toCtl && decide (m.body.cls = 1) && decide (m.home / 256 ≠ r)
    if replica then s else { s with msgs := s.msgs ++ [m] }
  | .store _ _ => s
  | .word id w =>
    match flook s.chans id with
    | some c => s.setChan id { c with flight := c.flight ++ [w] }
    | none => s
  | .credit id n stamp =>
    match flook s.chans id with
    | some c => s.setChan id { c with creditFlight := c.creditFlight ++ [(n, stamp)] }
    | none => s
  | .closure m => { s with closures := s.closures ++ [m] }
  | .reply a => { s with atoms := s.atoms ++ [a] }
  | .result o => { s with feOps := s.feOps ++ [o] }
  | .remote q => { s with remotes := s.remotes ++ [q] }
  | .arrival a => { s with arrivals := s.arrivals ++ [a] }

/-- The stores of a replay log go back to the front of their outbound queues, in order. -/
def resendStores (s : State) : List Replay → State
  | [] => s
  | .store src e :: l =>
    let s1 := resendStores s l
    s1.setTower src { s1.tower src with outbound := e :: (s1.tower src).outbound }
  | _ :: l => resendStores s l

/-- An operation of another tower that r performed after the cut is to be performed again. -/
def undoFe (r covered : Nat) (o : FeOp) : FeOp :=
  if onTower r o.owner && o.res.isSome && decide (covered < o.doneAt) then { o with res := none } else o

/-- The operations of r's threads after a recovery: those within r as captured, the others as they stand. -/
def opsBack {α : Type} (old cur : List α) (id : α → Nat) (within : α → Bool) : List α :=
  old.filterMap fun a => if within a then some a else cur.find? fun b => decide (id b = id a)

/-- Warm recovery of tower r from its stored checkpoint (R366): every page with a before-image and the captured state are
restored, the messages that the cut covers are released again, and the other towers send their replay logs. -/
def warmReset (s : State) (r : Nat) (c : Ckpt) : State :=
  let x := s.guard r
  let cov := x.covered
  let s0 := { s with
    msgs := s.msgs.filter fun m => (decide (m.src ≠ r) || decide (m.stamp ≤ cov)) &&
      !(decide (m.dst = r) && !m.toCtl && decide (m.body.cls = 1) && decide (m.home / 256 ≠ r)) }
  let out := (s.tower r).outbound.filter fun e => decide (e.sent ≤ cov)
  let s1 := overLines s0 revertLine ((s.lines.filter fun p => decide (p.2.ownerSlice = some r)).map Prod.fst)
  let s2 := x.undo.foldl (fun s p => restorePage s r p) s1
  let s3 := overLines s2 (fun s l => warmLine s c r l) ((s2.lines.map Prod.fst) ++
    ((c.lines.map Prod.fst).filter fun l => !(s2.lines.map Prod.fst).contains l))
  let s4 := c.owned.foldl (fun (q : State) p => { q with
    mem := writeBytes q.mem (128 * p.1) p.2.1
    stale := match p.2.2 with
      | some i => fset q.stale p.1 i
      | none => fdel q.stale p.1 }) s3
  let s5 : State := { s4 with
    mem := putCells (s4.mem.filter fun d => !inSpads r d.1) c.spads
    cores := c.cores.foldl (fun f p => fset f p.1 p.2) (s4.cores.filter fun p => !onTower r p.1)
    chans := chansBack s4 c r cov
    atoms := ((s4.atoms.filter fun a => !onTower r a.core).map fun a =>
        if decide (atomTower s a = r) && a.reply.isSome && decide (cov < a.stamp) then { a with reply := none } else a) ++
      opsBack c.atoms s4.atoms AtomOp.id (fun a => decide (atomTower s a = r))
    feOps := ((s4.feOps.filter fun a => !onTower r a.core).map (undoFe r cov)) ++
      opsBack c.feOps s4.feOps FeOp.id (fun a => onTower r a.owner)
    remotes := ((s4.remotes.filter fun a => !onTower r a.core).map fun a =>
        if inSpads r a.addr && a.data.isSome && decide (cov < a.stamp) then { a with data := none } else a) ++
      opsBack c.remotes s4.remotes RemoteOp.id (fun a => inSpads r a.addr || a.load.isSome)
    escs := (s4.escs.filter fun a => !onTower r a.core) ++ c.escs
    saves := (s4.saves.filter fun a => !onTower r a.core) ++ c.saves
    closures := (s4.closures.filter fun a => match a.acq with
      | some q => !(onTower r q.core && decide (cov < q.mark))
      | none => true) ++ c.closures.filter fun a => !s4.closures.contains a
    chReplies := (s4.chReplies.filter fun a => !onTower r a.core) ++ c.replies
    arrivals := s4.arrivals.filter fun a => !(onTower r a.core && decide (cov < a.acq.mark)) }
  let s6 := s5.setTower r { c.base with outbound := out }
  let l := x.log ++ x.logNew
  let s7 := resendStores (l.foldl (fun s q => resend s r q) s6) l
  s7.setGuard r { x with
    stopping := false, pending := none, undo := [], undoNew := [], log := [], logNew := [], resetDue := false, bad := [], down := [] }

/-- The links of tower r are trained again after its reset, at both ends (log entry 21). -/
def retrain (s : State) (r : Nat) : State :=
  [0, 1, 2, 3].foldl (fun s i =>
    let t := linkPeer r i
    s.setGuard t { s.guard t with down := (s.guard t).down.filter fun j => decide (j ≠ i), bad := fdel (s.guard t).bad i }) s

/-- The owner holder of a line is on tower r: its home slice, or, where no slice has the owner token, its controller. -/
def LineTok.heldBy (x : LineTok) (l r : Nat) : Bool := decide (x.ownerSlice.getD (ctlTower l) = r)

/-- The reset of a tower (R365 to R370), whole in one step (log entry 21): recovery of a guarded tower with a stored checkpoint,
and a cold reset of any other. The lines whose owner holders are on other towers are censused before the restore (R366 step 2),
those of r's own holders after it. A checkpoint still being stored is abandoned, and a client's message of which units are lost
is not acknowledged (R372). -/
def towerReset (s : State) (r trigger : Nat) : State :=
  let x := s.guard r
  let s0 : State := match x.pending with
    | some c => postCkpt s r c.no 3
    | none => s
  let warm := if s.caps.getLsbD 10 && x.on && buddyStands s r then x.stored else none
  let s1 : State := match warm with
    | some c =>
      let away := ((s0.lines.filter fun p => !p.2.heldBy p.1 r).map Prod.fst)
      let s1 := warmReset (overLines s0 (fun s l => censusLine s r l) away) r c
      overLines s1 (fun s l => censusLine s r l) ((s1.lines.map Prod.fst).filter fun l => !away.contains l)
    | none => coldReset s0 r
  let epc := match warm with
    | some c => BitVec.ofNat 64 c.no
    | none => BitVec.allOnes 64
  let n := (s1.lines.filter fun p => p.2.due.contains r).length
  let queued (s : State) (a : RmaAck) : Nat :=
    ((s.tower r).outbound.filter fun e => e.bytes.any fun b => decide (b.gctx = portCtx a.msg)).length
  let s2 : State := { s1 with acks := s1.acks.filter fun a => decide (queued s a ≤ queued s1 a) }
  post (retrain s2 r) ⟨64, 7, causeRESET, 0, towerSource r, epc, BitVec.ofNat 64 n, BitVec.ofNat 64 trigger, [], none⟩

/-- TOWER_RESET_TRIGGER (R365): isolation (0), an uncorrectable internal error of the base die (1), or a request of the
atelier (2) resets a tower. -/
def execTowerResetTrigger (tower trigger : Nat) (s : State) : Host.Outcome State Fault Refusal :=
  let due := match trigger with
    | 0 => isolated s tower
    | 1 => towerPresent s tower
    | 2 => towerPresent s tower && (s.guard tower).resetDue
    | _ => false
  if due then event (towerReset s tower trigger) else event s

end Sys2Proof.Machine
end

