-- ==== Sys2Proof/Machine/Beds.lean ====
section
/-! DEFINITION. Beds: their cleaning and moves (R388), the partition controller (R387), the function-level reset (R389),
and the DRAM that the atelier gives out (R374, R384 of spec/29_host_and_tenancy.md). -/

namespace Sys2Proof.Machine

/-! ### DRAM given out by the atelier -/

/-- Two ranges overlap. -/
def meets (a n b m : Nat) : Bool := decide (a < b + m) && decide (b < a + n)

/-- The DRAM that the atelier reserves for a tower's anchor table of 2^20 records of 64 bytes (R184). -/
def anchorTable (t : Nat) : Nat := t * 2 ^ 35 + Config.anchorPlace t % 512 * 2 ^ 26

/-- A range of DRAM that nothing has been given, and that is not reserved. -/
def freeRange (s : State) (base n : Nat) : Bool :=
  decide (placeOf s base = .dram) && !(s.allocs.any fun a => meets base n a.base (2 ^ a.bits)) &&
  !meets base n (anchorTable (base / 2 ^ 35)) (2 ^ 26)

/-- A free aligned range of 2^bits bytes in [lo, lo + len); which one is the atelier's choice (log entry 6). -/
@[irreducible] def pickRange (s : State) (lo len bits : Nat) : Option Nat × State :=
  let n := 2 ^ bits
  let (i, s1) := freeBelow s (len / n)
  let l := (lo + i * n) :: lo :: ((s.allocs.map fun (a : Alloc) => a.base + 2 ^ a.bits) ++ (List.range 8).map fun t => anchorTable t + 2 ^ 26).map
    fun e => (e + n - 1) / n * n
  (l.find? fun b => decide (lo ≤ b) && decide (b + n ≤ lo + len) && freeRange s b n, s1)

/-- Give a basin a range: in a vault when one is named, else in any present tower. -/
def giveRange (s : State) (basin bits : Nat) (va vault : Option Nat) : Option Nat × State :=
  match vault with
  | some v =>
    match pickRange s (v / 64 * 2 ^ 35 + v % 64 * 2 ^ 29) (2 ^ 29) bits with
    | (some b, s1) => (some b, { s1 with allocs := s1.allocs ++ [⟨b, bits, basin, va⟩] })
    | (none, s1) => (none, s1)
  | none =>
    match pickRange s 0 (2 ^ 38) bits with
    | (some b, s1) => (some b, { s1 with allocs := s1.allocs ++ [⟨b, bits, basin, va⟩] })
    | (none, s1) => (none, s1)

/-! ### Cleaning and starting a bed (R388 steps 8 and 9) -/

/-- The cores of a bed (R6). -/
def bedCores (t bed : Nat) : List Nat := (List.range 16).map fun i => t * 256 + bed * 16 + i

/-- Every present tower's bed exists. -/
def bedExists (s : State) (t bed : Nat) : Bool := towerPresent s t && decide (bed < 16)

/-- A core cleaned for a recipient (R388 step 8): everything is as after reset but TENANT and PTBASE; the stores that its
write buffer holds still drain, and frames that have been spilled stay named by it. -/
def cleanCore (s : State) (g : Nat) (owner : Word) : State :=
  let c := s.core g
  let pt := if owner.getLsbD 6 then 0 else (s.basin (owner.toNat % 64)).ptroot
  let s1 := { s with mem := clearRange s.mem (windowOf g) 0x400000 }
  s1.setCore g { Core.fresh with
    tenant := owner &&& 0x7F, ptbase := pt, wbuf := c.wbuf, frames := c.frames.filter fun f => f.spilled }

/-- What a thread of context 0 has under way is dropped with its state (R388 step 7): it leaves a wait, its ends are closed, and no
result reaches the next thread of the context (log entry 68). -/
def dropZero (s0 : State) (g : Nat) : State :=
  let s := leavePark s0 g 0
  let mine (h k : Nat) : Bool := decide (h = g) && decide (k = 0)
  let s1 := closeEnds s none (heldEnds s g 0)
  { s1 with
    atoms := s1.atoms.map fun a => if mine a.core a.ctx then { a with rd := 0 } else a
    feOps := s1.feOps.filter fun a => !mine a.core a.ctx
    escs := s1.escs.filter fun a => !mine a.core a.ctx
    probes := s1.probes.filter fun p => !mine p.core p.ctx
    chReplies := s1.chReplies.filter fun a => !mine a.core a.ctx
    closures := s1.closures.map fun a => if mine a.core a.ctx then { a with rd := 0 } else a
    chans := s1.chans.map fun p => (p.1, { p.2 with recvs := p.2.recvs.filter fun r => !mine r.core r.ctx }) }

/-- A scratch image of n bytes at an offset lies below S × 64 KiB and outside the context save area (R54), be that empty (R127). -/
def scratchFits (c : Core) (o n : Nat) : Bool :=
  decide (o + n ≤ c.units * 65536) && (decide (c.savesize = 0) || !meets o n c.savebase.toNat c.savesize.toNat)

/-- The `.scratch` images of a basin's programs are copied into a core's scratchpad before its first thread there starts, where they
lie in it and outside its save area (R54, log entry 69). -/
def putScratch (s : State) (b g : Nat) : State :=
  (s.basin b).scratch.foldl (fun s p => if scratchFits (s.core g) p.1 p.2.length then writeSpad s g p.1 p.2 else s) s

/-- Context 0 of a core starts the recipient's runtime entry in S mode with its virtual core number in g4, or atelier code in
M mode (R388 step 9). -/
def startRuntime (s : State) (g : Nat) (owner : Word) : State :=
  if owner.getLsbD 6 then
    let img := if s.running = some 1 then s.flash.image1 else s.flash.image0
    s.setCtx g 0 { Ctx.zero with stop := none, pc := Config.imageBedEntry img }
  else
    let b := owner.toNat % 64
    let c := { Ctx.zero with stop := none, mode := .s, pc := (s.basin b).entry }
    (putScratch s b g).setCtx g 0 (c.setRegIn false 4 (GReg.of (BitVec.ofNat 64 ((virtCore s b g).getD 0)) false))

/-- Do f for every listed core. -/
def overCores (s : State) (f : State → Nat → State) (l : List Nat) : State := l.foldl f s

/-- The basin of a bed's owner. -/
def ownerBasin (o : Word) : Option Nat := if o.getLsbD 6 then none else some (o.toNat % 64)

/-- A bed leaves a basin's list. -/
def loseBed (s : State) (o : Word) (t bed : Nat) : State :=
  match ownerBasin o with
  | some b => s.setBasin b { s.basin b with beds := (s.basin b).beds.filter fun p => decide (p ≠ (t, bed)) }
  | none => s

/-- A bed joins a basin's list, as its last on the tower (R385). -/
def gainBed (s : State) (o : Word) (t bed : Nat) : State :=
  match ownerBasin o with
  | some b => s.setBasin b { s.basin b with beds := (s.basin b).beds ++ [(t, bed)] }
  | none => s

/-- A basin's spill regions (R384): its 8 MiB ranges but for its fault queue. -/
def spillRegions (s : State) (b : Nat) : List Alloc :=
  s.allocs.filter fun a => decide (a.basin = b) && decide (a.bits = 23) && decide (a.va = none) && decide (a.base ≠ (s.basin b).fqhdr.toNat)

/-- A basin has a spill region of 8 MiB for each of its beds (R384), as far as DRAM is free. -/
def spillFor (s : State) (o : Word) : State :=
  match ownerBasin o with
  | none => s
  | some b => if (spillRegions s b).length < (s.basin b).beds.length then (giveRange s b 23 none none).2 else s

/-- A bed's OWNER (R392). -/
def setOwner (s : State) (t bed : Nat) (o : Word) : State :=
  s.setTower t { s.tower t with owners := fset (s.tower t).owners bed (o &&& 0x7F) }

/-- Steps 7 to 9 of R388: context 0 stops, the bed is cleaned, is the recipient's, and starts. -/
def grantBed (s : State) (t bed : Nat) (owner : Word) : State :=
  let old := bedOwner s t bed
  let s1 := overCores s (fun s g => cleanCore (dropZero s g) g owner) (bedCores t bed)
  let s2 := spillFor (gainBed (loseBed (setOwner s1 t bed owner) old t bed) owner t bed) owner
  overCores s2 (fun s g => startRuntime s g owner) (bedCores t bed)

/-! ### Bed moves (R388) -/

/-- A move begins (step 1): the bed's dispatchers stop filling contexts. -/
def startMove (s : State) (t bed : Nat) (owner : Word) : State :=
  { s with bedMoves := s.bedMoves ++ [⟨t, bed, owner &&& 0x7F, false, false, false⟩] }

/-- Ask for the save of every running context of a core, and discard held and done images (step 2). -/
def emptyCore (s : State) (g : Nat) : State :=
  ((List.range (s.core g).count).drop 1).foldl (fun s k =>
    match (s.ctx g k).phase with
    | .run => { s.bump with saves := s.saves ++ [⟨s.serial, g, k, 3, none, false, false, false, none, false⟩] }
    | .free => s
    | _ => s.setCtx g k Ctx.fresh) s

/-- Abort the paused copies of a core (step 6); COPY_COMPLETION ends them. -/
def abortPaused (s : State) (g : Nat) : State :=
  s.setCore g { s.core g with copies := (s.core g).copies.map fun c => if c.paused.isSome then { c with finished := true, paused := none } else c }

/-- BED_MOVE_GRACE_EXPIRY (R388 step 2): 1 ms after its start a move has the bed's remaining threads saved. -/
def execBedMoveGraceExpiry (tower bed : Nat) (s : State) : Host.Outcome State Fault Refusal :=
  match s.bedMoves.find? fun m => decide (m.tower = tower) && decide (m.bed = bed) with
  | none => event s
  | some m =>
    if m.graced then event s
    else
      let s1 := { s with bedMoves := s.bedMoves.map fun x => if x = m then { x with graced := true } else x }
      event (overCores s1 (fun s g => abortPaused (emptyCore s g) g) (bedCores tower bed))

/-- Every context 1–15 of a core is FREE. -/
def emptied (s : State) (g : Nat) : Bool := (s.core g).ctxs.all fun p => decide (p.1 = 0) || decide (p.2.phase = .free)

/-- A place for a frame in its basin's spill region (R384). -/
def spillPlace (s : State) (b size : Nat) : Option Nat :=
  let regions := spillRegions s b
  let taken := s.cores.flatMap fun p => (p.2.frames.filter fun f => f.spilled).map fun f => (f.base, f.size)
  let fits (o : Nat) : Bool :=
    (regions.any fun a => decide (a.base ≤ o) && decide (o + size ≤ a.base + 2 ^ 23)) && !(taken.any fun q => meets o size q.1 q.2)
  ((regions.map fun a => a.base) ++ taken.map fun q => q.1 + q.2).find? fits

/-- The replies of the TMMAs that a frame holds fill with the K-steps made (R388 step 3). -/
def retireFrame (s : State) (f : Frame) : State :=
  match f.tile with
  | none => s
  | some t => t.queue.foldl (fun s q =>
      deliver s (frameKey + f.id) 0 q.shadow q.rd (GReg.of (BitVec.ofNat 64 ((if t.ov.getLsbD q.acc then 2 ^ 16 else 0) + q.done)) false)) s

/-- Copy a frame of a core to its basin's spill region (step 3): it loses the mark to restore on its own core, in its header too
(R408), its queued TMMAs retire, and a group of which no member is live is SUSPENDED. A frame with nowhere to go stays, and the
move waits. -/
def spillFrame (s0 : State) (g : Nat) (f0 : Frame) : State :=
  let s := retireFrame s0 f0
  let f := ((s.core g).frames.find? fun x => decide (x.id = f0.id)).getD f0
  match spillPlace s f.basin f.size with
  | none => s
  | some pa =>
    let words := ((List.range (f.size / 8)).map fun i => 8 * i).filter fun o => tagAt s g (f.off + o)
    let s1 := performVia s ⟨f.basin, none⟩ pa (readBytes s.mem f.base f.size)
    let s2 := perform64Via s1 ⟨f.basin, none⟩ (pa + 16) (read64 s1.mem (pa + 16) &&& ~~~(0x80#64))
    noteFreed (suspendGroup (setFrame s2 g { f with
      base := pa, spilled := true, tags := words, ownCore := false
      tile := f.tile.map fun t => { t with queue := [] } }) f.grid []) g

/-- Copy every frame of a core. -/
def spillAll (s : State) (g : Nat) : State := ((s.core g).frames.filter fun f => !f.spilled).foldl (fun s f => spillFrame s g f) s

/-- Place the stealable records of a core, of those the first n, and the stolen ones that wait there (step 4). -/
def shedBed (s : State) (g : Nat) : Nat → State
  | 0 => s
  | n + 1 =>
    match (s.core g).deque.find? fun r => !r.pinned with
    | some r =>
      match placeCont s (towerOf g) (contRecord r) with
      | none => s
      | some _ =>
        match takeRec s g r with
        | .took r s1 =>
          match placeCont s1 (towerOf g) (contRecord r) with
          | some s2 => shedBed s2 g n
          | none => s
        | .waits s1 => s1
        | .none s1 => shedBed s1 g n
    | none =>
      match (s.core g).stolen with
      | [] => s
      | r :: l =>
        match placeOn s (towerOf g) r with
        | some s1 => shedBed (s1.setCore g { s1.core g with stolen := l }) g n
        | none => s

/-- Records in any die ready queue that hint at a bed's cores lose EXACT and HINTV (step 4). -/
def unhint (s : State) (t bed : Nat) : State :=
  let mine (g : Nat) : Bool := (bedCores t bed).contains g
  { s with towers := s.towers.map fun p => (p.1, { p.2 with
      banks := p.2.banks.map fun q => (q.1, q.2.map fun r => { r with
        hints := r.hints.filter fun g => !mine g
        exact := match r.exact with
          | some g => if mine g then none else some g
          | none => none }) }) }

/-- The core to which a receive buffer of a bed moves (step 5): one of another of the basin's beds, on the same tower when
possible. -/
def otherCore (s : State) (t bed : Nat) : Option Nat :=
  match ownerBasin (bedOwner s t bed) with
  | none => none
  | some b =>
    let l := (s.basin b).beds.filter fun p => decide (p ≠ (t, bed))
    match (l.find? fun p => decide (p.1 = t)).orElse fun _ => l.head? with
    | some p => some (p.1 * 256 + p.2 * 16)
    | none => none

/-- Receive buffers in the bed's pools move to a core (step 5), and the state of send ends there goes to its anchor. -/
def moveBuffers (s : State) (t bed : Nat) : State :=
  match otherCore s t bed with
  | none => s
  | some g => s.chans.foldl (fun s p =>
      let c := p.2
      let s1 := if (bedCores t bed).contains c.rcv.core then relocateEnd s p.1 true g else s
      if (bedCores t bed).contains c.snd.core then
        (match flook s1.chans p.1 with
         | some c1 => s1.setChan p.1 { c1 with snd := { c1.snd with core := g }, sendState := max 1 c1.sendState, sndMoving := true }
         | none => s1)
      else s1) s

/-- No channel has a buffer on a bed any more. -/
def noBuffers (s : State) (t bed : Nat) : Bool :=
  (otherCore s t bed).isNone || s.chans.all fun p => p.2.bufs.all fun b => !(bedCores t bed).contains b.core

/-- A core has no stealable record left to place. -/
def shedDone (s : State) (g : Nat) : Bool :=
  ((s.core g).deque.all fun r => r.pinned) && decide ((s.core g).stolen = []) && decide ((s.core g).steal = none)

/-- Every frame of a core has been spilled. -/
def spillDone (s : State) (g : Nat) : Bool := (s.core g).frames.all fun f => f.spilled

/-- Change a bed move. -/
def setMove (s : State) (m x : BedMove) : State := { s with bedMoves := s.bedMoves.map fun y => if y = m then x else y }

/-- Context 0 of a core stops and its state is discarded (R388 step 7). -/
def stopZero (s : State) (g : Nat) : State := (dropZero s g).setCtx g 0 Ctx.zero

/-- A closure is on its way to a channel with a receive buffer on one of some cores: the words there, and the ends that they carry,
are its to discard (R194, R196). -/
def closingAt (s : State) (l : List Nat) : Bool :=
  s.closures.any fun m => (flook s.chans m.chan).any fun c => c.bufs.any fun b => l.contains b.core

/-- BED_MOVE_FINISH (R388 steps 2 to 9): a move goes on once every context 1–15 of the bed is FREE: frames are spilled, then
records are placed, then receive buffers move; and once nothing of that is left and no copy lives, context 0 stops at a boundary,
and when the closures of its ends have been made where the bed keeps words, the bed is cleaned and starts for its recipient. -/
def execBedMoveFinish (tower bed : Nat) (s : State) : Host.Outcome State Fault Refusal :=
  match s.bedMoves.find? fun m => decide (m.tower = tower) && decide (m.bed = bed) with
  | none => event s
  | some m =>
    let l := bedCores tower bed
    if !(l.all fun g => emptied s g) then event s
    else if !m.shed then
      let s1 := overCores s spillAll l
      event (if l.all (spillDone s1) then setMove s1 m { m with shed := true } else s1)
    else if !(l.all fun g => shedDone s g) then event (overCores (unhint s tower bed) (fun s g => shedBed s g 65) l)
    else if !m.moved then event (setMove (moveBuffers (unhint s tower bed) tower bed) m { m with moved := true })
    else if (l.any fun g => decide ((s.core g).copies ≠ []) || !atBoundary (s.ctx g 0)) || !noBuffers s tower bed then event s
    else if l.any fun g => decide (heldEnds s g 0 ≠ []) then event (overCores s stopZero l)
    else if closingAt s l then event s
    else
      let s1 := { s with bedMoves := s.bedMoves.filter fun x => decide (x ≠ m) }
      let s2 := match ownerBasin (bedOwner s tower bed) with
        | some b => { s1 with outbox := s1.outbox ++ [.notice b tower bed] }
        | none => s1
      event (grantBed (unhint s2 tower bed) tower bed m.owner)

/-! ### The partition controller (R387) -/

/-- The completions of a basin in the last 1 ms. -/
def Basin.recent (x : Basin) : Nat := (x.ended.take 10).sum

/-- A basin's beds on a tower, counted. -/
def bedCount (s : State) (b t : Nat) : Nat := ((s.basin b).bedsOn t).length

/-- The recipient on a tower: the basin furthest below its target, in ratio. -/
def needy (s : State) (t : Nat) : Option Nat :=
  let l := s.basins.filter fun p => p.2.isOpen && !p.2.resetting && decide (10 * p.2.recent < 9 * p.2.target) &&
    decide (bedCount s p.1 t < p.2.maxBeds)
  (l.foldl (fun (a : Option (Nat × Basin)) p => match a with
    | none => some p
    | some q => if p.2.recent * q.2.target < q.2.recent * p.2.target then some p else some q) none).map Prod.fst

/-- The basin that gives a bed on a tower: the highest ratio above 110 % of its target that stays at its minimum there and
keeps a bed on the device that is not being moved away. -/
def giver (s : State) (t : Nat) : Option Nat :=
  let l := s.basins.filter fun p => p.2.isOpen && !p.2.resetting && decide (11 * p.2.target < 10 * p.2.recent) &&
    decide (p.2.minBeds + 1 ≤ bedCount s p.1 t) && decide (2 ≤ (p.2.beds.filter fun q => !moving s q.1 q.2).length)
  (l.foldl (fun (a : Option (Nat × Basin)) p => match a with
    | none => some p
    | some q => if q.2.recent * p.2.target < p.2.recent * q.2.target then some p else some q) none).map Prod.fst

/-- The lowest-numbered unassigned bed of a tower that is not moving. -/
def spareBed (s : State) (t : Nat) : Option Nat :=
  (List.range 16).find? fun b => (bedOwner s t b).getLsbD 6 && !moving s t b

/-- At most one move on a tower (R387). -/
def partitionTower (s : State) (t : Nat) : State :=
  if s.bedMoves.any fun m => decide (m.tower = t) then s
  else
    match needy s t with
    | none => s
    | some b =>
      match spareBed s t with
      | some bed => startMove s t bed (BitVec.ofNat 64 b)
      | none =>
        match giver s t with
        | none => s
        | some a =>
          match ((s.basin a).bedsOn t).getLast? with
          | some bed => startMove s t bed (BitVec.ofNat 64 b)
          | none => s

/-- PARTITION_EVALUATION (R387): every 100 µs the partition controller counts completions and starts at most one bed move on
each tower. -/
def execPartitionEvaluation (s : State) : Host.Outcome State Fault Refusal :=
  let s1 := (presentTowers s).foldl partitionTower s
  event { s1 with basins := s1.basins.map fun p => (p.1, { p.2 with ended := 0 :: p.2.ended.take 10 }) }

/-! ### Function-level reset (R389) -/

/-- The addresses of a table's entries (R141). -/
@[irreducible] def tableSlots (table : Nat) : List Nat := (List.range 1024).map fun i => table + 8 * i

/-- The leaves of a basin's page table below a table (R141), with the addresses of their entries. -/
def leavesBelow (s : State) (b : Nat) : Nat → Nat → List (Nat × Nat × Nat)
  | level, table =>
    (tableSlots table).flatMap fun ea =>
      let e := (read64 s.mem ea).toNat
      if pteBit e 0 = false ∨ pteBasin e ≠ b then []
      else if pteBit e 1 then [(ea, pteAddr e, levelBits level)]
      else
        match level with
        | 0 => []
        | l + 1 => leavesBelow s b l (pteAddr e)

/-- A page reads as zero from now on (R389 step 4): its entry is zero-on-touch (R143), and each of its lines that a slice holds
becomes a zero line whose eight tokens its home holds; a page on a guarded tower has its before-image (R361). -/
def zeroPage (s : State) (p : Nat × Nat × Nat) : State :=
  let inPage (l : Nat) : Bool := decide (p.2.1 / 128 ≤ l) && decide (l < (p.2.1 + 2 ^ p.2.2) / 128)
  let held := ((perform64 s p.1 (read64 s.mem p.1 ||| 0x80)).lines.filter fun q => inPage q.1 && decide (q.2.slices ≠ [])).map Prod.fst
  held.foldl (fun s l => lineOp (gatherHome s l (homeOf s l) 0xFFFF true) .zero l (homeOf s l)) (perform64 s p.1 (read64 s.mem p.1 ||| 0x80))

/-- A core's messages and stores belong to basin b. -/
def coreIn (s : State) (b g : Nat) : Bool := decide (g < 4096) && decide (coreBasin s g = some b)

/-- The entries of a store buffer without the bytes of a basin (R389 step 3). -/
def othersBytes (b : Nat) (l : List WEntry) : List WEntry :=
  (l.map fun e => { e with bytes := e.bytes.filter fun w => decide (w.basin ≠ b) }).filter fun e => decide (e.bytes ≠ [])

/-- A line's transient requests by a basin are discarded; a persistent one is served (R389 step 3). -/
def LineTok.dropReqs (b : Nat) (x : LineTok) : LineTok :=
  { x with reqs := x.reqs.filter fun q => !(decide (q.2.basin = b) && decide (q.2.stage < 3)) }

/-- A message is a transient request of a basin. -/
def TokMsg.asksFor (s : State) (b : Nat) (m : TokMsg) : Bool :=
  match m.body with
  | .treq _ q => (flook (s.line m.line).reqs q).any fun r => decide (r.basin = b) && decide (r.stage < 3)
  | _ => false

/-- Steps 1 to 3 of a function-level reset: launches stop, threads stop, and the basin's traffic is discarded. -/
def stopBasin (s : State) (b : Nat) : State :=
  let x := s.basin b
  let mine (r : ReadyRec) : Bool := decide (r.basin = b)
  let s1 : State := { s with
    queues := s.queues.map fun p => if p.2.basin = b then (p.1, { p.2 with easel := none, st := 0 }) else p
    easels := s.easels.map fun p => match p.2.que with
      | some q => if (flook s.queues q).any fun u => decide (u.basin = b) then (p.1, { p.2 with que := none }) else p
      | none => p
    towers := s.towers.map fun p => (p.1, { p.2 with
      banks := p.2.banks.map fun q => (q.1, q.2.filter fun r => !mine r)
      grids := p.2.grids.filter fun q => decide (q.2.basin ≠ b)
      gridReuse := (p.2.grids.filter fun q => decide (q.2.basin = b)).foldl (fun f q => fset f q.1 (nextReuse q.2.reuse)) p.2.gridReuse
      outbound := othersBytes b p.2.outbound })
    cores := s.cores.map fun p => (p.1, { p.2 with
      stolen := p.2.stolen.filter fun r => !mine r
      frames := p.2.frames.filter fun f => decide (f.basin ≠ b)
      takers := p.2.takers.filter fun t => !coreIn s b t.core
      wbuf := othersBytes b p.2.wbuf })
    lines := s.lines.map fun p => (p.1, p.2.dropReqs b)
    msgs := s.msgs.filter fun m => !m.asksFor s b
    atoms := s.atoms.filter fun a => decide (a.basin ≠ b)
    feOps := s.feOps.filter fun a => !coreIn s b a.core
    remotes := s.remotes.filter fun a => decide (a.basin ≠ b)
    escs := s.escs.filter fun a => !coreIn s b a.core
    saves := s.saves.filter fun a => !coreIn s b a.core
    arrivals := s.arrivals.filter fun a => decide (a.basin ≠ b)
    chReplies := s.chReplies.filter fun a => !coreIn s b a.core
    closures := s.closures.filter fun a => !((flook s.chans a.chan).any fun c => decide (c.tenant = b))
    probes := s.probes.filter fun a => !coreIn s b a.core
    faultWait := s.faultWait.filter fun r => !(match r.waitKey with
      | some k => coreIn s b (k / 16)
      | none => false) }
  let s2 := (s1.chans.filter fun p => decide (p.2.tenant = b)).foldl (fun s p => freeChan s p.1 p.2) s1
  dropXlats (s2.setBasin b { x with resetting := true }) 1 b 0

/-- A function-level reset of a basin (R389), whole in one step (log entry 23): its beds are cleaned and restarted, or after
CLOSE unassigned. -/
def resetBasin (s : State) (b : Nat) (close : Bool) : State :=
  let beds := (s.basin b).beds
  let s1 := stopBasin s b
  let s2 := if (s.basin b).ptroot = 0 then s1 else (leavesBelow s1 b 3 (s.basin b).ptroot.toNat).foldl zeroPage s1
  let owner : Word := if close then 0x40 else BitVec.ofNat 64 b
  let s3 := beds.foldl (fun s p =>
    let s' := overCores (setOwner s p.1 p.2 owner) (fun s g => cleanCore s g owner) (bedCores p.1 p.2)
    overCores s' (fun s g => startRuntime s g owner) (bedCores p.1 p.2)) s2
  let x := s3.basin b
  if close then
    let s4 := s3.setBasin b Basin.fresh
    { s4 with
      queues := s4.queues.filter fun p => decide (p.2.basin ≠ b), windows := s4.windows.filter fun w => decide (w.basin ≠ b)
      allocs := s4.allocs.filter fun a => decide (a.basin ≠ b), peers := s4.peers.filter fun p => decide (p.1 ≠ b) }
  else s3.setBasin b { x with resetting := false }

end Sys2Proof.Machine
end

