-- ==== Sys2Proof/Machine/Easels.lean ====
section
/-! DEFINITION. User queues and easels (R376 to R383 of spec/29_host_and_tenancy.md), and the pages that the atelier maps
(R141, R142, R374). -/

namespace Sys2Proof.Machine

/-! ### Pages of a basin -/

/-- A page-table entry of a basin (R142): V, the flags [8:2], a leaf or a table, and ADDR. -/
def pteOf (basin flags addr : Nat) (leaf : Bool) : Word :=
  BitVec.ofNat 64 (basin * 2 ^ 50 + addr / 2 ^ 13 * 2 ^ 13 + flags / 4 % 128 * 4 + (if leaf then 2 else 0) + 1)

/-- The atelier clears n bytes of DRAM from a line on: the pages' before-images are taken (R361), and a line with tokens in L2 is
written as by any store of the atelier. -/
def clearDram (s : State) (pa n : Nat) : State :=
  let held := (s.lines.map Prod.fst).filter fun l => decide (lineOf pa ≤ l) && decide (128 * l < pa + n)
  let s1 := held.foldl (fun s l => perform s (128 * l) (List.replicate 128 0)) (takeImages s (pa / 65536) ((n + 65535) / 65536))
  { s1 with mem := clearRange s1.mem pa n }

/-- Map one 64 KiB page below a table (R141), taking DRAM for the tables that are missing; none when there is none, or
when a larger page is in the way. -/
def mapBelow (s : State) (basin va : Nat) (e : Word) : Nat → Nat → Option State
  | 0, table => some (perform64 s (table + va / 2 ^ levelBits 0 % 1024 * 8) e)
  | l + 1, table =>
    let ea := table + va / 2 ^ levelBits (l + 1) % 1024 * 8
    let x := (read64 s.mem ea).toNat
    if pteBit x 0 then (if pteBit x 1 then none else mapBelow s basin va e l (pteAddr x))
    else
      match giveRange s basin 13 none none with
      | (none, _) => none
      | (some t, s1) =>
        mapBelow (perform64 (clearDram s1 t 8192) ea (pteOf basin 0 t false)) basin va e l t

/-- Map one page of a basin at a virtual address. -/
def mapPage (s : State) (basin va pa flags : Nat) : Option State :=
  mapBelow s basin va (pteOf basin flags pa true) 3 (s.basin basin).ptroot.toNat

/-- Map n pages of DRAM from a virtual address up, in a vault when one is named; they hold what that DRAM holds. -/
def mapFresh (s : State) (basin flags : Nat) (vault : Option Nat) : Nat → Nat → Option State
  | 0, _ => some s
  | n + 1, va =>
    match giveRange s basin 16 (some va) vault with
    | (none, _) => none
    | (some pa, s1) =>
      match mapPage s1 basin va pa flags with
      | none => none
      | some s2 => mapFresh s2 basin flags vault n (va + 65536)

/-- A range of n pages of a basin's virtual addresses that nothing of the atelier's uses; the atelier's choice (log
entry 6). -/
def pickVa (s : State) (basin n : Nat) : Nat × State :=
  let (i, s1) := freeBelow s 1024
  let mine := s.allocs.filterMap fun a => if a.basin = basin then a.va.map fun v => (v, 2 ^ a.bits) else none
  let l := (2 ^ 45 + i * 2 ^ 32) :: mine.map fun p => p.1 + p.2
  ((l.find? fun v => !(mine.any fun p => meets v (n * 65536) p.1 p.2)).getD (2 ^ 46), s1)

/-! ### Queues (R376, R377) -/

/-- Write an easel. -/
def State.setEasel (s : State) (e : Nat) (x : Easel) : State := { s with easels := fset s.easels e x }

/-- The tower an easel is attached to (R379). -/
def easelTower (s : State) (e : Nat) : Nat := e % max 1 (towersPresent s)

/-- The tower through whose slices the part reaches a queue: its easel's, or its own (R345, R379). -/
def UQueue.via (u : UQueue) (s : State) : Nat :=
  match u.easel with
  | some e => easelTower s e
  | none => u.tower

/-- n bytes at a place of a basin, as an agent of tower t reads them (R345), and the state after: the slice has the line's data. -/
def readAt (s : State) (t basin : Nat) (w : Where) (n : Nat) : List Byte × State :=
  (readBytes s.mem w.pa n,
    if placeOf s w.pa = .dram then readThrough s t (lineOf w.pa) (homeSlice s w.vault w.pa) (basinMask s basin) else s)

/-- A word of a basin's memory, as the part reads it for a queue through tower t, and the state after. -/
def readFor (s : State) (t basin : Nat) (va : Word) : Option Word × State :=
  match translateFor s t .s basin va .load 8 with
  | (.ok w, s1) => (some (leWord (readAt s1 t basin w 8).1), (readAt s1 t basin w 8).2)
  | (_, s1) => (none, s1)

/-- A word of a basin's memory, as the part writes it for a queue through tower t: a sys-scope store. -/
def writeFor (s : State) (t basin : Nat) (va : Word) (v : Word) : State :=
  match translateFor s t .s basin va .store 8 with
  | (.ok w, s1) => storeVia s1 (w.via basin) w.pa (leBytes 8 v.toNat)
  | (_, s1) => s1

/-- The header's mirrors from +8 to +48 (R376). -/
def UQueue.mirrors (u : UQueue) : List Word :=
  [u.head, BitVec.ofNat 64 u.dropped, BitVec.ofNat 64 (u.pri * 256 + u.st), u.ring, BitVec.ofNat 64 u.slots, u.lastBad]

/-- Store the mirrors that differ, from an offset up. -/
def storeMirrors (s : State) (u : UQueue) : Nat → List Word → List Word → State
  | o, v :: l, w :: r => storeMirrors (if v = w then s else writeFor s (u.via s) u.basin (u.hdr + BitVec.ofNat 64 o) w) u (o + 8) l r
  | _, _, _ => s

/-- Change a queue: its header's mirrors are rewritten at each change. -/
def State.setQueue (s : State) (n : Nat) (u : UQueue) : State :=
  let old := match s.queue n with
    | some q => q.mirrors
    | none => u.mirrors
  storeMirrors { s with queues := fset s.queues n u } u 8 old u.mirrors

/-- TAIL as performed. -/
def tailOf (s : State) (u : UQueue) : Word := (readFor s (u.via s) u.basin u.hdr).1.getD u.head

/-- The numbers of the easels (R376). -/
@[irreducible] def easelNumbers : List Nat := List.range 1024

/-- The lowest-numbered free easel that a test admits. -/
def freeEasel (s : State) (p : Nat → Bool) : Option Nat :=
  easelNumbers.find? fun e => decide ((s.easel e).que = none) && p e

/-- The easel that MAPQ takes (R379). -/
def mapqEasel (s : State) (b : Nat) : Option Nat :=
  match freeEasel s fun e => decide ((s.basin b).bedsOn (easelTower s e) ≠ []) with
  | some e => some e
  | none => freeEasel s fun _ => true

/-- The physical address of a header's TAIL; none names no DRAM. -/
def tailPlace (s : State) (t basin : Nat) (hdr : Word) : Nat :=
  match translateFor s t .s basin hdr .load 8 with
  | (.ok w, _) => w.pa
  | _ => 2 ^ 64

/-- The numbers of the user queues (R11; log entry 70). -/
@[irreducible] def queueNumbers : List Nat := List.range 65536

/-- The lowest free number of a user queue. -/
def freeQueue (s : State) : Option Nat := queueNumbers.find? fun n => (flook s.queues n).isNone

/-- A queue is mapped on an easel (R383); one that a bad TAIL has stopped stays STOPPED until MAPQ. -/
def bindQueue (s : State) (n e : Nat) : State :=
  match s.queue n with
  | none => s
  | some u =>
    (s.setEasel e ⟨u.hdr, u.basin, u.pri, some n⟩).setQueue n { u with easel := some e, st := if u.st = 2 then 2 else 1, held := 0 }

/-- A queue is unmapped; one that a bad TAIL has stopped stays STOPPED until MAPQ (R377, R383). -/
def unbindQueue (s : State) (n : Nat) : State :=
  match s.queue n with
  | none => s
  | some u =>
    let s1 := match u.easel with
      | some e => s.setEasel e { s.easel e with que := none }
      | none => s
    s1.setQueue n { u with easel := none, st := if u.st = 2 then 2 else 0 }

/-- EASEL_TAIL_NOTIFY (R377, R379): a performed store to the TAIL line reaches the easel, which has read it; a bad TAIL stops the
queue. -/
def execEaselTailNotify (easel : Nat) (s : State) : Host.Outcome State Fault Refusal :=
  match (s.easel easel).que with
  | none => event s
  | some n =>
    match s.queue n with
    | none => event s
    | some u =>
      let t := tailOf s u
      let s1 := (readFor s (u.via s) u.basin u.hdr).2
      if u.st ≠ 1 ∨ t = u.tail then event s
      else if u.slots < (t - u.head).toNat then event (s1.setQueue n { u with st := 2, tail := t })
      else event (s1.setQueue n { u with tail := t })

/-! ### Dispatch (R378 to R380) -/

/-- The clocks between two times. -/
def elapsed (now t : Nat) : Nat := clocksOf now - clocksOf t

/-- The effective priority of a queue (R380). -/
def effPri (s : State) (u : UQueue) : Nat :=
  min 7 (u.pri + elapsed s.clock u.since / (max 1 (s.basin u.basin).quantum.toNat * 1000))

/-- The mapped, non-empty easels of a die that are not held back, with their queues. -/
def readyEasels (s : State) (die : Nat) : List (Nat × Nat × UQueue) :=
  s.easels.filterMap fun p =>
    match p.2.que with
    | none => none
    | some n => (s.queue n).bind fun u =>
        if p.1 / 512 = die ∧ u.st = 1 ∧ u.tail ≠ u.head ∧ u.held = 0 then some (p.1, n, u) else none

/-- The easel that wins a dispatch slot (R380). -/
def winner (s : State) (die : Nat) : Option (Nat × Nat × UQueue) :=
  let key (p : Nat × Nat × UQueue) : Nat × Nat :=
    let ep := effPri s p.2.2
    (ep, (p.1 + 1024 - fget 511 s.winners (die * 8 + ep) - 1) % 512)
  (readyEasels s die).foldl (fun a p => match a with
    | none => some p
    | some q => if (key q).1 < (key p).1 ∨ ((key p).1 = (key q).1 ∧ (key p).2 < (key q).2) then some p else some q) none

/-- The tower that a record is placed on: the attached one when it is eligible, or a free choice (R101, R379). -/
def towerFrom (s : State) (t mask : Nat) : Nat × State :=
  if inTowers mask t then (t, s)
  else
    let l := (List.range 8).filter (inTowers mask)
    let (i, s1) := freeBelow s l.length
    (l.getD i 0, s1)

/-- Place a launch record of a basin as ENQ does, from an attached tower (R379): the status of ENQ. Its thread acquires
what happened before, at sys scope (R378). -/
def placeFor (s : State) (b t : Nat) (w : List Word) : Nat × State :=
  match parseRecord s b .u (w.map fun v => (v, false)) with
  | none => (2, s)
  | some (r, exact) =>
    let (d, s1) := towerFrom s t r.towers
    match placeOn s1 d (bindExact { r with acqs := [⟨0, 0, true⟩] } exact d) with
    | some s2 => (0, s2)
    | none => (1, s1)

/-- Issue GLAZE for a basin in U mode from an attached tower (R379): the handle or failure word. -/
def glazeFor (s : State) (b t : Nat) (w : List Word) : Word × State :=
  let towers := maskTowers s b (glWord w 3 / 2 ^ 48 % 256)
  let h := holdingTower t towers
  let (slot, s1) := freeGrid s h
  match glCheck w towers b slot.isNone with
  | some v => (v, s1)
  | none =>
    match boardPlaces s1 (fun s a => translateFor s t .u b a .store 128) (w.getD 6 0) (boardLines (glX w * glY w * glZ w)) with
    | (.error _, s2) => (glFail 5 0, s2)
    | (.ok places, s2) =>
      let p := launchGrid s2 w b .u h (slot.getD 0) towers places [⟨0, 0, true⟩]
      (p.2, p.1)

/-- What acting on a record did: it is done with, it was refused, or it stays in place. -/
inductive Acted where
  | ok (s : State)
  | refused (s : State)
  | full (s : State)

/-- Store a glaze record's result at ARG1 through tower t (R379). -/
def storeResult (s : State) (b t : Nat) (a v : Word) : State :=
  if a = 0 then s
  else
    match translateFor s t .u b a .store 8 with
    | (.ok w, s1) => storeVia s1 (w.via b) w.pa (leBytes 8 v.toNat)
    | (_, s1) => post s1 ⟨faultQueueOf s1 b, 8, causeSTOREF, 0, 0xFFFF, 0, a, v, [], none⟩

/-- The 16 words of a glaze descriptor for a basin in U mode, if they can be read through tower t, and the state after. -/
def descriptorFor (s : State) (b t : Nat) (va : Word) : Option (List Word) × State :=
  match translateFor s t .u b va .load 128 with
  | (.ok w, s1) =>
    if placeOf s1 w.pa = .device then (none, s1) else (some (wordsOf 16 (readAt s1 t b w 128).1), (readAt s1 t b w 128).2)
  | (_, s1) => (none, s1)

/-- Act on a record of KIND 1 (R379). -/
def actGlaze (s : State) (b t : Nat) (w : List Word) : Acted :=
  let v (i : Nat) : Word := w.getD i 0
  let f := (v 6).toNat
  if v 3 ≠ 0 ∨ v 4 ≠ 0 ∨ v 5 ≠ 0 ∨ f / 2 ^ 28 ≠ 0 ∨ f % 2 ^ 24 ≠ 0 ∨ v 7 ≠ 0 ∨ (v 0).toNat % 128 ≠ 0 ∨ (v 2).toNat % 8 ≠ 0 then .refused s
  else
    match descriptorFor s b t (v 0) with
    | (none, s1) => .refused s1
    | (some d, s1) =>
      let (r, s2) := glazeFor s1 b t (if v 1 = 0 then d else d.set 9 (v 1))
      if r = glFail 1 0 then .full s2 else .ok (storeResult s2 b t (v 2) r)

/-- Act on a record (R379). -/
def actRecord (s : State) (b t : Nat) (w : List Word) : Acted :=
  match (w.getD 6 0).toNat / 2 ^ 24 % 16 with
  | 0 =>
    match placeFor s b t w with
    | (0, s1) => .ok s1
    | (1, s1) => .full s1
    | _ => .refused s
  | 1 => actGlaze s b t w
  | _ => .refused s

/-- n words of a basin's memory from an address up, as the part reads them for a queue through tower t, and the state after; one
that does not translate reads 0. -/
def readsFor (s : State) (t basin : Nat) (va : Word) : Nat → List Word × State
  | 0 => ([], s)
  | n + 1 =>
    let p := readFor s t basin va
    let q := readsFor p.2 t basin (va + 8) n
    (p.1.getD 0 :: q.1, q.2)

/-- The words of the record at HEAD (R377), and the state after they are read. -/
def headRecord (s : State) (u : UQueue) : List Word × State :=
  readsFor s (u.via s) u.basin (u.ring + BitVec.ofNat 64 (64 * (u.head.toNat % max 1 u.slots))) 8

/-- One dispatch slot of a die passes: easels that are held back come nearer to their next try. -/
def passSlot (s : State) (die : Nat) : State :=
  { s with queues := s.queues.map fun p => match p.2.easel with
      | some e => if e / 512 = die then (p.1, { p.2 with held := p.2.held - 1 }) else p
      | none => p }

/-- EASEL_DISPATCH (R378 to R380): in a dispatch slot of an I/O die, the winning easel acts on the record at HEAD. -/
def execEaselDispatch (die : Nat) (s : State) : Host.Outcome State Fault Refusal :=
  match winner s die with
  | none => event (passSlot s die)
  | some (e, n, u) =>
    let (w, s0) := headRecord (passSlot { s with winners := fset s.winners (die * 8 + effPri s u) e } die) u
    let next := { u with head := u.head + 1, since := s.clock }
    match actRecord s0 u.basin (easelTower s e) w with
    | .ok s1 => event (s1.setQueue n next)
    | .refused s1 => event (s1.setQueue n { next with dropped := min (u.dropped + 1) (2 ^ 32 - 1), lastBad := u.head })
    | .full s1 => event (s1.setQueue n { u with held := 256 })

/-- EASEL_HOLDBACK_EXPIRY (R379): 256 slots after a FULL the easel competes again. -/
def execEaselHoldbackExpiry (easel : Nat) (s : State) : Host.Outcome State Fault Refusal :=
  match (s.easel easel).que with
  | none => event s
  | some n =>
    match s.queue n with
    | none => event s
    | some u => event (s.setQueue n { u with held := 0 })

/-! ### Mapping and unmapping (R383) -/

/-- An UNMAPPED queue whose client has stored a TAIL. -/
def wantsEasel (s : State) (u : UQueue) : Bool := decide (u.st = 0) && decide (tailOf s u ≠ u.head) && (s.basin u.basin).isOpen

/-- QUEUE_REMAP (R383): a TAIL store to an UNMAPPED queue makes the atelier map it on a free easel of its tower. -/
def execQueueRemap (que : Nat) (s : State) : Host.Outcome State Fault Refusal :=
  match s.queue que with
  | none => event s
  | some u =>
    if wantsEasel s u then
      match freeEasel s fun e => decide (easelTower s e = u.tower) with
      | some e => event (bindQueue s que e)
      | none => event s
    else event s

/-- A mapped queue that may give up its easel: HEAD = TAIL, also as the atelier reads TAIL again. -/
def idle (s : State) (u : UQueue) : Bool := decide (u.st = 1) && decide (u.tail = u.head) && decide (tailOf s u = u.head)

/-- QUEUE_IDLE_EXPIRY (R383): a queue that has had no TAIL store for 100 µs is unmapped when another queue needs an easel of
its easel's tower and none is free, the one idle longest first. -/
def execQueueIdleExpiry (que : Nat) (s : State) : Host.Outcome State Fault Refusal :=
  match s.queue que with
  | none => event s
  | some u =>
    match u.easel with
    | none => event s
    | some e =>
      let t := easelTower s e
      let wanted := s.queues.any fun p => wantsEasel s p.2 && decide (p.2.tower = t)
      let free := (freeEasel s fun d => decide (easelTower s d = t)).isSome
      let longer := s.queues.any fun p => idle s p.2 && decide (p.2.tailAt < u.tailAt) &&
        (match p.2.easel with
         | some d => decide (easelTower s d = t)
         | none => false)
      if idle s u && wanted && !free && !longer then event (unbindQueue s que) else event s

/-! ### Easel registers (R394) -/

/-- The queue that M-mode code binds an easel to: a known one with this header, or the one that the header describes. -/
def queueAt (s : State) (e : Nat) (x : Easel) : Option (Nat × UQueue) :=
  match s.queues.find? fun p => decide (p.2.basin = x.basin) && decide (p.2.hdr = x.eqhdr) with
  | some p => some (p.1, { p.2 with pri := x.pri })
  | none =>
    let t := easelTower s e
    let word (o : Nat) : Option Word := (readFor s t x.basin (x.eqhdr + BitVec.ofNat 64 o)).1
    match word 8, word 16, word 32, word 40, word 48 with
    | some h, some d, some r, some n, some l =>
      (freeQueue s).map fun q => (q, ⟨x.basin, x.eqhdr, r, n.toNat, x.pri, 0, t, none, h, h, d.toNat % 2 ^ 32, l,
        tailPlace s t x.basin x.eqhdr, s.clock, s.clock, 0⟩)
    | _, _, _, _, _ => none

/-- A write of ECTL (R394): MAPPED = 1 maps the queue at EQHDR, MAPPED = 0 unmaps it; the other fields change only while
MAPPED is 0. A header that does not translate leaves the easel unmapped. -/
def writeEctl (s : State) (e : Nat) (v : Word) : State :=
  let x := s.easel e
  match x.que with
  | some n => if v.getLsbD 0 then s else unbindQueue s n
  | none =>
    let x1 := { x with basin := v.toNat / 2 ^ 8 % 64, pri := v.toNat / 16 % 8 }
    let s1 := s.setEasel e x1
    if v.getLsbD 0 then
      match queueAt s1 e x1 with
      | some (n, u) =>
        if u.easel.isSome then s1
        else
          let s2 := (readsFor s1 (easelTower s1 e) u.basin u.hdr 7).2
          bindQueue { s2 with queues := fset s2.queues n u } n e
      | none => s1
    else s1

end Sys2Proof.Machine
end

