-- ==== Sys2Proof/Machine/Device.lean ====
section
/-! DEFINITION. Device registers (R391 to R395 of spec/29_host_and_tenancy.md), accesses through remote windows (R129), and
the arrival of load data (R148). -/

namespace Sys2Proof.Machine

/-! ### Writes (R392 to R395) -/

/-- INTERVAL is accepted (R392). -/
def intervalOk (n : Nat) : Bool := decide (n = 0) || (decide (100 ≤ n) && decide (n ≤ 100000))

/-- Guarded mode is set or cleared on a tower (R362, R392): what a guarded tower issues from then on is held. -/
def setGuarded (s : State) (t : Nat) (on : Bool) (interval : Nat) : State :=
  let x := s.guard t
  if on then
    if x.on then s.setGuard t { x with interval := interval }
    else s.bump.setGuard t { x with on := true, interval := interval, covered := s.serial, cutAt := s.clock }
  else
    s.setGuard t { x with
      on := false, interval := interval, stopping := false, stored := none, pending := none, undo := [], undoNew := [], log := [], logNew := [] }

/-- GUARDCTL := v (R392). -/
def writeGuardctl (s : State) (t : Nat) (v : Word) : State :=
  let on := v.getLsbD 0
  let n := v.toNat / 2 ^ 32
  if !towerPresent s t || (on && !s.caps.getLsbD 10) || !intervalOk n then s else setGuarded s t on n

/-- CKPTREQ := v (R392). -/
def writeCkptreq (s : State) (t : Nat) (v : Word) : State := if towerPresent s t ∧ v = 1 then askCut s t else s

/-- RESETREQ := v (R392): a reset of the tower is requested. -/
def writeResetreq (s : State) (t : Nat) (v : Word) : State :=
  if towerPresent s t ∧ v = 0x52455345 then s.setGuard t { s.guard t with resetDue := true } else s

/-- BEDCTL := v (R392): a move of the bed to the basin that it names, or to no basin; a bed that belongs to none and is given
to none is cleaned and restarted (steps 7 to 9 of R388). -/
def writeBedctl (s : State) (t bed : Nat) (v : Word) : State :=
  let o := v &&& 0x7F
  let b := o.toNat % 64
  if !bedExists s t bed || moving s t bed then s
  else if o.getLsbD 6 then (if (bedOwner s t bed).getLsbD 6 then grantBed s t bed 0x40 else startMove s t bed 0x40)
  else if (s.basin b).isOpen then startMove s t bed o
  else s

/-- VTMAP is accepted (R393): no two virtual towers on one physical tower, and no absent tower. -/
def vtmapOk (s : State) (v : Nat) : Bool :=
  let n (i : Nat) : Nat := v / 16 ^ i % 16
  (List.range 8).all fun i => decide (n i = 15) ||
    (towerPresent s (n i) && (List.range 8).all fun j => decide (i = j) || decide (n i ≠ n j))

/-- PTROOT := v (R393). -/
def writePtroot (s : State) (b : Nat) (v : Word) : State :=
  if (s.basin b).isOpen then s else s.setBasin b { s.basin b with ptroot := v &&& ~~~(0x1FFF#64) }

/-- VTMAP := v (R393). -/
def writeVtmap (s : State) (b : Nat) (v : Word) : State :=
  let w := v &&& 0xFFFFFFFF
  if (s.basin b).isOpen || !vtmapOk s w.toNat then s else s.setBasin b { s.basin b with vtmap := w }

/-- WAYMASK := v (R386, R393). -/
def writeWaymask (s : State) (b : Nat) (v : Word) : State := s.setBasin b { s.basin b with waymask := v &&& 0xFFFF }

/-- QUANTUM := v (R393). -/
def writeQuantum (s : State) (b : Nat) (v : Word) : State :=
  let q := v &&& 0x3FF
  if 1 ≤ q.toNat ∧ q.toNat ≤ 1000 then s.setBasin b { s.basin b with quantum := q } else s

/-- FQHDR := v (R393). -/
def writeFqhdr (s : State) (b : Nat) (v : Word) : State := s.setBasin b { s.basin b with fqhdr := v &&& ~~~(0x3F#64) }

/-- BSTATE := v (R393): OPEN. -/
def writeBstate (s : State) (b : Nat) (v : Word) : State := s.setBasin b { s.basin b with isOpen := v.getLsbD 0 }

/-- EQHDR := v (R394): ignored while the easel is mapped. -/
def writeEqhdr (s : State) (e : Nat) (v : Word) : State :=
  if (s.easel e).que.isSome then s else s.setEasel e { s.easel e with eqhdr := v &&& ~~~(0x3F#64) }

/-- A write of a device register; an address that no table lists ignores it (R391). -/
def deviceWrite (s : State) (pa : Nat) (v : Word) : State :=
  match devReg pa with
  | .tower t off =>
    if off = 0x008 then writeGuardctl s t v
    else if off = 0x010 then writeCkptreq s t v
    else if off = 0x018 then writeResetreq s t v
    else if 0x100 ≤ off ∧ off < 0x180 ∧ off % 8 = 0 then writeBedctl s t ((off - 0x100) / 8) v
    else s
  | .die i off =>
    let e := 512 * i + off / 16
    if 512 * 16 ≤ off then s else if off % 16 = 0 then writeEqhdr s e v else if off % 16 = 8 then writeEctl s e v else s
  | .basin b off =>
    match off with
    | 0x000 => writeFqhdr s b v
    | 0x008 => writePtroot s b v
    | 0x010 => writeWaymask s b v
    | 0x018 => writeQuantum s b v
    | 0x020 => writeVtmap s b v
    | 0x028 => writeBstate s b v
    | _ => s
  | .atelier 0 => { s with afqhdr := v &&& ~~~(0x3F#64) }
  | _ => s

/-! ### The accesses of threads (R391) -/

/-- No earlier device access of the same thread is still to be performed (R391). -/
def devFirst (s : State) (r : RemoteOp) : Bool :=
  match s.remotes.find? fun q => decide (q.core = r.core) && decide (q.ctx = r.ctx) && decide (placeOf s q.addr = .device) with
  | some q => decide (q.id = r.id)
  | none => false

/-- The value that a store leaves in a register: a 4-byte store changes only its half (R391). -/
def mergeHalf (s : State) (r : RemoteOp) (bs : List Byte) : Word :=
  if r.size = 8 then leWord bs
  else
    let old := deviceRead s (r.addr / 8 * 8)
    if r.addr % 8 = 4 then (old &&& 0xFFFFFFFF) ||| (leWord bs <<< 32) else (old &&& 0xFFFFFFFF00000000) ||| (leWord bs &&& 0xFFFFFFFF)

/-- The store that is due at a register with a value. -/
def devStore (s : State) (pa : Nat) (v : Word) : Option RemoteOp :=
  s.remotes.find? fun r => decide (r.addr / 8 * 8 = pa) && decide (placeOf s r.addr = .device) && devFirst s r &&
    (match r.store with
     | some bs => decide (mergeHalf s r bs = v)
     | none => false)

/-- A store changes nothing of its register: one of 4 bytes to the reserved half of a BEDCTL (R391, R392). -/
def RemoteOp.idle (r : RemoteOp) : Bool :=
  match devReg (r.addr / 8 * 8) with
  | .tower _ off => decide (0x100 ≤ off) && decide (off < 0x180) && decide (r.size = 4) && decide (r.addr % 8 = 4)
  | _ => false

/-- A store of a thread is performed at its register. -/
def devEvent (s : State) (pa : Nat) (v : Word) (f : State → State) : Host.Outcome State Fault Refusal :=
  match devStore s pa v with
  | some r =>
    let s1 := { s with remotes := s.remotes.filter fun q => decide (q.id ≠ r.id) }
    event (if r.idle then s1 else f s1)
  | none => event s

/-- The address of a tower's register. -/
def towerAddr (t off : Nat) : Nat := 0x0F0000000000 + t * 0x1000000 + off
/-- The address of a basin's register. -/
def basinAddr (b off : Nat) : Nat := 0x0F2000000000 + b * 0x1000 + off
/-- The address of an easel's register. -/
def easelAddr (e off : Nat) : Nat := 0x0F1000000000 + e / 512 * 0x1000000 + e % 512 * 16 + off

/-- GUARDCTL_WRITE (R392). -/
def execGuardctlWrite (tower : Nat) (v : Word) (s : State) : Host.Outcome State Fault Refusal :=
  devEvent s (towerAddr tower 0x008) v fun s => writeGuardctl s tower v

/-- CKPTREQ_WRITE (R392). -/
def execCkptreqWrite (tower : Nat) (v : Word) (s : State) : Host.Outcome State Fault Refusal :=
  devEvent s (towerAddr tower 0x010) v fun s => writeCkptreq s tower v

/-- RESETREQ_WRITE (R392). -/
def execResetreqWrite (tower : Nat) (v : Word) (s : State) : Host.Outcome State Fault Refusal :=
  devEvent s (towerAddr tower 0x018) v fun s => writeResetreq s tower v

/-- BEDCTL_WRITE (R392). -/
def execBedctlWrite (tower bed : Nat) (v : Word) (s : State) : Host.Outcome State Fault Refusal :=
  devEvent s (towerAddr tower (0x100 + 8 * bed)) v fun s => writeBedctl s tower bed v

/-- PTROOT_WRITE (R393). -/
def execPtrootWrite (basin : Nat) (v : Word) (s : State) : Host.Outcome State Fault Refusal :=
  devEvent s (basinAddr basin 0x008) v fun s => writePtroot s basin v

/-- VTMAP_WRITE (R393). -/
def execVtmapWrite (basin : Nat) (v : Word) (s : State) : Host.Outcome State Fault Refusal :=
  devEvent s (basinAddr basin 0x020) v fun s => writeVtmap s basin v

/-- WAYMASK_WRITE (R393, R386). -/
def execWaymaskWrite (basin : Nat) (v : Word) (s : State) : Host.Outcome State Fault Refusal :=
  devEvent s (basinAddr basin 0x010) v fun s => writeWaymask s basin v

/-- QUANTUM_WRITE (R393). -/
def execQuantumWrite (basin : Nat) (v : Word) (s : State) : Host.Outcome State Fault Refusal :=
  devEvent s (basinAddr basin 0x018) v fun s => writeQuantum s basin v

/-- ECTL_WRITE (R394). -/
def execEctlWrite (easel : Nat) (v : Word) (s : State) : Host.Outcome State Fault Refusal :=
  devEvent s (easelAddr easel 8) v fun s => writeEctl s easel v

/-- DEVICE_REGISTER_WRITE (R391): a store of 4 or 8 bytes is performed at the register it addresses. -/
def execDeviceRegisterWrite (addr size : Nat) (v : Word) (s : State) : Host.Outcome State Fault Refusal :=
  match s.remotes.find? fun r => decide (r.addr = addr) && decide (r.size = size) && decide (placeOf s r.addr = .device) &&
      devFirst s r && decide (r.store = some (leBytes size v.toNat)) with
  | some r =>
    let x := mergeHalf s r (leBytes size v.toNat)
    let s1 := { s with remotes := s.remotes.filter fun q => decide (q.id ≠ r.id) }
    event (if r.idle then s1 else deviceWrite s1 (addr / 8 * 8) x)
  | none => event s

/-! ### Remote windows and load data (R129, R148) -/

/-- The owner core of a scratchpad address. -/
def ownerOf (s : State) (pa : Nat) : Option (Nat × Nat) :=
  match placeOf s pa with
  | .spad g off => some (g, off)
  | _ => none

/-- REMOTE_WINDOW_ACCESS (R129): a load or store through a window is performed at its owner core, in the order of the
issuing core's accesses to that owner. -/
def execRemoteWindowAccess (n : Nat) (s : State) : Host.Outcome State Fault Refusal :=
  match s.remotes[n]? with
  | none => event s
  | some r =>
    match ownerOf s r.addr with
    | none => event s
    | some (g, _) =>
      let earlier := (s.remotes.take n).any fun q =>
        decide (q.core = r.core) && q.data.isNone && decide ((ownerOf s q.addr).map Prod.fst = some g)
      if earlier || r.data.isSome || heldCore s r.core (g / 256) r.stamp then event s
      else
        match r.store with
        | some bs =>
          let s1 := storeVia { s with remotes := s.remotes.eraseIdx n } ⟨r.basin, none⟩ r.addr bs
          event (if r.core / 256 = g / 256 then s1 else keepReplay s1 (g / 256) (.remote r))
        | none =>
          event { s.bump with remotes := s.remotes.set n { r with data := some (readBytes s.mem r.addr r.size), stamp := s.serial } }

/-- The load that a thread has sent out comes back with bytes. -/
def finishRemote (s : State) (g k : Nat) (r : RemoteOp) (bs : List Byte) : State :=
  match r.load with
  | none => s
  | some op => asCtx { s with remotes := s.remotes.filter fun q => decide (q.id ≠ r.id) } g k fun s =>
      effState s (completeLoad s op bs false false)

/-- LOAD_DATA_ARRIVAL (R148, R158, R159): the data of a load reaches its thread: from L1 or the slices, from another core's
scratchpad, or from a device register, which is read as it is performed. -/
def execLoadDataArrival (core ctx : Nat) (fromL1 : Bool) (s : State) : Host.Outcome State Fault Refusal :=
  if !alive s core ctx then event s
  else
    match (s.ctx core ctx).park with
    | some (.load op) => event (arriveDram s core ctx op fromL1)
    | some (.remote id) =>
      match s.remotes.find? fun r => decide (r.id = id) with
      | none => event s
      | some r =>
        match r.data with
        | some bs =>
          let owner := ((ownerOf s r.addr).map Prod.fst).getD r.core
          if heldCore s owner (core / 256) r.stamp then event s else event (finishRemote s core ctx r bs)
        | none =>
          if placeOf s r.addr = .device ∧ devFirst s r = true then
            event (finishRemote s core ctx r (deviceBytes s r.addr r.size))
          else event s
    | _ => event s

end Sys2Proof.Machine
end

