-- ==== Sys2Proof/Machine/Boot.lean ====
section
/-! DEFINITION. The configuration record, boot, supply voltage and temperature (R396 to R399, R402, R403 of
spec/29_host_and_tenancy.md). -/

namespace Sys2Proof.Machine

/-! ### The configuration record (R397) -/

/-- A dword of a byte list at an offset. -/
def dwordAt (l : List Byte) (off : Nat) : Nat := leNat ((l.drop off).take 8)

/-- The fields of a record. -/
def recVariant (l : List Byte) : Nat := dwordAt l 8 / 2 ^ 16 % 256
/-- STEP. -/
def recStep (l : List Byte) : Nat := dwordAt l 8 / 2 ^ 40 % 256
/-- TWR. -/
def recTwr (l : List Byte) : Nat := dwordAt l 8 % 256
/-- SERIAL. -/
def recSerial (l : List Byte) : Nat := dwordAt l 16 % 2 ^ 48
/-- RECVER. -/
def recVersion (l : List Byte) : Nat := dwordAt l 24 / 2 ^ 32
/-- MINVER. -/
def recMinver (l : List Byte) : Nat := dwordAt l 24 % 2 ^ 32
/-- PUFAUX. -/
def recPufaux (l : List Byte) : List Byte := (l.drop 96).take 160

/-- The towers that a variant has (R17, R397). -/
def variantTwr (v : Nat) : Nat :=
  match v with
  | 1 => 0xFF
  | 2 => 0x3F
  | 3 => 0x0F
  | _ => 0

/-- Every field of a record has a stated value, and its signature verifies (R397, R398). -/
def recordOk (l : List Byte) : Bool :=
  let w8 := dwordAt l 8
  let v := recVariant l
  decide (l.length = 256 + 29792) && decide (dwordAt l 0 = 0x5A434647 * 2 ^ 32 + 1 * 2 ^ 16 + 256) &&
  decide (w8 / 2 ^ 48 = 0) && decide (w8 / 2 ^ 32 % 256 = 0xFF) && decide (w8 / 2 ^ 24 % 256 = 0) && decide (w8 / 2 ^ 8 % 256 = 0) &&
  decide (1 ≤ v) && decide (v ≤ 3) && decide (recTwr l = variantTwr v) && decide (dwordAt l 16 / 2 ^ 48 = 0) &&
  Config.recordSigned l

/-- CAPS from a record (R16, R17): the features of bits 8 to 11 are absent on a 7840. -/
def recCaps (l : List Byte) : Word :=
  BitVec.ofNat 64 (recStep l * 2 ^ 40 + 0xFF * 2 ^ 32 + recVariant l * 2 ^ 16 + (if recVariant l = 3 then 0 else 0xF00) + recTwr l)

/-- An image that boots (R396 step 2): it verifies, and its security version is at least MINVER. -/
def imageOk (minver : Nat) (l : List Byte) : Bool := Config.imageSigned l && decide (minver ≤ Config.imageVersion l)

/-- The atelier cores start an image's entry in M mode (R396 step 4). -/
def startAtelier (s : State) (entry : Word) : State :=
  ((List.range 16).map fun i => 2048 + i).foldl (fun s g =>
    s.setCtx g 0 { Ctx.zero with stop := none, pc := entry }) s

/-- The image that runs. -/
def State.image (s : State) : List Byte := if s.running = some 1 then s.flash.image1 else s.flash.image0

/-- POWER_ON_BOOT (R396, R14, R399): the boot ROM verifies the record and an image, sets CAPS and IDS, derives the identity key, and
starts the sixteen atelier cores; when a verification fails the part stays unbooted. -/
def execPowerOnBoot (s : State) : Host.Outcome State Fault Refusal :=
  let r := s.flash.record
  let slot := if imageOk (recMinver r) s.flash.image0 then some 0 else if imageOk (recMinver r) s.flash.image1 then some 1 else none
  if s.powered = false ∨ s.booted = true ∨ recordOk r = false then event s
  else
    match slot with
    | none => event s
    | some n =>
      let s1 := { s with
        booted := true, caps := recCaps r, ids := BitVec.ofNat 64 (recSerial r), running := some n
        identity := if Config.identityDerived (recPufaux r) then some (Config.identityKey (recPufaux r)) else none }
      event (startAtelier s1 (Config.imageEntry s1.image))

/-! ### Supply voltage (R402) -/

/-- The part reset cold: flash keeps its content, and what the outside has chosen is still to come. -/
def coldStart (s : State) : State :=
  { State.reset with flash := s.flash, agenda := s.agenda, freeCtr := s.freeCtr }

/-- The input is in a derating band. -/
def deratingBand (mv : Nat) : Bool := (decide (45000 ≤ mv) && decide (mv < 48000)) || (decide (54000 < mv) && decide (mv ≤ 57000))

/-- Power is on: a module that was off returns by a cold reset. -/
def powerUp (s : State) : State := if s.powered then s else coldStart s

/-- VOLTAGE_DERATE (R402): in a derating band the atelier caps the module at typical power by holding issue slots idle. -/
def execVoltageDerate (mv : Nat) (s : State) : Host.Outcome State Fault Refusal :=
  if deratingBand mv then event { powerUp s with derated := true } else event s

/-- VOLTAGE_POWER_OFF (R402): outside 45–57 V the module powers off. -/
def execVoltagePowerOff (mv : Nat) (s : State) : Host.Outcome State Fault Refusal :=
  if mv < 45000 ∨ 57000 < mv then event { s with powered := false } else event s

/-- INPUT_VOLTAGE_NORMAL (R402): within 48–54 V nothing is held; a module that was off is reset cold. -/
def execInputVoltageNormal (mv : Nat) (s : State) : Host.Outcome State Fault Refusal :=
  if 48000 ≤ mv ∧ mv ≤ 54000 then event { powerUp s with derated := false } else event s

/-! ### Temperature (R403) -/

/-- THERMAL_HOLD (R403): above 105 °C the atelier holds issue on the tower's compute die. -/
def execThermalHold (tower celsius : Nat) (s : State) : Host.Outcome State Fault Refusal :=
  if 105 < celsius then event { s with hot := insertSorted tower s.hot } else event s

/-- THERMAL_RELEASE (R403): a held die that reads 100 °C issues again. -/
def execThermalRelease (tower celsius : Nat) (s : State) : Host.Outcome State Fault Refusal :=
  if celsius ≤ 100 then event { s with hot := s.hot.filter fun t => decide (t ≠ tower) } else event s

end Sys2Proof.Machine
end

