-- ==== Sys2Proof/Machine/Service.lean ====
section
/-! DEFINITION. Remote memory access by clients and the requests to the atelier service (R371 to R375, R379, R389, R400,
R401 of spec/29_host_and_tenancy.md). -/

namespace Sys2Proof.Machine

/-! ### RMA (R371, R372) -/

/-- Send a message to a client. -/
def State.send (s : State) (m : HostMsg) : State := { s with outbox := s.outbox ++ [m] }

/-- The window that a message may use (R372): its key is known, it stays in the window, and the window has the right. -/
def windowFor (s : State) (m : RmaMsg) (len : Nat) (write : Bool) : Option Window :=
  s.windows.find? fun w => decide (w.key = m.key) && decide (m.offset + len ≤ w.len) && (if write then w.write else w.read)

/-- The sizes of the stores of a message, from an address up: one byte at an unaligned edge, and 8 bytes inside. -/
def unitsFrom : Nat → Nat → Nat → List Nat
  | 0, _, _ => []
  | fuel + 1, a, n =>
    if n = 0 then []
    else if a % 8 = 0 ∧ 8 ≤ n then 8 :: unitsFrom fuel (a + 8) (n - 8)
    else 1 :: unitsFrom fuel (a + 1) (n - 1)

/-- The tower that an Ultra Ethernet port is attached to (R345). -/
def portTower (s : State) (port : Nat) : Nat := port % max 1 (towersPresent s)

/-- The places of the units of a range in a basin, in order, for an agent of tower t; none when one does not translate to DRAM. -/
def unitPlaces (s : State) (t b : Nat) (acc : Access) : Nat → List Nat → Option (List (Where × Nat) × State)
  | _, [] => some ([], s)
  | a, n :: l =>
    match translateFor s t .s b (BitVec.ofNat 64 a) acc n with
    | (.ok w, s1) =>
      if placeOf s1 w.pa = .dram then
        match unitPlaces s1 t b acc (a + n) l with
        | some (r, s2) => some ((w, n) :: r, s2)
        | none => none
      else none
    | _ => none

/-- Perform the units of a message in order, each at its home, in the ways of the window's basin (R345, R386). -/
def performUnits (s : State) (b : Nat) : List (Where × Nat) → List Byte → State
  | [], _ => s
  | (w, n) :: l, bs =>
    performUnits (performFor s (fun s l => homeSlice s w.vault (128 * l)) (basinMask s b) w.pa (bs.take n) 2) b l (bs.drop n)

/-- The units that a message reads pass through the slices of the tower that its port is attached to (R345), which hold a token and
the data for each. -/
def passUnits (s : State) (t b : Nat) : List (Where × Nat) → State
  | [] => s
  | (w, n) :: l => passUnits (readAt s t b w n).2 t b l

/-- A store that tower t issues for a port reaches its home at once: it is homed there, or t's queue for its home is empty and t
holds no message back (R135, R362). -/
def portFree (s : State) (t : Nat) (w : Where) : Bool :=
  let h := homeSlice s w.vault w.pa / 256
  decide (h = t) || (decide (outQueue (s.tower t) h = []) && !(s.guard t).on)

/-- The units of message n enter the outbound buffer of its port's tower, one entry each, in order (R135, R345). -/
def queueUnits (s : State) (b t n : Nat) : List (Where × Nat) → List Byte → State
  | [], _ => s
  | (w, k) :: l, bs =>
    let home := homeSlice s w.vault w.pa
    let e : WEntry := ⟨lineOf w.pa, home, home % 256, storeBytes (w.pa % 128) 4 (portCtx n) s.serial b (bs.take k), s.serial⟩
    queueUnits (s.bump.setTower t { s.tower t with outbound := (s.tower t).outbound ++ [e] }) b t n l (bs.drop k)

/-- Units of message n still wait in tower t's outbound buffer. -/
def unitsQueued (s : State) (t n : Nat) : Bool := (s.tower t).outbound.any fun e => e.bytes.any fun b => decide (b.gctx = portCtx n)

/-- An earlier message of a message's ordered connection is still to be performed (R372). -/
def rodWaits (s : State) (m : RmaMsg) : Bool :=
  m.ordered && s.acks.any fun a => decide (a.port = m.port) && decide (a.conn = m.conn) && unitsQueued s (portTower s a.port) a.msg

/-- RMA_WRITE (R345, R372): the payload is performed as sys-scope stores of the window's basin in increasing address order, by
way of the tower that the port is attached to: whole in one step (log entry 22) where that tower keeps none of them back, or
else from its outbound buffer. The acknowledgement is due once every unit is performed. A message that names no window, exceeds
it or lacks the right receives the access error, and nothing is written; one behind another of its connection, or before a full
buffer, waits. -/
def execRmaWrite (m : RmaMsg) (s : State) : Host.Outcome State Fault Refusal :=
  let t := portTower s m.port
  if s.booted = false ∨ rodWaits s m = true then event s
  else
    match windowFor s m m.bytes.length true with
    | none => event (s.send (.error m.port m.conn 1))
    | some w =>
      match unitPlaces s t w.basin .store (w.va + m.offset) (unitsFrom m.bytes.length (w.va + m.offset) m.bytes.length) with
      | none => event (s.send (.error m.port m.conn 1))
      | some (l, s1) =>
        if l.all fun p => portFree s1 t p.1 then
          let s2 := performUnits s1 w.basin l m.bytes
          event { s2.bump with acks := s2.acks ++ [⟨m.port, m.conn, s2.serial⟩] }
        else if outFull s1 t then event s
        else
          let s2 := queueUnits s1.bump w.basin t s1.serial l m.bytes
          event { s2 with acks := s2.acks ++ [⟨m.port, m.conn, s1.serial⟩] }

/-- RMA_WRITE_ACK (R372): an acknowledgement is sent once every unit of its message has been performed. -/
def execRmaWriteAck (n : Nat) (s : State) : Host.Outcome State Fault Refusal :=
  match s.acks[n]? with
  | none => event s
  | some a =>
    if unitsQueued s (portTower s a.port) a.msg then event s
    else event ({ s with acks := s.acks.eraseIdx n }.send (.ack a.port a.conn))

/-- RMA_READ (R372): the units are read as sys-scope loads in increasing address order, through the slices of the port's tower. -/
def execRmaRead (m : RmaMsg) (s : State) : Host.Outcome State Fault Refusal :=
  let t := portTower s m.port
  if s.booted = false ∨ rodWaits s m = true then event s
  else
    match windowFor s m m.count false with
    | none => event (s.send (.error m.port m.conn 1))
    | some w =>
      match unitPlaces s t w.basin .load (w.va + m.offset) (unitsFrom m.count (w.va + m.offset) m.count) with
      | none => event (s.send (.error m.port m.conn 1))
      | some (l, s1) =>
        event ((passUnits s1 t w.basin l).send (.data m.port m.conn (l.flatMap fun p => readBytes s1.mem p.1.pa p.2)))

/-- UNSUPPORTED_REQUEST (R371): a request that uses an omitted part of the transport receives the unsupported-operation
error, and device memory does not change. -/
def execUnsupportedRequest (m : RmaMsg) (s : State) : Host.Outcome State Fault Refusal :=
  if s.booted then event (s.send (.error m.port m.conn 0)) else event s

/-! ### Requests (R373 to R375) -/

/-- The outcome of a request: its results, body and new state, or a status other than 0. -/
inductive Res where
  | ok (s : State) (results : List Word) (body : List Byte)
  | fail (status : Nat)

/-- The statuses of R375. -/
def stDENIED : Nat := 1
def stBADARG : Nat := 2
def stNOSPACE : Nat := 3
def stABSENT : Nat := 4
def stREFUSED : Nat := 5
def stBUSY : Nat := 6

/-- Send the reply (R373). -/
def reply (s : State) (q : Req) (code status : Nat) (results : List Word) (body : List Byte) : State :=
  s.send (.reply q.port q.reply code q.basin q.tag status results body)

/-- Answer a request: with a status other than 0 it has no effect (R375). -/
def answerReq (s : State) (q : Req) (code : Nat) (r : Res) : Host.Outcome State Fault Refusal :=
  match r with
  | .ok s1 results body => event (reply s1 q code 0 results body)
  | .fail st => event (reply s q code st [] [])

/-- Argument i of a request. -/
def argOf (q : Req) (i : Nat) : Word := q.args.getD i 0

/-- A reset or a bed move of a basin is in progress (R375). -/
def busy (s : State) (b : Nat) : Bool :=
  (s.basin b).resetting || s.bedMoves.any fun m =>
    decide (ownerBasin m.owner = some b) || decide (ownerBasin (bedOwner s m.tower m.bed) = some b)

/-- A request's message is longer than 4,096 bytes: its body is the LEN bytes after the header of 64 (R373). -/
def tooLong (q : Req) : Bool := decide (4032 < q.body.length)

/-- A request that names an open basin (R373): from its own domain or the operator's, or for an operator request from the
operator's alone. -/
def forBasin (s : State) (q : Req) (code : Nat) (operator : Bool) (f : Nat → Res) : Host.Outcome State Fault Refusal :=
  let b := q.basin.toNat
  if s.booted = false then event s
  else if !(decide (q.domain = none) || (!operator && decide (q.domain = some b))) then answerReq s q code (.fail stDENIED)
  else if q.reserved || tooLong q || decide (64 ≤ b) || !(s.basin b).isOpen then answerReq s q code (.fail stBADARG)
  else if busy s b then answerReq s q code (.fail stBUSY)
  else answerReq s q code (f b)

/-- An operator request that names no basin (R373: BASIN is 0xFFFF). The body of UPDATE (code 16) is not held to the length of
one message, which no record of R397 fits (DEDUCED, log entry 81). -/
def forPart (s : State) (q : Req) (code : Nat) (f : Unit → Res) : Host.Outcome State Fault Refusal :=
  if s.booted = false then event s
  else if q.domain.isSome then answerReq s q code (.fail stDENIED)
  else if q.reserved || (tooLong q && decide (code ≠ 16)) || decide (q.basin ≠ 0xFFFF) then answerReq s q code (.fail stBADARG)
  else answerReq s q code (f ())

/-! ### Loading an image (R54, R374) -/

/-- The virtual vault of a basin by physical number (R385). -/
def physVault (s : State) (b v : Nat) : Option Nat := (physTower s b (v / 64)).map fun t => t * 64 + v % 64

/-- The PTE flags of a section (R54): text is readable and executable, data readable and writable, placed pages lie in a
vault. That user mode may use them, bit U, the spec does not state (DESIGN CHOICE, log entry 71). -/
def sectionFlags (kind : Nat) : Nat := if kind = 0 then 0x34 else if kind = 3 then 0x6C else 0x2C

/-- The offset of a scratch image (R54): on every core of the basin below S × 64 KiB, above the channel pool, outside the
save area, and clear of other programs' images, also on a bed that joins later where there is such an offset (log entry 69); which
one is the loader's choice (log entry 6). -/
def scratchPlace (s : State) (b align size : Nat) : Option Nat × State :=
  let x := s.basin b
  let a := max 64 align
  let cores := x.beds.flatMap fun p => bedCores p.1 p.2
  let fits (o : Nat) : Bool :=
    decide (0x10000 ≤ o) && decide (o % a = 0) && !(x.scratch.any fun r => meets o size r.1 r.2.length) &&
    cores.all fun g => scratchFits (s.core g) o size
  let up (n : Nat) : Nat := (n + a - 1) / a * a
  let (i, s1) := freeBelow s (0x100000 / a)
  let l := (i * a) :: up 0x10000 :: (x.scratch.map fun r => up (r.1 + r.2.length)) ++
    cores.map fun g => up ((s.core g).savebase + (s.core g).savesize).toNat
  ((l.find? fun o => fits o && scratchFits Core.fresh o size).or (l.find? fits), s1)

/-- Why a load stops, or the sections' addresses so far. -/
inductive Loading where
  | ok (s : State) (addrs : List Nat)
  | fail (status : Nat)

/-- Place the sections of an image in order (R54). The status of an image whose placed section names no vault of the basin's
device is not stated; the model refuses it (DESIGN CHOICE, log entry 71). -/
def placeSections (s : State) (b : Nat) (addrs : List Nat) : List (Nat × Nat × Nat × Nat) → Loading
  | [] => .ok s addrs
  | (kind, vault, align, size) :: l =>
    if kind = 2 then
      match scratchPlace s b align size with
      | (none, _) => .fail stREFUSED
      | (some o, s1) =>
        let x := s1.basin b
        placeSections (s1.setBasin b { x with scratch := x.scratch ++ [(o, List.replicate size 0)] }) b
          (addrs ++ [0x00F0000000000000 + o]) l
    else
      let n := (size + 65535) / 65536
      let (va, s1) := pickVa s b n
      let v := if kind = 3 then physVault s b vault else none
      if kind = 3 ∧ v = none then .fail stREFUSED
      else
        match mapFresh s1 b (sectionFlags kind) v n va with
        | none => .fail stNOSPACE
        | some s2 => placeSections s2 b (addrs ++ [va]) l

/-- Write bytes at a basin's virtual address, page by page, whatever its permissions. -/
def putImage (s : State) (b : Nat) : Nat → Nat → List Byte → State
  | 0, _, _ => s
  | n + 1, va, bs =>
    let len := 65536 - va % 65536
    let s1 := match walkFrom s b va 3 (s.basin b).ptroot.toNat with
      | .leaf x _ _ _ => storeVia s ((x.place va).via b) (x.place va).pa (bs.take len)
      | .fault => s
    if bs.length ≤ len then s1 else putImage s1 b n (va + len) (bs.drop len)

/-- Write the sections of an image where they lie. -/
def fillSections (s : State) (b : Nat) (img : List Byte) (addrs : List Nat) : Nat → List (Nat × Nat × Nat × Nat) → State
  | _, [] => s
  | i, (kind, _, _, size) :: l =>
    let bs := (Config.imageBytes img addrs i).take size
    let va := addrs.getD i 0
    let s1 := if kind = 2 then
        (let o := va - 0x00F0000000000000
         let x := s.basin b
         let s' := s.setBasin b { x with scratch := x.scratch.map fun r => if r.1 = o then (o, bs) else r }
         (x.beds.flatMap fun p => bedCores p.1 p.2).foldl (fun s g => writeSpad s g o bs) s')
      else putImage s b (bs.length / 65536 + 2) va bs
    fillSections s1 b img addrs (i + 1) l

/-- Load an image for a basin: the sections' addresses, and the digest folded into the running one (R400). -/
def loadImage (s : State) (b : Nat) (img : List Byte) : Loading :=
  let l := Config.imageSections img
  match placeSections s b [] l with
  | .fail st => .fail st
  | .ok s1 addrs =>
    let s2 := fillSections s1 b img addrs 0 l
    let x := s2.basin b
    .ok (s2.setBasin b { x with objects := Config.digest (x.objects ++ Config.digest img) }) addrs

/-! ### OPEN, CLOSE, RESET -/

/-- A permutation of a list, by free choices (log entry 6). -/
def shuffle (s : State) : Nat → List Nat → List Nat × State
  | 0, _ => ([], s)
  | n + 1, l =>
    let (i, s1) := freeBelow s l.length
    let x := l.getD i 0
    let (r, s2) := shuffle s1 n (l.erase x)
    (x :: r, s2)

/-- The unassigned beds of a tower. -/
def spareBeds (s : State) (t : Nat) : List Nat :=
  if towerPresent s t then (List.range 16).filter fun b => (bedOwner s t b).getLsbD 6 && !moving s t b else []

/-- The towers, of which entry v is virtual tower v's, have the beds that are asked for. -/
def bedsFit (s : State) (want : List Nat) (map : List Nat) : Bool :=
  (want.zip map).all fun p => decide (p.1 ≤ (spareBeds s p.2).length)

/-- The mapping in which the larger requests meet the towers with more spare beds. -/
def sortedMap (s : State) (want : List Nat) : List Nat :=
  let ts := (presentTowers s).mergeSort fun a b => decide ((spareBeds s b).length ≤ (spareBeds s a).length)
  let vs := (List.range want.length).mergeSort fun a b => decide (want.getD b 0 ≤ want.getD a 0)
  (List.range want.length).map fun v => ts.getD (vs.findIdx fun x => decide (x = v)) 0

/-- The virtual tower map that OPEN fixes (R385): the identity for IDENT, else a bijection of the atelier's choice that the
beds fit; none when none fits. -/
def openMap (s : State) (ident : Bool) (want : List Nat) : Option (List Nat) × State :=
  let (p, s1) := shuffle s want.length (presentTowers s)
  let l := if ident then [presentTowers s] else [p, sortedMap s want]
  (l.find? (bedsFit s want), s1)

/-- A tower map in the format of VTMAP (R393). -/
def vtmapOf (map : List Nat) : Nat := ((List.range 8).map fun v => map.getD v 15 * 16 ^ v).sum

/-- The lowest-numbered basin that is not open. -/
def freeBasin (s : State) : Option Nat := (List.range 64).find? fun b => !(s.basin b).isOpen

/-- A power of two in a range. -/
def powerIn (n lo hi : Nat) : Bool := decide (lo ≤ n) && decide (n ≤ hi) && (List.range 32).any fun i => decide (n = 2 ^ i)

/-- The least exponent whose power holds n. -/
def bitsFor (n : Nat) : Nat := ((List.range 64).find? fun i => decide (n ≤ 2 ^ i)).getD 63

/-- Give each bed of a basin its spill region of 8 MiB (R384). -/
def giveSpills (s : State) (b : Nat) : Nat → Option State
  | 0 => some s
  | n + 1 =>
    match giveRange s b 23 none none with
    | (some _, s1) => giveSpills s1 b n
    | (none, _) => none

/-- The DRAM of a basin that is opened: its level-3 table, its fault queue, and a spill region for each bed. -/
def openDram (s : State) (b entries beds : Nat) : Option (Nat × Nat × State) :=
  match giveRange s b 13 none none with
  | (none, _) => none
  | (some root, s1) =>
    match giveRange (clearDram s1 root 8192) b (bitsFor (64 + 64 * entries)) none none with
    | (none, _) => none
    | (some fq, s2) =>
      let s3 := perform64 (clearDram s2 fq 128) (fq + 16) (BitVec.ofNat 64 entries)
      (giveSpills s3 b beds).map fun s4 => (root, fq, s4)

/-- Clean and start every bed in order. -/
def grantAll (s : State) (owner : Word) : List (Nat × Nat) → State
  | [] => s
  | (t, bed) :: l => grantAll (grantBed s t bed owner) owner l

/-- Beds of a basin are entered in its list, so that the program's scratch images may be placed. -/
def enterBeds (s : State) (b : Nat) (l : List (Nat × Nat)) : State := s.setBasin b { s.basin b with beds := l }

/-- OPEN (R374): opens a basin with beds, way mask, fault queue and virtual tower map. -/
def openEff (s : State) (q : Req) : Res :=
  let a0 := (argOf q 0).toNat
  let n := towersPresent s
  let want := (List.range n).map fun v => a0 / 2 ^ (5 * v) % 32
  let entries := (argOf q 2).toNat
  if 2 ^ 40 ≤ a0 ∨ ((List.range 8).any fun v => decide (16 < a0 / 2 ^ (5 * v) % 32)) = true ∨ a0 / 2 ^ (5 * n) ≠ 0 ∨
      powerIn entries 4 65536 = false ∨ 2 ^ 17 ≤ (argOf q 1).toNat then .fail stBADARG
  else
    match freeBasin s, openMap s ((argOf q 1).getLsbD 16) want with
    | some b, (some map, s1) =>
      let beds := (want.zip map).flatMap fun p => ((spareBeds s p.2).take p.1).map fun bed => (p.2, bed)
      match openDram s1 b entries beds.length with
      | none => .fail stNOSPACE
      | some (root, fq, s2) =>
        let vt := BitVec.ofNat 64 (vtmapOf map)
        let x : Basin := { Basin.fresh with
          fqhdr := BitVec.ofNat 64 fq, ptroot := BitVec.ofNat 64 root, waymask := (argOf q 1) &&& 0xFFFF, vtmap := vt, isOpen := true }
        let s3 := grantAll (s2.setBasin b x) (BitVec.ofNat 64 b) beds
        match loadImage s3 b q.body with
        | .fail st => .fail st
        | .ok s4 addrs =>
          let s5 := s4.setBasin b { s4.basin b with entry := Config.imageAddress q.body addrs (argOf q 3) }
          let cores := beds.flatMap fun p => bedCores p.1 p.2
          .ok (overCores s5 (fun s g => startRuntime s g (BitVec.ofNat 64 b)) cores) [BitVec.ofNat 64 b, vt] []
    | _, _ => .fail stNOSPACE

/-- OPEN (R374, R385). -/
def execOpenReq (q : Req) (s : State) : Host.Outcome State Fault Refusal := forPart s q 1 fun _ => openEff s q

/-- CLOSE (R374, R389): a function-level reset, then every bed unassigned and every resource freed. -/
def execCloseReq (q : Req) (s : State) : Host.Outcome State Fault Refusal :=
  forBasin s q 2 true fun b => .ok (resetBasin s b true) [] []

/-- RESET (R374, R389): a function-level reset, then the runtime restarted. -/
def execResetReq (q : Req) (s : State) : Host.Outcome State Fault Refusal :=
  forBasin s q 3 false fun b => .ok (resetBasin s b false) [] []

/-! ### Windows, pages and objects -/

/-- Every page of a range is mapped in DRAM with the rights asked (R374 REGISTER). -/
def pagesHave (s : State) (b : Nat) (read write : Bool) : Nat → Nat → Bool
  | 0, _ => true
  | n + 1, va =>
    (match walkFrom s b va 3 (s.basin b).ptroot.toNat with
     | .leaf x _ _ _ => (!read || x.read) && (!write || x.write)
     | .fault => false) && pagesHave s b read write n (va + 65536)

/-- A 32-bit memory key that no window has (R372). -/
def newKey (s : State) : Nat :=
  (((List.range (s.windows.length + 1)).map fun i => (s.serial + i) % 2 ^ 32).find? fun k =>
    !(s.windows.any fun w => decide (w.key = k))).getD 0

/-- REGISTER (R372, R374): creates a window, and returns its memory key. -/
def execRegisterReq (q : Req) (s : State) : Host.Outcome State Fault Refusal :=
  forBasin s q 4 false fun b =>
    let va := (argOf q 0).toNat
    let len := (argOf q 1).toNat
    let r := (argOf q 2).getLsbD 0
    let w := (argOf q 2).getLsbD 1
    let pages := if len = 0 then 0 else (va % 65536 + len + 65535) / 65536
    if 4 ≤ (argOf q 2).toNat ∨ 0x00F0000000000000 < va + len ∨ pagesHave s b r w pages (va / 65536 * 65536) = false then .fail stBADARG
    else
      let key := newKey s
      .ok { s.bump with windows := s.windows ++ [⟨key, b, va, len, r, w⟩] } [BitVec.ofNat 64 key] []

/-- The window of a basin with a key. -/
def ownWindow (s : State) (b : Nat) (key : Word) : Option Window :=
  s.windows.find? fun w => decide (w.key = key.toNat) && decide (w.basin = b)

/-- DEREGISTER (R374): the key is refused from then on. -/
def execDeregisterReq (q : Req) (s : State) : Host.Outcome State Fault Refusal :=
  forBasin s q 5 false fun b =>
    match ownWindow s b (argOf q 0) with
    | none => .fail stBADARG
    | some w => .ok { s with windows := s.windows.filter fun x => decide (x.key ≠ w.key) } [] []

/-- Unmap n pages of a basin from a virtual address up, and free what the atelier gave for them. -/
def unmapPages (s : State) (b : Nat) : Nat → Nat → State
  | 0, _ => s
  | n + 1, va =>
    let s1 := match walkFrom s b va 3 (s.basin b).ptroot.toNat with
      | .leaf _ ea _ _ => perform64 s ea 0
      | .fault => s
    unmapPages { s1 with allocs := s1.allocs.filter fun a => !(decide (a.basin = b) && decide (a.va = some va)) } b n (va + 65536)

/-- Map n pages of a basin from a virtual address up (R374 MAP): a page that is mapped already keeps its DRAM when neither its
old nor its new placement names a vault, and any other page is allocated anew. -/
def mapPages (s : State) (b flags : Nat) (vault : Option Nat) : Nat → Nat → Option State
  | 0, _ => some s
  | n + 1, va =>
    let kept := match walkFrom s b va 3 (s.basin b).ptroot.toNat with
      | .leaf x _ _ _ => if x.bits = 16 ∧ x.vault = false ∧ vault = none then some x.pbase else none
      | .fault => none
    let one := match kept with
      | some pa => mapPage s b va pa flags
      | none => mapFresh (unmapPages s b 1 va) b flags vault 1 va
    match one with
    | some s1 => mapPages s1 b flags vault n (va + 65536)
    | none => none

/-- MAP (R374): the pages that hold the range are allocated and written into the basin's page table, or unmapped; TLBINV is
made before the reply. -/
def execMapReq (q : Req) (s : State) : Host.Outcome State Fault Refusal :=
  forBasin s q 8 false fun b =>
    let va := (argOf q 0).toNat
    let len := (argOf q 1).toNat
    let flags := (argOf q 2).toNat
    let n := if len = 0 then 0 else (va % 65536 + len + 65535) / 65536
    let base := va / 65536 * 65536
    let placed := (argOf q 2).getLsbD 6
    let vault := if placed then physVault s b (argOf q 3).toNat else none
    if 0x00F0000000000000 < va + len ∨ flags % 4 ≠ 0 ∨ 512 ≤ flags then .fail stBADARG
    else if flags = 0 then .ok (dropXlats (unmapPages s b n base) 1 b 0) [] []
    else if placed = true ∧ vault = none then .fail stBADARG
    else
      match mapPages s b flags vault n base with
      | none => .fail stNOSPACE
      | some s1 => .ok (dropXlats s1 1 b 0) [] []

/-- The bytes of a range of a basin as tower t reaches them, if every page is readable, and the state after. -/
def readRange (s : State) (t b va n : Nat) : Option (List Byte × State) :=
  match unitPlaces s t b .load va (unitsFrom n va n) with
  | some (l, s1) => some (l.flatMap fun p => readBytes s1.mem p.1.pa p.2, passUnits s1 t b l)
  | none => none

/-- LOAD (R374, R54): loads an object image from a window, by way of the tower of the request's port (R345), and returns its global
symbols. -/
def execLoadReq (q : Req) (s : State) : Host.Outcome State Fault Refusal :=
  forBasin s q 9 false fun b =>
    match ownWindow s b (argOf q 0) with
    | none => .fail stBADARG
    | some w =>
      let off := (argOf q 1).toNat
      if w.len ≤ off then .fail stBADARG
      else
        match readRange s (portTower s q.port) b (w.va + off) (w.len - off) with
        | none => .fail stBADARG
        | some (img, s0) =>
          match loadImage s0 b img with
          | .fail st => .fail st
          | .ok s1 addrs => .ok s1 [] (Config.imageSymbols img addrs)

/-! ### Queues and launches -/

/-- The pages of a queue's header and ring. -/
def queuePages (slots : Nat) : Nat := (64 + 64 * slots + 65535) / 65536

/-- A new queue of a basin on a tower (R376, R379): vault-placed pages, with the header at their start; none without
memory or a number. -/
def newQueue (s : State) (b t slots pri : Nat) : Option (Nat × State) :=
  let n := queuePages slots
  let (va, s1) := pickVa s b n
  let (w, s2) := freeBelow s1 64
  match freeQueue s, mapFresh s2 b 0x6C (some (t * 64 + w)) n va with
  | some q, some s3 =>
    let u : UQueue := ⟨b, BitVec.ofNat 64 va, BitVec.ofNat 64 (va + 64), slots, pri, 0, t, none, 0, 0, 0, 0,
      tailPlace s3 t b (BitVec.ofNat 64 va), s.clock, s.clock, 0⟩
    let s4 := writeFor (dropXlats s3 1 b 0) t b u.hdr 0
    let s5 := writeFor s4 t b (u.hdr + 56) 0
    some (q, storeMirrors { s5 with queues := fset s5.queues q u } u 8 (u.mirrors.map fun v => ~~~v) u.mirrors)
  | _, _ => none

/-- The towers that hold beds of a basin, or the first. -/
def bedTower (s : State) (b : Nat) : Nat := ((basinTowers s b).head?).getD 0

/-- MAPQ (R374, R379, R383): maps a new queue, or restarts one; its BASEPRI is its easel's too (R394). -/
def mapqEff (s : State) (q : Req) (b : Nat) : Res :=
  let slots := (argOf q 1).toNat
  let pri := (argOf q 2).toNat
  let num := (argOf q 0).toNat
  let done (s : State) (n : Nat) : Res :=
    match s.queue n with
    | some u => .ok s [BitVec.ofNat 64 n, u.hdr] []
    | none => .fail stNOSPACE
  if powerIn slots 4 65536 = false ∨ 7 < pri then .fail stBADARG
  else if num = 0xFFFFFFFF then
    let e := mapqEasel s b
    let t := match e with
      | some e => easelTower s e
      | none => bedTower s b
    match newQueue s b t slots pri with
    | none => .fail stNOSPACE
    | some (n, s1) =>
      match e with
      | some e => done (bindQueue s1 n e) n
      | none => done s1 n
  else
    match s.queue num with
    | none => .fail stBADARG
    | some u =>
      if u.basin ≠ b then .fail stBADARG
      else
        let t := tailOf s u
        let u1 := if u.st = 2 then { u with head := t, tail := t, st := if u.easel.isSome then 1 else 0 } else u
        let s0 := (readFor s (u.via s) b u.hdr).2
        let s1 := (match u.easel with
          | some e => s0.setEasel e { s0.easel e with pri := pri }
          | none => s0).setQueue num { u1 with pri := pri }
        if u1.easel.isSome then done s1 num
        else
          match freeEasel s fun e => decide (easelTower s e = u.tower) with
          | some e => done (bindQueue s1 num e) num
          | none => done s1 num

/-- MAPQ (R374). -/
def execMapqReq (q : Req) (s : State) : Host.Outcome State Fault Refusal := forBasin s q 6 false fun b => mapqEff s q b

/-- FREEQ (R374): the queue is unmapped and freed. -/
def execFreeqReq (q : Req) (s : State) : Host.Outcome State Fault Refusal :=
  forBasin s q 7 false fun b =>
    let n := (argOf q 0).toNat
    match s.queue n with
    | none => .fail stBADARG
    | some u =>
      if u.basin ≠ b then .fail stBADARG
      else
        let s1 := unbindQueue s n
        let s2 := { s1 with queues := fdel s1.queues n }
        .ok (dropXlats (unmapPages s2 b (queuePages u.slots) u.hdr.toNat) 1 b 0) [] []

/-- LAUNCH (R374, R345): places one launch record as an easel would, from the tower that the request's port is attached to. -/
def execLaunchReq (q : Req) (s : State) : Host.Outcome State Fault Refusal :=
  forBasin s q 10 false fun b =>
    if q.body.length ≠ 64 then .fail stBADARG
    else
      let (st, s1) := placeFor s b (portTower s q.port) (wordsOf 8 q.body)
      .ok s1 [BitVec.ofNat 64 st] []

/-! ### Guarded mode, attestation, peers, targets, updates -/

/-- The physical towers of a virtual mask. -/
def maskedTowers (s : State) (b m : Nat) : List Nat :=
  (List.range 8).filterMap fun v => if m / 2 ^ v % 2 = 1 then physTower s b v else none

/-- GUARD (R374, R362): sets guarded mode on the basin's towers. -/
def execGuardReq (q : Req) (s : State) : Host.Outcome State Fault Refusal :=
  forBasin s q 11 false fun b =>
    let n := (argOf q 1).toNat
    if !s.caps.getLsbD 10 then .fail stABSENT
    else if n < 100 ∨ 100000 < n then .fail stBADARG
    else .ok ((maskedTowers s b (argOf q 0).toNat).foldl (fun s t => setGuarded s t true n) s) [] []

/-- CHECKPOINT (R374, R360): a checkpoint of each guarded tower of the basin. -/
def execCheckpointReq (q : Req) (s : State) : Host.Outcome State Fault Refusal :=
  forBasin s q 12 false fun b =>
    if !s.caps.getLsbD 10 then .fail stABSENT else .ok ((basinTowers s b).foldl askCut s) [] []

/-- The signed part of the report of ATTEST (R400). -/
def reportBytes (s : State) (b : Nat) (key nonce : List Byte) : List Byte :=
  leBytes 8 (b * 2 ^ 16 + 1) ++ nonce ++ leBytes 8 s.caps.toNat ++ leBytes 8 s.ids.toNat ++
  Config.digest s.flash.record ++ Config.digest s.image ++ (s.basin b).objects ++ key ++
  leBytes 8 (Config.imageVersion s.image) ++ List.replicate 96 0

/-- ATTEST (R400, R399): returns an attestation report signed with the identity key that the boot derived. -/
def execAttestReq (q : Req) (s : State) : Host.Outcome State Fault Refusal :=
  forBasin s q 13 false fun b =>
    if q.body.length ≠ 32 then .fail stBADARG
    else
      match s.identity with
      | none => .fail stREFUSED
      | some key => .ok s [] (reportBytes s b key q.body ++ Config.identitySign key (reportBytes s b key q.body))

/-- PEER (R374, R202): binds a peer device for cross-device ends of the basin. -/
def execPeerReq (q : Req) (s : State) : Host.Outcome State Fault Refusal :=
  forBasin s q 14 false fun b =>
    if !s.caps.getLsbD 11 then .fail stABSENT else .ok (bindEnds { s with peers := s.peers ++ [(b, argOf q 0, argOf q 1)] } b (argOf q 0).toNat s.chans) [] []

/-- TARGET (R374, R380, R387): sets the basin's target, its bounds of beds and its age quantum. -/
def execTargetReq (q : Req) (s : State) : Host.Outcome State Fault Refusal :=
  forBasin s q 15 false fun b =>
    let a := (argOf q 1).toNat
    let n := (argOf q 2).toNat
    if 16 < a % 32 ∨ 16 < a / 32 % 32 ∨ 2 ^ 10 ≤ a ∨ n < 1 ∨ 1000 < n then .fail stBADARG
    else
      let x := s.basin b
      .ok (s.setBasin b { x with target := (argOf q 0).toNat, minBeds := a % 32, maxBeds := a / 32 % 32, quantum := argOf q 2 }) [] []

/-- The body of an UPDATE is a configuration record. -/
def isRecord (l : List Byte) : Bool := decide (dwordAt l 0 / 2 ^ 32 = 0x5A434647)

/-- A record may replace the one in flash (R401). -/
def recordFollows (old new : List Byte) : Bool :=
  recordOk new && decide (recSerial new = recSerial old) && decide (recVariant new = recVariant old) &&
  decide (recStep new = recStep old) && decide (recTwr new = recTwr old) && decide (recVersion old < recVersion new)

/-- UPDATE (R401): an image goes into the slot not in use, and a record replaces the present one. -/
def execUpdateReq (q : Req) (s : State) : Host.Outcome State Fault Refusal :=
  forPart s q 16 fun _ =>
    let f := s.flash
    if isRecord q.body then
      if recordFollows f.record q.body then .ok { s with flash := { f with record := q.body } } [] [] else .fail stREFUSED
    else if imageOk (recMinver f.record) q.body then
      .ok { s with flash := if s.running = some 1 then { f with image0 := q.body } else { f with image1 := q.body } } [] []
    else .fail stREFUSED

end Sys2Proof.Machine
end

