-- ==== Sys2Proof/Machine/Ecc.lean ====
section
/-! DEFINITION. Uncorrectable and corrected errors of SRAM, L2 and DRAM (R146 of spec/09_memory_hierarchy.md), and the traps
that an engine's error defers to a thread's next boundary (R231, R268, R310). Errors come from outside: a move of the agenda says
where one is found, and who finds it (log entry 24). -/

namespace Sys2Proof.Machine

/-- ENGINE_DEFERRED_TRAP (R231, R268, R310): the oldest deferred trap of a context is taken at its next instruction boundary. -/
def execEngineDeferredTrap (core ctx : Nat) (s : State) : Host.Outcome State Fault Refusal :=
  let c := s.ctx core ctx
  match c.deferred with
  | [] => event s
  | d :: r =>
    if alive s core ctx = true ∧ atBoundary c = true then
      let s1 := leavePark s core ctx
      event (takeTrap (s1.setCtx core ctx { s1.ctx core ctx with deferred := r }) core ctx d.cause d.tval
        (if d.epc = 0 then c.pc else d.epc))
    else event s

/-! ### What becomes of the data -/

/-- Post a DATALOST record (R146, R308) with an address to a basin's queue. Its CAUSE and SOURCE are not stated (log entry 6). -/
def postLostAt (s : State) (basin addr : Nat) : State :=
  let v := (Config.freeWord s.freeCtr).toNat
  post { s with freeCtr := s.freeCtr + 1 } ⟨faultQueueOf s basin, 4, someCause v, 0, v / 256 % 2 ^ 16, 0, BitVec.ofNat 64 addr, 0, [], none⟩

/-- An error in a scratchpad word: the word becomes 0, full, tag 0; a taker that waited for it takes the 0 (R168). -/
def loseWord (s : State) (g off : Nat) : State :=
  let w := off / 8 * 8
  let s1 := writeSpad s g w (List.replicate 8 0)
  let s2 := match (if fullAt s1 g w then none else handOff s1 g w 0 false g none) with
    | some s' => s'
    | none => setFull s1 g w true
  postLostAt s2 ((coreBasin s g).getD 64) (windowOf g + w)

/-- No L1 holds the line: every later access sees what replaces it. -/
def dropCopies (s : State) (l : Nat) : State :=
  { s with cores := s.cores.map fun p => (p.1, { p.2 with l1 := fdel p.2.l1 l }) }

/-- An error in a line: a dirty L2 line is replaced by memory's copy, a line that only DRAM holds is written as zeros with its
zero mark set, and replicas of it become zero lines; a clean L2 line that its slice owns is refilled, and nothing is seen. -/
def loseLine (s : State) (l : Nat) : Option State :=
  let x := s.line l
  if x.ownerSlice.isSome then
    if (flook s.stale l).isSome then some (postLost (dropCopies (revertLine s l) l) l) else none
  else if x.ctl.own then
    let s1 := dropCopies (takeImage s (l / 512)) l
    let zeros := x.slices.map fun p => (p.1, if p.2.form = .data then { p.2 with form := .zero } else p.2)
    some (postLost { s1.setLine l { x with ctl := { x.ctl with zero := true }, slices := zeros } with
      mem := clearRange s1.mem (128 * l) 128, stale := fdel s1.stale l } l)
  else none

/-- What an uncorrectable error at a physical address does to the data there; none where nothing is seen of it. -/
def loseAt (s : State) (pa : Nat) : Option State :=
  match placeOf s pa with
  | .spad g off => some (loseWord s g off)
  | .dram => loseLine s (lineOf pa)
  | _ => none

/-! ### The access that finds it -/

/-- The access of the executing thread touches the word or line of an error. -/
def inAccess (s : State) (pa : Nat) (va : Word) (size : Nat) (acc : Access) : Bool :=
  match translate s s.who va acc size with
  | .ok w =>
    match placeOf s pa with
    | .spad _ _ => decide (w.pa < pa / 8 * 8 + 8) && decide (pa / 8 * 8 < w.pa + size)
    | _ => decide (w.pa / 128 ≤ pa / 128) && decide (pa / 128 ≤ (w.pa + size - 1) / 128)
  | _ => false

/-- The address, the size and the cause of the access by which an instruction reads memory. -/
def reads (s : State) : Instr → Option (Word × Nat × Nat × Access)
  | .lb o => some (addrM (s.g o.a) o.i 1, 1, causeLOADF, .load)
  | .lbu o => some (addrM (s.g o.a) o.i 1, 1, causeLOADF, .load)
  | .lh o => some (addrM (s.g o.a) o.i 2, 2, causeLOADF, .load)
  | .lhu o => some (addrM (s.g o.a) o.i 2, 2, causeLOADF, .load)
  | .lw o => some (addrM (s.g o.a) o.i 4, 4, causeLOADF, .load)
  | .lwu o => some (addrM (s.g o.a) o.i 4, 4, causeLOADF, .load)
  | .ld o => some (addrM (s.g o.a) o.i 8, 8, causeLOADF, .load)
  | .lq o => some (addrM (s.g o.a) o.i 16, 16, causeLOADF, .load)
  | .jt o => if o.c.toNat ≤ (s.g o.a).toNat then none else some (s.g o.b + BitVec.ofNat 64 (4 * (s.g o.a).toNat), 4, causeLOADF, .load)
  | .amowSwap o => some (s.g o.a, 4, causeSTOREF, .atomic)
  | .amowAdd o => some (s.g o.a, 4, causeSTOREF, .atomic)
  | .amowAnd o => some (s.g o.a, 4, causeSTOREF, .atomic)
  | .amowOr o => some (s.g o.a, 4, causeSTOREF, .atomic)
  | .amowXor o => some (s.g o.a, 4, causeSTOREF, .atomic)
  | .amowMin o => some (s.g o.a, 4, causeSTOREF, .atomic)
  | .amowMax o => some (s.g o.a, 4, causeSTOREF, .atomic)
  | .amowMinu o => some (s.g o.a, 4, causeSTOREF, .atomic)
  | .amowMaxu o => some (s.g o.a, 4, causeSTOREF, .atomic)
  | .amowCas o => some (s.g o.a, 4, causeSTOREF, .atomic)
  | .amowAddbnd o => some (s.g o.a, 4, causeSTOREF, .atomic)
  | .amowFadd o => some (s.g o.a, 4, causeSTOREF, .atomic)
  | .amodSwap o => some (s.g o.a, 8, causeSTOREF, .atomic)
  | .amodAdd o => some (s.g o.a, 8, causeSTOREF, .atomic)
  | .amodAnd o => some (s.g o.a, 8, causeSTOREF, .atomic)
  | .amodOr o => some (s.g o.a, 8, causeSTOREF, .atomic)
  | .amodXor o => some (s.g o.a, 8, causeSTOREF, .atomic)
  | .amodMin o => some (s.g o.a, 8, causeSTOREF, .atomic)
  | .amodMax o => some (s.g o.a, 8, causeSTOREF, .atomic)
  | .amodMinu o => some (s.g o.a, 8, causeSTOREF, .atomic)
  | .amodMaxu o => some (s.g o.a, 8, causeSTOREF, .atomic)
  | .amodCas o => some (s.g o.a, 8, causeSTOREF, .atomic)
  | .amodAddbnd o => some (s.g o.a, 8, causeSTOREF, .atomic)
  | .feget o => some (s.g o.a, 8, causeSTOREF, .atomic)
  | .join o => some (s.g o.a, 64, causeSTOREF, .atomic)
  | .leave _ => s.me.group.map fun m => (m.va, 64, causeSTOREF, .atomic)
  | .retf o => if (s.g o.a).getLsbD 0 then some (s.g 3, 8, causeSTOREF, .atomic) else none
  | .take o => some (s.g o.a, 8, causeSTOREF, .atomic)
  | .trytake o => some (s.g o.a, 8, causeSTOREF, .atomic)
  | .waita o => some (s.g o.a, 8, causeLOADF, .load)
  | .waitna o => some (s.g o.a, 8, causeLOADF, .load)
  | .fwait o => some (s.g o.a, 8, causeLOADF, .load)
  | .enq o => some (s.g o.a, 64, causeLOADF, .load)
  | .glaze o => some (s.g o.a, 128, causeLOADF, .load)
  | .start o => some (s.g o.b, 64, causeLOADF, .load)
  | .tload o => some (s.g o.b, 4096, causeLOADF, .load)
  | _ => none

/-- The word at the executing thread's PC. -/
def nextWord (s : State) : Option (BitVec 32) :=
  let seek : Option (BitVec 32) := match translate s s.who s.me.pc .fetch 4 with
    | .ok w => some (fetchWord s s.cur.1 s.cur.2 true w.pa)
    | _ => none
  match s.me.fetched with
  | some (pc, w) => if pc = s.me.pc then some w else seek
  | none => seek

/-- The addresses of the entries that a walk of a virtual address of basin b reads below a table (R141). -/
def walkEntries (s : State) (b va : Nat) : Nat → Nat → List Nat
  | level, table =>
    let ea := table + (va / 2 ^ levelBits level % 1024) * 8
    let e := (read64 s.mem ea).toNat
    if pteBit e 0 = false ∨ pteReserved e = true ∨ pteBasin e ≠ b ∨ pteBit e 1 = true then [ea]
    else
      match level with
      | 0 => [ea]
      | l + 1 => ea :: walkEntries s b va l (pteAddr e)

/-- The walk that the executing thread waits for reads the line of an error. -/
def inWalk (s : State) (pa va : Nat) : Bool :=
  match coreBasin s s.cur.1 with
  | some b => (walkEntries s b va 3 s.myCore.ptbase.toNat).any fun ea => decide (lineOf ea = lineOf pa)
  | none => false

/-- The cause and TVAL when the executing thread's access finds an error at an address: the fetch or the walk it waits in, or the
read of the instruction that it has begun or is about to issue. -/
def finds (s : State) (pa : Nat) : Option (Nat × Word) :=
  let read : Option (Nat × Word) := (nextWord s).bind fun w =>
    match decode w with
    | .ok i => (reads s i).bind fun (va, size, cause, acc) => if inAccess s pa va size acc then some (cause, va) else none
    | .ill _ => none
  match s.me.park with
  | some .fetch => if inAccess s pa s.me.pc 4 .fetch then some (causeFETCH, s.me.pc) else none
  | some (.walk va _ cause) => if inWalk s pa va.toNat then some (cause, va) else none
  | some (.load _) => read
  | some (.remote _) => read
  | none => if s.me.deferred = [] ∧ s.me.yieldHold = false then read else none
  | _ => none

/-- The bytes of a tile that lies at an offset, with 0 for those of a word (R268). -/
def zeroWord (off w : Nat) (bs : List Byte) : List Byte :=
  bs.zipIdx.map fun p => if w ≤ off + p.2 ∧ off + p.2 < w + 8 then 0 else p.1

/-- The K-steps that are loaded and not yet complete use 0 for a word that they read (R268), and whether one reads it. -/
def loseLoads (c : Core) (w : Nat) (before : List (TileSet × List Byte × List Byte)) :
    List (TileSet × List Byte × List Byte) → Bool × List (TileSet × List Byte × List Byte)
  | [] => (false, [])
  | (x, a, b) :: l =>
    let o := tileOffs c before x
    let a' := zeroWord o.1 w a
    let b' := zeroWord o.2 w b
    let hit (off : Nat) (bs : List Byte) : Bool := decide (off < w + 8) && decide (w < off + bs.length)
    let r := loseLoads c w (before ++ [(x, a, b)]) l
    (hit o.1 a || hit o.2 b || r.1, (x, a', b') :: r.2)

/-- The thread whose engine read the word takes ENGINE at its next boundary, with the word's offset (R231, R268). -/
def deferEngine (s : State) (g k off : Nat) : State :=
  s.setCtx g k { s.ctx g k with deferred := (s.ctx g k).deferred ++ [⟨causeENGINE, BitVec.ofNat 64 (off / 8 * 8), 0⟩] }

/-- An uncorrectable error is found at a physical address (R146, R231, R268). -/
def upset (s : State) (pa : Nat) (by_ : Finder) : State :=
  match by_, loseAt s pa with
  | .l1 g, _ => s.setCore g { s.core g with l1 := fdel (s.core g).l1 (lineOf pa) }
  | _, none => s
  | .nobody, some s1 => s1
  | .thread g k, some s1 =>
    if alive s g k then
      match finds (s.at (g, k)) pa with
      | some (cause, va) => asCtx (leavePark s1 g k) g k fun s => effState s (.trap cause va)
      | none => s
    else s
  | .vector g k, some s1 =>
    match placeOf s pa with
    | .spad h off => if h = g ∧ vectorBusy s g k = true then deferEngine s1 g k off else s
    | _ => s
  | .tile g, some s1 =>
    match placeOf s pa, (s.core g).tile.binder with
    | .spad h off, some k =>
      let t := (s1.core g).tile
      let p := loseLoads (s1.core g) (off / 8 * 8) [] t.loads
      if h = g ∧ p.1 = true then deferEngine (s1.setTile g { t with loads := p.2 }) g k off else s
    | _, _ => s

/-- A correctable error is corrected, and ECCCNT counts it, saturating (R146, R392): [63:32] in DRAM, [31:0] in SRAM and L2. -/
def countCorrected (s : State) (tower : Nat) (dram : Bool) : State :=
  let x := s.guard tower
  let hi := x.ecc.toNat / 2 ^ 32
  let lo := x.ecc.toNat % 2 ^ 32
  let up (n : Nat) : Nat := min (n + 1) (2 ^ 32 - 1)
  if towerPresent s tower then
    s.setGuard tower { x with ecc := BitVec.ofNat 64 (if dram then up hi * 2 ^ 32 + lo else hi * 2 ^ 32 + up lo) }
  else s

end Sys2Proof.Machine
end

