-- ==== Sys2Proof/Machine/Wake.lean ====
section
/-! DEFINITION. The end of a park that no event of its own ends (R1, step 7 of R21). -/

namespace Sys2Proof.Machine

/-- A register of a context is full. -/
def Ctx.fullReg (c : Ctx) (q : Bool × Nat) : Bool := (c.regIn q.1 (BitVec.ofNat 6 q.2)).st == .full

/-- The full/empty word at a physical address is empty (R168). -/
def emptyWord (s : State) (pa : Nat) : Bool :=
  match placeOf s pa with
  | .spad g off => !fullAt s g off
  | _ => false

/-- What a channel says about a wait on it; a wait on a channel that is gone ends. -/
def chanSays (s : State) (id : Nat) (p : Chan → Bool) : Bool :=
  match flook s.chans id with
  | some c => p c
  | none => true

/-- The reason for the park of context k of core g no longer holds (R21 step 7, and the rule that each case cites). The
instruction may find another reason when it re-executes. A park that an event of its own ends answers no. -/
def Park.clear (s : State) (g k : Nat) : Park → Bool
  -- R21 step 7
  | .regs l => l.all (s.ctx g k).fullReg
  | .dests l => l.all (s.ctx g k).fullReg
  -- R158
  | .overlap a n => !overlaps s g (gctx g k) a n
  -- R134
  | .bankFull b => decide ((bankEntries (s.core g) b).length < 4)
  -- R148, R231
  | .vectorDrain => !vectorBusy s g k
  -- R160
  | .scopedOrder => !scopedPending s g k
  -- R161
  | .drain scope mark => visibleAt s scope g mark
  -- R152, R157, R166
  | .lineDrain l => !lineDraining s g k l
  -- R406: a tower reset has ended the escalation
  | .escalation id => !(s.escs.any fun e => decide (e.id = id))
  -- R168
  | .putFull a => emptyWord s a
  -- R66, R216
  | .fpctl => !fpctlBusy s g k
  -- R115
  | .exitDrain => !((s.ctx g k).anyPending || vectorBusy s g k)
  | .exitZero => decide ((s.ctx g k).evl ≠ 0)
  -- R118
  | .reap j => decide ((s.ctx g j).phase ≠ .run) || !(s.ctx g j).owned
  -- R206, R194
  | .credit id => chanSays s id fun c => decide (0 < c.credits) || c.rcv.closed
  -- R207
  | .recvFull id => chanSays s id fun c => decide (c.recvs.length < 8)
  -- R192
  | .relocation id => chanSays s id fun c => decide (c.sendState = 0)
  -- R255
  | .tile => decide ((s.core g).tile.binder = none) && decide ((s.core g).tile.waiters.head? = some k)
  -- R263, R273, R274
  | .tileQueue full =>
    if full then decide ((s.core g).tile.queue.length < 4) else decide ((s.core g).tile.queue = [])
  -- R264
  | .accumulator n => (s.core g).tile.isFull n
  -- R229, R237
  | .vector => decide (((s.core g).vjobs.filter fun j => decide (j.ctx = k)).length < 4)
  -- R295
  | .copyQueue => decide ((s.core g).copies.length < 16)
  -- R153
  | .tlbinv m t => allPerformed s m t
  -- R152, R353, R359
  | .lineTokens l home => (s.line l).writable (home / 256) || (decide (maskOf s g = 0) && pageSaved s (l / 512))
  | .fetch => false
  | .walk _ _ _ => false
  | .load _ => false
  | .remote _ => false
  | .atomic _ => false
  | .feOp _ => false
  | .takeDeferred _ _ => false
  | .takeRetry _ _ => false
  | .wait _ => false
  | .waita _ _ _ => false
  | .fwait _ => false
  | .barrier _ _ _ => false
  | .peek _ _ _ => false
  | .copy _ _ => false
  | .answer _ => false
  | .restore _ => false

/-- The context is parked and the reason no longer holds. -/
def mayWake (s : State) (g k : Nat) : Bool :=
  match (s.ctx g k).park with
  | some p => decide ((s.ctx g k).phase = .run) && p.clear s g k
  | none => false

/-- PARKED_REEXECUTE (R21): the thread re-executes the instruction from step 1 at its next issue. -/
def execParkedReexecute (core ctx : Nat) (s : State) : Host.Outcome State Fault Refusal :=
  if mayWake s core ctx then event (unpark s core ctx) else event s

end Sys2Proof.Machine
end

