-- ==== Sys2Proof/Machine/Auto.lean ====
section
/-! DEFINITION. The moves the part makes of itself when the outside has chosen none (log entry 3): the events that are
due are found in the state and taken in turn, so that each of them is taken sooner or later; timers go last. -/

namespace Sys2Proof.Machine

/-- The outcome of a step of the part. -/
abbrev Out := Host.Outcome State Fault Refusal

/-- The i-th element of a list, counting round. -/
def pick {α : Type} (l : List α) (i : Nat) : Option α := l[i % l.length]?

/-- The event o, where p says that it is due. -/
def due (p : Bool) (o : State → Out) (s : State) : Option Out := if p then some (o s) else none

/-- A list that begins at its i-th element. -/
def turned {α : Type} (l : List α) (i : Nat) : List α := l.drop (i % max 1 l.length) ++ l.take (i % max 1 l.length)

/-- The first event of a list of kinds that is due, beginning at kind i. -/
def firstDue (s : State) (l : List (State → Option Out)) (i : Nat) : Option Out := (turned l i).findSome? fun f => f s

/-! ### Contexts and cores -/

/-- The listed contexts as (core, context) pairs. -/
def allCtxs (s : State) : List (Nat × Nat) := s.cores.flatMap fun p => p.2.ctxs.map fun q => (p.1, q.1)

/-- A context that waits for something. -/
def Ctx.busy (c : Ctx) : Bool := c.park.isSome || decide (c.fills ≠ []) || decide (c.deferred ≠ [])

/-- The contexts that wait for something, and the holders of ends with a due arrival interrupt (R200). -/
def busyCtxs (s : State) : List (Nat × Nat) :=
  (s.cores.flatMap fun p => (p.2.ctxs.filter fun q => q.2.busy).map fun q => (p.1, q.1)) ++
  s.chans.filterMap fun p => match p.2.rcv.holder with
    | .thread g k => if p.2.rcv.sub.getLsbD 0 && !p.2.intDone && (p.2.wordAt p.2.recvCtr).isSome then some (g, k) else none
    | _ => none

/-- The line of a load is held in L1 and its scope may take it there. -/
def fromL1 (s : State) (g : Nat) (op : LoadOp) : Bool := decide (op.scope ≤ 1) && (flook (s.core g).l1 (lineOf op.addr)).isSome

/-- The event that ends the park of a context. -/
def autoPark (s : State) (g k : Nat) : Option Out :=
  match (s.ctx g k).park with
  | none => none
  | some .fetch => some (execFetchWordArrival g k s)
  | some (.walk _ _ _) => some (execPageWalk g k s)
  | some (.load op) => some (execLoadDataArrival g k (fromL1 s g op) s)
  | some (.remote _) => some (execLoadDataArrival g k false s)
  | some (.wait _) => some (execWaitWake g k s)
  | some (.waita _ _ _) => some (execWaitaReread g k s)
  | some (.fwait _) => some (execFwaitWake g k s)
  | some (.barrier _ _ _) => some (execBarrierWake g k s)
  | some (.restore _) => some (execContextRestore g k s)
  | some _ => due (mayWake s g k) (execParkedReexecute g k) s

/-- A context's events: fills, deferred traps, arrival interrupts, and the end of its park. -/
def autoCtx (s : State) (g k : Nat) : Option Out :=
  let c := s.ctx g k
  if c.fills ≠ [] then some (execLongLatencyFill g k s)
  else if c.deferred ≠ [] ∧ alive s g k = true then some (execEngineDeferredTrap g k s)
  else if (leastDue (dueEnds s g k)).isSome ∧ alive s g k = true ∧ c.icount = 0 ∧ c.ih = false ∧ atBoundary c = true then
    some (execArrivalInterruptEntry g k s)
  else autoPark s g k

/-- A context's timers. -/
def autoCtxTimer (s : State) (g k : Nat) : Option Out :=
  let c := s.ctx g k
  if c.yieldHold then some (execYieldHoldExpiry g k s)
  else if (match c.park with
      | some (.takeRetry _ _) => true
      | _ => false) then some (execTakeRetryExpiry g k s)
  else due ((chanWait s g k).isSome && !(s.probes.any fun p => decide (p.core = g) && decide (p.ctx = k)))
    (execDeadlockProbeStart g k) s

/-- The dispatcher of a core (R96); the banks and the core it samples are free choices (log entry 6). -/
def autoDispatch (s : State) (g : Nat) : Out :=
  let n := s.freeCtr
  match (s.core g).steal with
  | some q =>
    if q.answered then execStealAnswerReceive g s
    else execStealRequestReceive g (Config.freeNat n) { s with freeCtr := n + 1 }
  | none => execDispatchFill g (Config.freeNat n) (Config.freeNat (n + 1)) (Config.freeNat (n + 2)) { s with freeCtr := n + 3 }

/-- The cores that p names, by number. -/
def coresThat (s : State) (p : Core → Bool) : List Nat := (s.cores.filter fun q => p q.2).map Prod.fst

/-- The dispatcher of the core may act. -/
def dispatches (s : State) (g : Nat) : Bool := (s.core g).steal.isSome || (!(s.core g).asleep && (freeCtx s g).isSome)

/-- A core's tile engine (R262, R263). -/
def autoTile (s : State) (g i : Nat) : Out :=
  let t := (s.core g).tile
  if t.queue.head?.any fun q => decide (q.k ≤ q.done) then execTmmaRetire g s
  else if t.loads ≠ [] ∧ i % 2 = 0 then execKstepComplete g s
  else execKstepLoadStart g s

/-- A core's vector unit (R230): a step of the instruction that runs, or the start of the next one. -/
def autoVector (s : State) (g i : Nat) : Out :=
  let c := s.core g
  if (c.vjobs.any fun j => j.started) && (decide (i % 2 = 0) || !(c.vjobs.any fun j => !j.started)) then execVectorCompletion g s
  else execVectorExecutionStart g s

/-- A core's copy engine (R287, R291). -/
def autoCopy (s : State) (g i : Nat) : Out :=
  match (if i % 2 = 0 then none else pick (s.core g).copies (i / 2)) with
  | some x => execCopyCompletion g x.ticket s
  | none => execCopyRun g s

/-! ### Messages and operations in flight -/

/-- The number of a message that its receiver may apply, the first from number i on, counting round. -/
def readyMsg (s : State) (i : Nat) : Option Nat := (turned (List.range s.msgs.length) i).find? fun n => (tokReady s n).isSome

/-- A message is received. -/
def autoMsg (s : State) (i : Nat) : Option Out :=
  (readyMsg s i).bind fun n => (s.msgs[n]?).map fun m =>
    match m.body with
    | .treq _ _ => execTreqReceive n s
    | .tok _ _ _ _ _ => execTokReceive n s
    | .reply _ => execTokReceive n s
    | .dmark => execDmarkReceive n s
    | .preq _ _ => execPreqReceive n s
    | .pact _ _ => execPactReceive n s
    | .pdeact _ _ => execPdeactReceive n s
    | .pack => execPackReceive n s
    | .pdone => execPdoneReceive n s
    | .census _ => execCensusReceive n s
    | .data _ => execTokReceive n s

/-- A page whose before-image something waits for (R361). -/
def neededPage (s : State) : Option Nat :=
  let pages := (s.msgs.filter fun m => m.toCtl && m.body.alters).map (fun m => m.line / 512) ++
    (s.lines.filter fun p => decide (p.2.due ≠ []) || p.2.maker.isSome).map (fun p => p.1 / 512) ++
    s.atoms.map (fun a => a.addr / 65536) ++ (s.towers.flatMap fun p => p.2.outbound.map fun e => e.line / 512) ++
    (allCtxs s).filterMap fun q => match (s.ctx q.1 q.2).park with
      | some (.lineTokens l _) => some (l / 512)
      | _ => none
  pages.find? fun p => !pageSaved s p

/-- A channel's events (R187 to R194), in turn. -/
def autoChan (s : State) (id i : Nat) (c : Chan) : Option Out :=
  firstDue s
    [ due (c.flight ≠ []) (execChannelWordDelivery id (i / 8 % max 1 c.flight.length)),
      due ((c.recvs.head?.any fun r => (c.wordAt r.seq).isSome) || (decide (c.recvs ≠ []) && (c.rcv.closed || c.snd.closed))) (execRecvFill id),
      due (c.creditFlight ≠ []) (execCreditBatchReceive id),
      due (c.moves ≠ []) (execMoveRequest id),
      due (c.bufs.any fun b => decide (b.phase = 2)) (execForwardOrder id),
      due (c.bufs.any fun b => decide (b.phase = 3)) (execRetarget id),
      due (c.bufs.any fun b => decide (b.phase = 4)) (execRetargetAnswer id),
      due (c.bufs.head?.any fun b => decide (b.phase = 5)) (execRelocationComplete id),
      due (decide (c.sendState = 1)) (execSendStateFlush id),
      due (c.sndMoving && decide (c.sendState = 2)) (execSendStateFetchReply id) ] i

/-- A device store is performed (R391). -/
def autoRemote (s : State) (n : Nat) : Option Out :=
  match s.remotes[n]? with
  | none => none
  | some r =>
    if placeOf s r.addr = .device then
      match r.store with
      | some bs => some (execDeviceRegisterWrite r.addr r.size (leWord bs) s)
      | none => none
    else some (execRemoteWindowAccess n s)

/-! ### The order of the kinds -/

/-- The tower t is guarded and its interval, in µs of 1,000 clocks, has expired (R362). -/
def intervalOver (s : State) (t : Nat) : Bool :=
  let x := s.guard t
  x.on && x.pending.isNone && decide (x.cutAt + 1000 * x.period ≤ s.clock)

/-- The events of guarded mode and resets of a tower (R360, R362, R365). -/
def autoGuard (s : State) (t : Nat) : Option Out :=
  let x := s.guard t
  if isolated s t then some (execTowerResetTrigger t 0 s)
  else if x.resetDue then some (execTowerResetTrigger t 2 s)
  else if x.stopping && towerQuiet s t then some (execCheckpointIntervalExpiry t s)
  else due x.pending.isSome (execCheckpointStored t 0) s

/-- The group of a grid that has ended but is not retired. -/
def endedGroup (x : Grid) : Option Nat :=
  (x.groups.find? fun p => decide (p.2.st = .running) && decide (p.2.live = []) && decide (p.2.frames = [])).map Prod.fst

/-- The grids by tower and slot. -/
def allGrids (s : State) : List (Nat × Nat × Grid) := s.towers.flatMap fun p => p.2.grids.map fun q => (p.1, q.1, q.2)

/-- A grid's events (R331, R337). -/
def autoGrid (s : State) (t slot : Nat) (x : Grid) : Option Out :=
  match endedGroup x with
  | some n => some (execGroupRetirement t slot n s)
  | none => due x.over (execGridCompletionStore t slot) s

/-- An I/O die's dispatch slot has something to do (R379, R380). -/
def dieBusy (s : State) (d : Nat) : Bool :=
  (winner s d).isSome || s.queues.any fun p => decide (0 < p.2.held) && decide (p.2.easel.map (· / 512) = some d)

/-- The kinds of event that come as soon as they can, for turn i. -/
def prompt (i : Nat) : List (State → Option Out) :=
  [ fun s => (pick (busyCtxs s) i).bind fun q => autoCtx s q.1 q.2,
    fun s => (pick (coresThat s fun c => decide (c.wbuf ≠ [])) i).bind fun g =>
      (pick (s.core g).wbuf (i / 4)).map fun e => execWriteBufferDrain g (bankOf e.slice) s,
    fun s => autoMsg s i,
    fun s => (pick (coresThat s fun c => decide (c.vjobs ≠ [])) i).map fun g => autoVector s g i,
    fun s => (pick (coresThat s fun c => decide (c.tile.queue ≠ [])) i).map fun g => autoTile s g i,
    fun s => (pick (coresThat s fun c => decide (c.copies ≠ [])) i).map fun g => autoCopy s g i,
    fun s => (pick (coresThat s fun c => decide (c.prefetch ≠ [])) i).map fun g => execPrefetchProgress g s,
    fun s => (pick (s.towers.filter fun p => decide (p.2.outbound ≠ [])) i).bind fun p =>
      (pick p.2.outbound (i / 4)).map fun e => execOutboundDelivery p.1 (e.home / 256) s,
    fun s => (pick s.guards i).bind fun p => autoGuard s p.1,
    fun s => (pick ((s.cores.map Prod.fst).filter (dispatches s)) i).map (autoDispatch s),
    fun s => due (s.atoms.any fun a => a.reply.isNone) (execAtomicAtHome (i % max 1 s.atoms.length)) s,
    fun s => due (s.atoms.any fun a => a.reply.isSome) (execAtomicReplyFill (i % max 1 s.atoms.length)) s,
    fun s => due (s.feOps.any fun a => a.res.isNone) (execFeOpAtOwner (i % max 1 s.feOps.length)) s,
    fun s => due (s.feOps.any fun a => a.res.isSome) (execFeResultFill (i % max 1 s.feOps.length)) s,
    fun s => autoRemote s (i % max 1 s.remotes.length),
    fun s => due (s.arrivals ≠ []) (execBarrierArrivalAtHome (i % max 1 s.arrivals.length)) s,
    fun s => (pick s.chans i).bind fun p => autoChan s p.1 (i / max 1 s.chans.length) p.2,
    fun s => (pick s.chReplies i).map fun r => if r.isNew then execChnewReply r.core r.ctx s else execChstatReply r.core r.ctx s,
    fun s => due (s.closures ≠ []) (execClosureAtAnchor (i % max 1 s.closures.length)) s,
    fun s => due (s.probes ≠ []) (execProbeHop 0) s,
    fun s => (pick s.escs i).map fun e =>
      if e.drained then execEscalationAnswer (i % s.escs.length) s else execEscalationDrainRequest (i % s.escs.length) s,
    fun s => due (s.saves ≠ []) (execContextSave (i % max 1 s.saves.length)) s,
    fun s => due (s.faultWait ≠ []) (execFaultRecordDeferredPost (i % max 1 s.faultWait.length)) s,
    fun s => (pick (allGrids s) i).bind fun q => autoGrid s q.1 q.2.1 q.2.2,
    fun s => (neededPage s).map fun p => execBeforeImageCopy (p * 65536 / 2 ^ 35) p s,
    fun s => (pick (s.lines.filter fun p => decide (p.2.due ≠ []) || p.2.maker.isSome ||
        p.2.weir.head?.any fun e => decide (e.st = .placed)) i).map fun p =>
      execCensusScan (((p.2.owner p.1).map Prod.fst).getD (ctlTower p.1)) p.1 s,
    fun s => due (s.acks ≠ []) (execRmaWriteAck 0) s,
    fun s => (pick (s.easels.filter fun p => p.2.que.isSome) i).map fun p => execEaselTailNotify p.1 s,
    fun s => due (dieBusy s (i % 2)) (execEaselDispatch (i % 2)) s,
    fun s => (pick s.queues i).bind fun p => due (wantsEasel s p.2) (execQueueRemap p.1) s,
    fun s => (pick s.bedMoves i).map fun m => execBedMoveFinish m.tower m.bed s ]

/-- The timers, for turn i. -/
def timers (i : Nat) : List (State → Option Out) :=
  [ fun s => (pick (allCtxs s) i).bind fun q => autoCtxTimer s q.1 q.2,
    fun s => (pick (coresThat s fun c => c.asleep) i).map fun g => execDispatchRetryExpiry g s,
    fun s => (pick (s.lines.filter fun p => decide (p.2.reqs ≠ []) && !(s.msgs.any fun m => decide (m.line = p.1))) i).bind fun p =>
      (pick p.2.reqs (i / 4)).map fun q => execTreqTimeout q.1 p.1 s,
    fun s => due (s.saves ≠ []) (fun s =>
      let n := i % max 1 s.saves.length
      if (s.saves[n]?).any fun r => r.deferred then execDeferredSaveRetry n s else execPacketWaitExpiry n s) s,
    fun s => (pick (allGrids s) i).bind fun q =>
      (pick q.2.2.groups (i / 4)).map fun p => execGroupOfferTimeout q.1 q.2.1 p.1 s,
    fun s => (pick s.guards i).bind fun p => due (intervalOver s p.1) (execCheckpointIntervalExpiry p.1) s,
    fun s => (pick s.bedMoves i).bind fun m => due (!m.graced) (execBedMoveGraceExpiry m.tower m.bed) s,
    fun s => (pick s.queues i).bind fun p =>
      due (p.2.easel.isSome && decide (p.2.tailAt + 100000 ≤ s.clock)) (execQueueIdleExpiry p.1) s,
    fun s => due (s.basins ≠ [] && decide (i % 100000 = 0)) execPartitionEvaluation s ]

/-- The next event of the part itself (log entry 3): the boot, then the kinds in turn; each sixteenth time the timers come
first. -/
def autoEvent (s : State) : Option Out :=
  if s.booted then
    let i := s.clock / 2
    let a := firstDue s (prompt (i / 31)) i
    let b := firstDue s (timers (i / 144)) (i / 16)
    if i % 16 = 15 then (match b with
      | some o => some o
      | none => a)
    else (match a with
      | some o => some o
      | none => b)
  else some (execPowerOnBoot s)

end Sys2Proof.Machine
end

