-- ==== Sys2Proof/Machine/Dispatch.lean ====
section
/-! DEFINITION. The meaning of every instruction and event, by constructor. -/

namespace Sys2Proof.Machine

def exec (i : Instr) (s : State) : Host.Outcome State Fault Refusal :=
  match i with
  | .add o => Sys2Proof.Machine.execAdd o s
  | .sub o => Sys2Proof.Machine.execSub o s
  | .and o => Sys2Proof.Machine.execAnd o s
  | .or o => Sys2Proof.Machine.execOr o s
  | .xor o => Sys2Proof.Machine.execXor o s
  | .andn o => Sys2Proof.Machine.execAndn o s
  | .orn o => Sys2Proof.Machine.execOrn o s
  | .xnor o => Sys2Proof.Machine.execXnor o s
  | .sll o => Sys2Proof.Machine.execSll o s
  | .srl o => Sys2Proof.Machine.execSrl o s
  | .sra o => Sys2Proof.Machine.execSra o s
  | .rol o => Sys2Proof.Machine.execRol o s
  | .ror o => Sys2Proof.Machine.execRor o s
  | .slt o => Sys2Proof.Machine.execSlt o s
  | .sltu o => Sys2Proof.Machine.execSltu o s
  | .min o => Sys2Proof.Machine.execMin o s
  | .max o => Sys2Proof.Machine.execMax o s
  | .minu o => Sys2Proof.Machine.execMinu o s
  | .maxu o => Sys2Proof.Machine.execMaxu o s
  | .mul o => Sys2Proof.Machine.execMul o s
  | .mulh o => Sys2Proof.Machine.execMulh o s
  | .mulhu o => Sys2Proof.Machine.execMulhu o s
  | .mulhsu o => Sys2Proof.Machine.execMulhsu o s
  | .div o => Sys2Proof.Machine.execDiv o s
  | .divu o => Sys2Proof.Machine.execDivu o s
  | .rem o => Sys2Proof.Machine.execRem o s
  | .remu o => Sys2Proof.Machine.execRemu o s
  | .addw o => Sys2Proof.Machine.execAddw o s
  | .subw o => Sys2Proof.Machine.execSubw o s
  | .mulw o => Sys2Proof.Machine.execMulw o s
  | .sllw o => Sys2Proof.Machine.execSllw o s
  | .srlw o => Sys2Proof.Machine.execSrlw o s
  | .sraw o => Sys2Proof.Machine.execSraw o s
  | .clz o => Sys2Proof.Machine.execClz o s
  | .ctz o => Sys2Proof.Machine.execCtz o s
  | .popc o => Sys2Proof.Machine.execPopc o s
  | .brev o => Sys2Proof.Machine.execBrev o s
  | .bswap o => Sys2Proof.Machine.execBswap o s
  | .sextb o => Sys2Proof.Machine.execSextb o s
  | .sexth o => Sys2Proof.Machine.execSexth o s
  | .sextw o => Sys2Proof.Machine.execSextw o s
  | .zextw o => Sys2Proof.Machine.execZextw o s
  | .csel o => Sys2Proof.Machine.execCsel o s
  | .hmov o => Sys2Proof.Machine.execHmov o s
  | .fadd o => Sys2Proof.Machine.execFadd o s
  | .fsub o => Sys2Proof.Machine.execFsub o s
  | .fmul o => Sys2Proof.Machine.execFmul o s
  | .fdiv o => Sys2Proof.Machine.execFdiv o s
  | .fsqrt o => Sys2Proof.Machine.execFsqrt o s
  | .fma o => Sys2Proof.Machine.execFma o s
  | .fmin o => Sys2Proof.Machine.execFmin o s
  | .fmax o => Sys2Proof.Machine.execFmax o s
  | .feq o => Sys2Proof.Machine.execFeq o s
  | .flt o => Sys2Proof.Machine.execFlt o s
  | .fle o => Sys2Proof.Machine.execFle o s
  | .fclass o => Sys2Proof.Machine.execFclass o s
  | .ftoi o => Sys2Proof.Machine.execFtoi o s
  | .ftoiu o => Sys2Proof.Machine.execFtoiu o s
  | .itof o => Sys2Proof.Machine.execItof o s
  | .itofu o => Sys2Proof.Machine.execItofu o s
  | .ftobf o => Sys2Proof.Machine.execFtobf o s
  | .bftof o => Sys2Proof.Machine.execBftof o s
  | .ftoh o => Sys2Proof.Machine.execFtoh o s
  | .htof o => Sys2Proof.Machine.execHtof o s
  | .fneg o => Sys2Proof.Machine.execFneg o s
  | .fabs o => Sys2Proof.Machine.execFabs o s
  | .addi o => Sys2Proof.Machine.execAddi o s
  | .andi o => Sys2Proof.Machine.execAndi o s
  | .ori o => Sys2Proof.Machine.execOri o s
  | .xori o => Sys2Proof.Machine.execXori o s
  | .slti o => Sys2Proof.Machine.execSlti o s
  | .sltiu o => Sys2Proof.Machine.execSltiu o s
  | .addiw o => Sys2Proof.Machine.execAddiw o s
  | .slli o => Sys2Proof.Machine.execSlli o s
  | .srli o => Sys2Proof.Machine.execSrli o s
  | .srai o => Sys2Proof.Machine.execSrai o s
  | .roli o => Sys2Proof.Machine.execRoli o s
  | .lui o => Sys2Proof.Machine.execLui o s
  | .auipc o => Sys2Proof.Machine.execAuipc o s
  | .jal o => Sys2Proof.Machine.execJal o s
  | .jalr o => Sys2Proof.Machine.execJalr o s
  | .jt o => Sys2Proof.Machine.execJt o s
  | .beq o => Sys2Proof.Machine.execBeq o s
  | .bne o => Sys2Proof.Machine.execBne o s
  | .blt o => Sys2Proof.Machine.execBlt o s
  | .bge o => Sys2Proof.Machine.execBge o s
  | .bltu o => Sys2Proof.Machine.execBltu o s
  | .bgeu o => Sys2Proof.Machine.execBgeu o s
  | .lb o => Sys2Proof.Machine.execLb o s
  | .lbu o => Sys2Proof.Machine.execLbu o s
  | .lh o => Sys2Proof.Machine.execLh o s
  | .lhu o => Sys2Proof.Machine.execLhu o s
  | .lw o => Sys2Proof.Machine.execLw o s
  | .lwu o => Sys2Proof.Machine.execLwu o s
  | .ld o => Sys2Proof.Machine.execLd o s
  | .lq o => Sys2Proof.Machine.execLq o s
  | .sb o => Sys2Proof.Machine.execSb o s
  | .sh o => Sys2Proof.Machine.execSh o s
  | .sw o => Sys2Proof.Machine.execSw o s
  | .sd o => Sys2Proof.Machine.execSd o s
  | .sq o => Sys2Proof.Machine.execSq o s
  | .amowSwap o => Sys2Proof.Machine.execAmowSwap o s
  | .amowAdd o => Sys2Proof.Machine.execAmowAdd o s
  | .amowAnd o => Sys2Proof.Machine.execAmowAnd o s
  | .amowOr o => Sys2Proof.Machine.execAmowOr o s
  | .amowXor o => Sys2Proof.Machine.execAmowXor o s
  | .amowMin o => Sys2Proof.Machine.execAmowMin o s
  | .amowMax o => Sys2Proof.Machine.execAmowMax o s
  | .amowMinu o => Sys2Proof.Machine.execAmowMinu o s
  | .amowMaxu o => Sys2Proof.Machine.execAmowMaxu o s
  | .amowCas o => Sys2Proof.Machine.execAmowCas o s
  | .amowAddbnd o => Sys2Proof.Machine.execAmowAddbnd o s
  | .amowFadd o => Sys2Proof.Machine.execAmowFadd o s
  | .amodSwap o => Sys2Proof.Machine.execAmodSwap o s
  | .amodAdd o => Sys2Proof.Machine.execAmodAdd o s
  | .amodAnd o => Sys2Proof.Machine.execAmodAnd o s
  | .amodOr o => Sys2Proof.Machine.execAmodOr o s
  | .amodXor o => Sys2Proof.Machine.execAmodXor o s
  | .amodMin o => Sys2Proof.Machine.execAmodMin o s
  | .amodMax o => Sys2Proof.Machine.execAmodMax o s
  | .amodMinu o => Sys2Proof.Machine.execAmodMinu o s
  | .amodMaxu o => Sys2Proof.Machine.execAmodMaxu o s
  | .amodCas o => Sys2Proof.Machine.execAmodCas o s
  | .amodAddbnd o => Sys2Proof.Machine.execAmodAddbnd o s
  | .take o => Sys2Proof.Machine.execTake o s
  | .put o => Sys2Proof.Machine.execPut o s
  | .trytake o => Sys2Proof.Machine.execTrytake o s
  | .feget o => Sys2Proof.Machine.execFeget o s
  | .feset o => Sys2Proof.Machine.execFeset o s
  | .fesetRegister o => Sys2Proof.Machine.execFesetRegister o s
  | .wait o => Sys2Proof.Machine.execWait o s
  | .waita o => Sys2Proof.Machine.execWaita o s
  | .waitna o => Sys2Proof.Machine.execWaitna o s
  | .imask o => Sys2Proof.Machine.execImask o s
  | .fenceAcq o => Sys2Proof.Machine.execFenceAcq o s
  | .fenceRel o => Sys2Proof.Machine.execFenceRel o s
  | .fenceAr o => Sys2Proof.Machine.execFenceAr o s
  | .fenceSc o => Sys2Proof.Machine.execFenceSc o s
  | .tid o => Sys2Proof.Machine.execTid o s
  | .start o => Sys2Proof.Machine.execStart o s
  | .reap o => Sys2Proof.Machine.execReap o s
  | .ctxput o => Sys2Proof.Machine.execCtxput o s
  | .ctxget o => Sys2Proof.Machine.execCtxget o s
  | .fork o => Sys2Proof.Machine.execFork o s
  | .retf o => Sys2Proof.Machine.execRetf o s
  | .fwait o => Sys2Proof.Machine.execFwait o s
  | .enq o => Sys2Proof.Machine.execEnq o s
  | .join o => Sys2Proof.Machine.execJoin o s
  | .leave o => Sys2Proof.Machine.execLeave o s
  | .bar o => Sys2Proof.Machine.execBar o s
  | .bara o => Sys2Proof.Machine.execBara o s
  | .barw o => Sys2Proof.Machine.execBarw o s
  | .glaze o => Sys2Proof.Machine.execGlaze o s
  | .glstat o => Sys2Proof.Machine.execGlstat o s
  | .glcancel o => Sys2Proof.Machine.execGlcancel o s
  | .chnew o => Sys2Proof.Machine.execChnew o s
  | .send o => Sys2Proof.Machine.execSend o s
  | .recv o => Sys2Proof.Machine.execRecv o s
  | .rpoll o => Sys2Proof.Machine.execRpoll o s
  | .chclose o => Sys2Proof.Machine.execChclose o s
  | .charm o => Sys2Proof.Machine.execCharm o s
  | .chdisarm o => Sys2Proof.Machine.execChdisarm o s
  | .chstat o => Sys2Proof.Machine.execChstat o s
  | .vadd o => Sys2Proof.Machine.execVadd o s
  | .vsub o => Sys2Proof.Machine.execVsub o s
  | .vmul o => Sys2Proof.Machine.execVmul o s
  | .vfma o => Sys2Proof.Machine.execVfma o s
  | .vdiv o => Sys2Proof.Machine.execVdiv o s
  | .vmin o => Sys2Proof.Machine.execVmin o s
  | .vmax o => Sys2Proof.Machine.execVmax o s
  | .vabs o => Sys2Proof.Machine.execVabs o s
  | .vneg o => Sys2Proof.Machine.execVneg o s
  | .vsqrt o => Sys2Proof.Machine.execVsqrt o s
  | .vrcp o => Sys2Proof.Machine.execVrcp o s
  | .vexp2 o => Sys2Proof.Machine.execVexp2 o s
  | .vadds o => Sys2Proof.Machine.execVadds o s
  | .vsubs o => Sys2Proof.Machine.execVsubs o s
  | .vmulhi o => Sys2Proof.Machine.execVmulhi o s
  | .vshl o => Sys2Proof.Machine.execVshl o s
  | .vshr o => Sys2Proof.Machine.execVshr o s
  | .vsra o => Sys2Proof.Machine.execVsra o s
  | .vand o => Sys2Proof.Machine.execVand o s
  | .vor o => Sys2Proof.Machine.execVor o s
  | .vxor o => Sys2Proof.Machine.execVxor o s
  | .vcmpeq o => Sys2Proof.Machine.execVcmpeq o s
  | .vcmplt o => Sys2Proof.Machine.execVcmplt o s
  | .vcmple o => Sys2Proof.Machine.execVcmple o s
  | .vsel o => Sys2Proof.Machine.execVsel o s
  | .vcvt o => Sys2Proof.Machine.execVcvt o s
  | .vpack o => Sys2Proof.Machine.execVpack o s
  | .vunpack o => Sys2Proof.Machine.execVunpack o s
  | .vradd o => Sys2Proof.Machine.execVradd o s
  | .vrmax o => Sys2Proof.Machine.execVrmax o s
  | .vrmin o => Sys2Proof.Machine.execVrmin o s
  | .vsacc o => Sys2Proof.Machine.execVsacc o s
  | .vxacc o => Sys2Proof.Machine.execVxacc o s
  | .vxcvt o => Sys2Proof.Machine.execVxcvt o s
  | .vcopy o => Sys2Proof.Machine.execVcopy o s
  | .vperm o => Sys2Proof.Machine.execVperm o s
  | .strrew o => Sys2Proof.Machine.execStrrew o s
  | .stradv o => Sys2Proof.Machine.execStradv o s
  | .vsplat o => Sys2Proof.Machine.execVsplat o s
  | .tbind o => Sys2Proof.Machine.execTbind o s
  | .tfree o => Sys2Proof.Machine.execTfree o s
  | .tmma o => Sys2Proof.Machine.execTmma o s
  | .tzero o => Sys2Proof.Machine.execTzero o s
  | .tload o => Sys2Proof.Machine.execTload o s
  | .tstore o => Sys2Proof.Machine.execTstore o s
  | .twait o => Sys2Proof.Machine.execTwait o s
  | .tpeek o => Sys2Proof.Machine.execTpeek o s
  | .ringpush o => Sys2Proof.Machine.execRingpush o s
  | .ringpop o => Sys2Proof.Machine.execRingpop o s
  | .cpgo o => Sys2Proof.Machine.execCpgo o s
  | .cpstat o => Sys2Proof.Machine.execCpstat o s
  | .cpabort o => Sys2Proof.Machine.execCpabort o s
  | .l2pf o => Sys2Proof.Machine.execL2pf o s
  | .l2disc o => Sys2Proof.Machine.execL2disc o s
  | .l2zero o => Sys2Proof.Machine.execL2zero o s
  | .cflush o => Sys2Proof.Machine.execCflush o s
  | .tlbinv o => Sys2Proof.Machine.execTlbinv o s
  | .srr o => Sys2Proof.Machine.execSrr o s
  | .srw o => Sys2Proof.Machine.execSrw o s
  | .srs o => Sys2Proof.Machine.execSrs o s
  | .src o => Sys2Proof.Machine.execSrc o s
  | .repart o => Sys2Proof.Machine.execRepart o s
  | .carve o => Sys2Proof.Machine.execCarve o s
  | .preempt o => Sys2Proof.Machine.execPreempt o s
  | .resume o => Sys2Proof.Machine.execResume o s
  | .strset o => Sys2Proof.Machine.execStrset o s
  | .strget o => Sys2Proof.Machine.execStrget o s
  | .tset o => Sys2Proof.Machine.execTset o s
  | .tget o => Sys2Proof.Machine.execTget o s
  | .ringset o => Sys2Proof.Machine.execRingset o s
  | .ringget o => Sys2Proof.Machine.execRingget o s
  | .cpset o => Sys2Proof.Machine.execCpset o s
  | .cpget o => Sys2Proof.Machine.execCpget o s
  | .illegalWord w => Sys2Proof.Machine.execIllegalWord w s
  | .fetchWordArrival core ctx => Sys2Proof.Machine.execFetchWordArrival core ctx s
  | .parkedReexecute core ctx => Sys2Proof.Machine.execParkedReexecute core ctx s
  | .longLatencyFill core ctx => Sys2Proof.Machine.execLongLatencyFill core ctx s
  | .loadDataArrival core ctx fromL1 => Sys2Proof.Machine.execLoadDataArrival core ctx fromL1 s
  | .yieldHoldExpiry core ctx => Sys2Proof.Machine.execYieldHoldExpiry core ctx s
  | .engineDeferredTrap core ctx => Sys2Proof.Machine.execEngineDeferredTrap core ctx s
  | .arrivalInterruptEntry core ctx => Sys2Proof.Machine.execArrivalInterruptEntry core ctx s
  | .dispatchFill core bank0 bank1 victim => Sys2Proof.Machine.execDispatchFill core bank0 bank1 victim s
  | .dispatchRetryExpiry core => Sys2Proof.Machine.execDispatchRetryExpiry core s
  | .stealRequestReceive core victim => Sys2Proof.Machine.execStealRequestReceive core victim s
  | .stealAnswerReceive core => Sys2Proof.Machine.execStealAnswerReceive core s
  | .barrierArrivalAtHome n => Sys2Proof.Machine.execBarrierArrivalAtHome n s
  | .barrierWake core ctx => Sys2Proof.Machine.execBarrierWake core ctx s
  | .fwaitWake core ctx => Sys2Proof.Machine.execFwaitWake core ctx s
  | .writeBufferDrain core bank => Sys2Proof.Machine.execWriteBufferDrain core bank s
  | .outboundDelivery tower dest => Sys2Proof.Machine.execOutboundDelivery tower dest s
  | .pageWalk core ctx => Sys2Proof.Machine.execPageWalk core ctx s
  | .prefetchProgress core => Sys2Proof.Machine.execPrefetchProgress core s
  | .escalationDrainRequest n => Sys2Proof.Machine.execEscalationDrainRequest n s
  | .escalationAnswer n => Sys2Proof.Machine.execEscalationAnswer n s
  | .atomicAtHome n => Sys2Proof.Machine.execAtomicAtHome n s
  | .atomicReplyFill n => Sys2Proof.Machine.execAtomicReplyFill n s
  | .feOpAtOwner n => Sys2Proof.Machine.execFeOpAtOwner n s
  | .feResultFill n => Sys2Proof.Machine.execFeResultFill n s
  | .takeRetryExpiry core ctx => Sys2Proof.Machine.execTakeRetryExpiry core ctx s
  | .waitaReread core ctx => Sys2Proof.Machine.execWaitaReread core ctx s
  | .waitWake core ctx => Sys2Proof.Machine.execWaitWake core ctx s
  | .channelWordDelivery chan n => Sys2Proof.Machine.execChannelWordDelivery chan n s
  | .recvFill chan => Sys2Proof.Machine.execRecvFill chan s
  | .creditBatchReceive chan => Sys2Proof.Machine.execCreditBatchReceive chan s
  | .chnewReply core ctx => Sys2Proof.Machine.execChnewReply core ctx s
  | .chstatReply core ctx => Sys2Proof.Machine.execChstatReply core ctx s
  | .moveRequest chan => Sys2Proof.Machine.execMoveRequest chan s
  | .forwardOrder chan => Sys2Proof.Machine.execForwardOrder chan s
  | .retarget chan => Sys2Proof.Machine.execRetarget chan s
  | .retargetAnswer chan => Sys2Proof.Machine.execRetargetAnswer chan s
  | .relocationComplete chan => Sys2Proof.Machine.execRelocationComplete chan s
  | .sendStateFlush chan => Sys2Proof.Machine.execSendStateFlush chan s
  | .sendStateFetchReply chan => Sys2Proof.Machine.execSendStateFetchReply chan s
  | .closureAtAnchor n => Sys2Proof.Machine.execClosureAtAnchor n s
  | .deadlockProbeStart core ctx => Sys2Proof.Machine.execDeadlockProbeStart core ctx s
  | .probeHop n => Sys2Proof.Machine.execProbeHop n s
  | .peerUnreachable peer => Sys2Proof.Machine.execPeerUnreachable peer s
  | .vectorExecutionStart core => Sys2Proof.Machine.execVectorExecutionStart core s
  | .vectorCompletion core => Sys2Proof.Machine.execVectorCompletion core s
  | .kstepLoadStart core => Sys2Proof.Machine.execKstepLoadStart core s
  | .kstepComplete core => Sys2Proof.Machine.execKstepComplete core s
  | .tmmaRetire core => Sys2Proof.Machine.execTmmaRetire core s
  | .copyRun core => Sys2Proof.Machine.execCopyRun core s
  | .copyCompletion core ticket => Sys2Proof.Machine.execCopyCompletion core ticket s
  | .faultRecordDeferredPost n => Sys2Proof.Machine.execFaultRecordDeferredPost n s
  | .contextSave n => Sys2Proof.Machine.execContextSave n s
  | .packetWaitExpiry n => Sys2Proof.Machine.execPacketWaitExpiry n s
  | .deferredSaveRetry n => Sys2Proof.Machine.execDeferredSaveRetry n s
  | .contextRestore core n => Sys2Proof.Machine.execContextRestore core n s
  | .groupOfferTimeout tower slot group => Sys2Proof.Machine.execGroupOfferTimeout tower slot group s
  | .groupRetirement tower slot group => Sys2Proof.Machine.execGroupRetirement tower slot group s
  | .gridCompletionStore tower slot => Sys2Proof.Machine.execGridCompletionStore tower slot s
  | .treqReceive n => Sys2Proof.Machine.execTreqReceive n s
  | .tokReceive n => Sys2Proof.Machine.execTokReceive n s
  | .dmarkReceive n => Sys2Proof.Machine.execDmarkReceive n s
  | .treqTimeout tower line => Sys2Proof.Machine.execTreqTimeout tower line s
  | .preqReceive n => Sys2Proof.Machine.execPreqReceive n s
  | .pactReceive n => Sys2Proof.Machine.execPactReceive n s
  | .pdeactReceive n => Sys2Proof.Machine.execPdeactReceive n s
  | .packReceive n => Sys2Proof.Machine.execPackReceive n s
  | .pdoneReceive n => Sys2Proof.Machine.execPdoneReceive n s
  | .censusReceive n => Sys2Proof.Machine.execCensusReceive n s
  | .censusScan tower line => Sys2Proof.Machine.execCensusScan tower line s
  | .flitResend tower link bad => Sys2Proof.Machine.execFlitResend tower link bad s
  | .linkFailure tower link => Sys2Proof.Machine.execLinkFailure tower link s
  | .checkpointIntervalExpiry tower => Sys2Proof.Machine.execCheckpointIntervalExpiry tower s
  | .checkpointStored tower outcome => Sys2Proof.Machine.execCheckpointStored tower outcome s
  | .beforeImageCopy tower page => Sys2Proof.Machine.execBeforeImageCopy tower page s
  | .towerResetTrigger tower trigger => Sys2Proof.Machine.execTowerResetTrigger tower trigger s
  | .rmaWrite m => Sys2Proof.Machine.execRmaWrite m s
  | .rmaWriteAck n => Sys2Proof.Machine.execRmaWriteAck n s
  | .rmaRead m => Sys2Proof.Machine.execRmaRead m s
  | .unsupportedRequest m => Sys2Proof.Machine.execUnsupportedRequest m s
  | .openReq q => Sys2Proof.Machine.execOpenReq q s
  | .closeReq q => Sys2Proof.Machine.execCloseReq q s
  | .resetReq q => Sys2Proof.Machine.execResetReq q s
  | .registerReq q => Sys2Proof.Machine.execRegisterReq q s
  | .deregisterReq q => Sys2Proof.Machine.execDeregisterReq q s
  | .mapqReq q => Sys2Proof.Machine.execMapqReq q s
  | .freeqReq q => Sys2Proof.Machine.execFreeqReq q s
  | .mapReq q => Sys2Proof.Machine.execMapReq q s
  | .loadReq q => Sys2Proof.Machine.execLoadReq q s
  | .launchReq q => Sys2Proof.Machine.execLaunchReq q s
  | .guardReq q => Sys2Proof.Machine.execGuardReq q s
  | .checkpointReq q => Sys2Proof.Machine.execCheckpointReq q s
  | .attestReq q => Sys2Proof.Machine.execAttestReq q s
  | .peerReq q => Sys2Proof.Machine.execPeerReq q s
  | .targetReq q => Sys2Proof.Machine.execTargetReq q s
  | .updateReq q => Sys2Proof.Machine.execUpdateReq q s
  | .easelTailNotify easel => Sys2Proof.Machine.execEaselTailNotify easel s
  | .easelDispatch die => Sys2Proof.Machine.execEaselDispatch die s
  | .easelHoldbackExpiry easel => Sys2Proof.Machine.execEaselHoldbackExpiry easel s
  | .queueRemap que => Sys2Proof.Machine.execQueueRemap que s
  | .bedMoveGraceExpiry tower bed => Sys2Proof.Machine.execBedMoveGraceExpiry tower bed s
  | .bedMoveFinish tower bed => Sys2Proof.Machine.execBedMoveFinish tower bed s
  | .guardctlWrite tower v => Sys2Proof.Machine.execGuardctlWrite tower v s
  | .ckptreqWrite tower v => Sys2Proof.Machine.execCkptreqWrite tower v s
  | .resetreqWrite tower v => Sys2Proof.Machine.execResetreqWrite tower v s
  | .bedctlWrite tower bed v => Sys2Proof.Machine.execBedctlWrite tower bed v s
  | .ptrootWrite basin v => Sys2Proof.Machine.execPtrootWrite basin v s
  | .vtmapWrite basin v => Sys2Proof.Machine.execVtmapWrite basin v s
  | .waymaskWrite basin v => Sys2Proof.Machine.execWaymaskWrite basin v s
  | .quantumWrite basin v => Sys2Proof.Machine.execQuantumWrite basin v s
  | .ectlWrite easel v => Sys2Proof.Machine.execEctlWrite easel v s
  | .deviceRegisterWrite addr size v => Sys2Proof.Machine.execDeviceRegisterWrite addr size v s
  | .voltageDerate mv => Sys2Proof.Machine.execVoltageDerate mv s
  | .voltagePowerOff mv => Sys2Proof.Machine.execVoltagePowerOff mv s
  | .thermalHold tower celsius => Sys2Proof.Machine.execThermalHold tower celsius s
  | .thermalRelease tower celsius => Sys2Proof.Machine.execThermalRelease tower celsius s
  | .remoteWindowAccess n => Sys2Proof.Machine.execRemoteWindowAccess n s
  | .queueIdleExpiry que => Sys2Proof.Machine.execQueueIdleExpiry que s
  | .inputVoltageNormal mv => Sys2Proof.Machine.execInputVoltageNormal mv s
  | .iunmask => Sys2Proof.Machine.execIunmask s
  | .iret => Sys2Proof.Machine.execIret s
  | .exit => Sys2Proof.Machine.execExit s
  | .yield => Sys2Proof.Machine.execYield s
  | .trap => Sys2Proof.Machine.execTrap s
  | .eret => Sys2Proof.Machine.execEret s
  | .breakI => Sys2Proof.Machine.execBreakI s
  | .halt => Sys2Proof.Machine.execHalt s
  | .partitionEvaluation => Sys2Proof.Machine.execPartitionEvaluation s
  | .powerOnBoot => Sys2Proof.Machine.execPowerOnBoot s

end Sys2Proof.Machine
end

