-- ==== Sys2Proof/Machine/Fetch.lean ====
section
/-! DEFINITION. Which context issues next (R94) and the word it fetches (R20). -/

namespace Sys2Proof.Machine

/-- A context is ready to issue (R94): RUN, not parked, not stopped, not held back by YIELD, with no trap deferred to
this boundary (R231, R268, R310). -/
def Ctx.ready (c : Ctx) : Bool :=
  decide (c.phase = .run) && decide (c.stop = none) && decide (c.park = none) && !c.yieldHold && decide (c.deferred = [])

/-- The contexts of a core in the cyclic order after the one that issued last (R94). -/
def issueOrder (c : Core) : List Nat := (List.range c.count).map fun i => (c.lastIssue + 1 + i) % c.count

/-- The core holds its issue: its tower prepares a cut (R360 step 1), or its die is too hot (R403). -/
def issueHeld (s : State) (g : Nat) : Bool := decide (g < 2048) && ((s.guard (g / 256)).stopping || s.hot.contains (g / 256))

/-- An arrival interrupt of a context is to be taken before its next instruction (R200, R181). -/
def interruptDue (s : State) (g k : Nat) : Bool :=
  decide ((s.ctx g k).icount = 0) && !(s.ctx g k).ih && decide (dueEnds s g k ≠ [])

/-- A context may issue, but for the time since its last issue (R94). -/
def mayIssue (s : State) (g k : Nat) : Bool := ((s.core g).ctx k).ready && !interruptDue s g k

/-- A context has issued in the previous 7 clocks (R94): it is among the latest issues of its core that lie there, whose number
is open (log entry 4). -/
def rested (s : State) (c : Core) (k : Nat) : Bool :=
  !(c.recent.zipIdx.any fun p => decide (p.1 = k) && decide (p.2 < Config.recentIssues s.clock))

/-- The context of a core that issues next (R94): the first in cyclic order that may issue and has not issued in the previous 7
clocks; when all that may have, the one whose issue lies furthest back, once its time is over. -/
def nextCtx (s : State) (g : Nat) : Option Nat :=
  if issueHeld s g then none
  else
    let l := (issueOrder (s.core g)).filter (mayIssue s g)
    (l.find? (rested s (s.core g))).or ((s.core g).recent.reverse.find? fun k => l.contains k)

/-- The cores that the state lists, those after the executing core first, so that cores take turns. -/
def coreOrder (s : State) : List Nat :=
  ((s.cores.map Prod.fst).filter fun g => decide (s.cur.1 < g)) ++
  ((s.cores.map Prod.fst).filter fun g => decide (g ≤ s.cur.1))

/-- The next core with a ready context, and that context (log entry 3). -/
def pickIssue (s : State) : Option (Nat × Nat) :=
  (coreOrder s).findSome? fun g => (nextCtx s g).map fun k => (g, k)

/-- What fetching gives the executing thread (R20): a word, or how it waits or faults. -/
inductive Fetched where
  | word (w : BitVec 32)
  | wait (e : Eff)

/-- Fetch the word at the executing thread's PC (R20): the word that has arrived for it, or the word at hand in the
write buffer or L1; otherwise the thread parks in the fetch. -/
def fetchAt (s : State) : Fetched :=
  let c := s.me
  let seek : Fetched :=
    match translate s s.who c.pc .fetch 4 with
    | .ok w =>
      if atHand s s.cur.1 s.cur.2 w.pa && !overlaps s s.cur.1 (gctx s.cur.1 s.cur.2) w.pa 4 then
        .word (fetchWord s s.cur.1 s.cur.2 true w.pa)
      else .wait (.park (askRead s s.cur.1 w) .fetch)
    | .page => .wait (.pageFault causeFETCH c.pc)
    | .bad => .wait (.trap causeFETCH c.pc)
    | .miss => .wait (.park s (.walk c.pc .fetch causeFETCH))
  match c.fetched with
  | some (pc, w) => if pc = c.pc then .word w else seek
  | none => seek

/-- The acquires that a started or restored thread owes, made before its first instruction (R123, R163, R335). -/
def settleAcquires (s : State) (l : List Acq) : Eff :=
  acquireAll s l fun s => .done (s.setMe { s.me with acqs := [], park := none, fetched := none })

/-- The executing context becomes (g, k), which is now the one that issued last on its core (R94). -/
def issueOn (s : State) (g k : Nat) : State :=
  (s.at (g, k)).setCore g { s.core g with lastIssue := k, recent := k :: ((s.core g).recent.filter fun j => decide (j ≠ k)).take 6 }

end Sys2Proof.Machine
end

