-- ==== Sys2Proof/Machine/Issue.lean ====
section
/-! DEFINITION. What one step of the part does: one issue of a context, or one event (log entry 3). -/

namespace Sys2Proof.Machine

/-- One issue of context k of core g: the acquires that a started thread owes (R163), or an instruction: fetch (R20),
decode (R21 steps 1 and 2), execute. -/
def issue (s : State) (g k : Nat) : Host.Outcome State Fault Refusal :=
  let s1 := issueOn s g k
  match s1.me.acqs with
  | [] =>
    match fetchAt s1 with
    | .word w => exec (decodeOrIll w) s1
    | .wait e => finish s1 e
  | l => finish s1 (settleAcquires s1 l)

/-- An issue slot of the part: while the module is derated any slot may be held idle (R402), a free choice (log entry 6). -/
def slot (s : State) (g k : Nat) : Host.Outcome State Fault Refusal :=
  if s.derated then
    let s1 := { s with freeCtr := s.freeCtr + 1 }
    if Config.freeBool s.freeCtr then .next s1 else issue s1 g k
  else issue s g k

/-- The instruction is an event of the part: it has no word (spec/opcode_table.json). -/
def isEvent (i : Instr) : Bool :=
  match i with
  | .illegalWord _ => false
  | i => (encodeNat i).isNone

/-- The move is a change of the module's supply (R402). -/
def ofSupply (m : Move) : Bool :=
  match m with
  | .event (.voltageDerate _) => true
  | .event (.voltagePowerOff _) => true
  | .event (.inputVoltageNormal _) => true
  | _ => false

/-- A move the outside has chosen (log entry 3): an event, the next issue of a core, a memory error (log entry 24), the
combining of two atomics in a switch (R167), or a message of a peer device (R202); a core with no ready context changes nothing.
In a module that is powered off nothing happens but a change of its supply (R402). -/
def chosen (s : State) (m : Move) : Host.Outcome State Fault Refusal :=
  if s.powered = false ∧ ofSupply m = false then .next s
  else
  match m with
  | .event i => if isEvent i then exec i s else .next s
  | .issue g =>
    match nextCtx s g with
    | some k => slot s g k
    | none => .next s
  | .upset pa by_ => .next (upset s pa by_)
  | .corrected tower dram => .next (countCorrected s tower dram)
  | .combine i j => .next (combineAtoms s i j)
  | .peerWord p id v last carried => .next (peerWord s p id v last carried)
  | .peerCredit p id n => .next (peerCredit s p id n)
  | .peerClosed p id => .next (peerCloses s p id)

/-- The part's own next issue, if a context is ready. -/
def autoIssue (s : State) : Option (Host.Outcome State Fault Refusal) :=
  (pickIssue s).map fun p => slot s p.1 p.2

/-- The part's own move: an issue or an event, whichever has its turn and exists; with neither, time passes. -/
def autoMove (s : State) : Host.Outcome State Fault Refusal :=
  if s.turn then
    match autoIssue s with
    | some o => o
    | none => (autoEvent s).getD (.next s)
  else
    match autoEvent s with
    | some o => o
    | none => (autoIssue s).getD (.next s)

end Sys2Proof.Machine
end

