-- ==== Sys2Proof/Machine/Step.lean ====
section
/-! DEFINITION. One step of the part. -/

namespace Sys2Proof.Machine

/-- One step (log entry 3): the oldest move the outside has chosen; with none, the part issues and takes its due events
in turn. A module that is powered off waits for the outside (R402). -/
def step (s : State) : Host.Outcome State Fault Refusal :=
  let s0 := { s with clock := s.clock + 1 }
  match s.agenda with
  | m :: r => chosen { s0 with agenda := r } m
  | [] =>
    if s.powered then autoMove { s0 with turn := !s.turn } else .fault .poweredOff

/-- Where withFetchWord places the word: in the DRAM of tower 0. -/
def probePc : Nat := 0x1000

/-- A part that has not booted, as the boot of a 7880 leaves it (R16, R396). -/
def State.asBooted (s : State) : State := if s.booted then s else { s with booted := true, caps := 0x000000FF00010FFF }

/-- The state whose next step issues exactly the word w: atelier core 0 runs M-mode code in context 0, the word lies in memory
at its PC and has arrived for the thread, and the next move is that core's issue (log entry 5). -/
def State.withFetchWord (s : State) (nbits w : Nat) : State :=
  let v := w % 2 ^ nbits
  let bytes := [byteOfWord v 0, byteOfWord v 1, byteOfWord v 2, byteOfWord v 3]
  let word := wordOfBytes (byteOfWord v 0) (byteOfWord v 1) (byteOfWord v 2) (byteOfWord v 3)
  let s1 := { s.asBooted with powered := true, derated := false, agenda := [.issue 2048], mem := writeBytes s.mem probePc bytes }
  let c := s1.core 2048
  s1.setCore 2048 (({ c with lastIssue := 15, recent := [] } : Core).setCtx 0 { c.ctx 0 with
    phase := .run, mode := .m, pc := BitVec.ofNat 64 probePc, park := none, stop := none, yieldHold := false
    deferred := [], acqs := [], fetched := some (BitVec.ofNat 64 probePc, word) })

end Sys2Proof.Machine
end

