-- ==== Sys2Proof/Safety.lean ====
section
/-! DEFINITION. What counts as a safe state, and when an instruction goes on from the checks of R21, and what its completion
leaves as it was. -/

namespace Sys2Proof.Safety

open Sys2Proof.Machine

/-- The memory keeps its canonical form. -/
def MemOk (s : State) : Prop := Memory.wf s.mem = true

/-- Steps 5 to 7 of R21 let the executing thread go on: every register the instruction names exists, its sources are full
and owe no acquire, and none of its destinations awaits a fill. -/
structure Ready (s : State) (u : Use) : Prop where
  exist : ∀ n ∈ u.fields, n.toNat < s.myCore.regCount
  full : ∀ p ∈ u.srcs, (s.me.reg p.1).st = .full
  settled : ∀ p ∈ u.srcs, (s.me.reg p.1).acq = none
  free : ∀ n ∈ u.dsts, (s.me.reg n).st ≠ .pending

/-- The executing thread's mode is at least the lowest, and where the instruction is for context 0 only it is that (R35). -/
def Allowed (s : State) (lowest : Mode) (zeroOnly : Bool) : Prop :=
  lowest.code ≤ s.me.mode.code ∧ (zeroOnly = false ∨ s.cur.2 = 0)

/-! ### What completing an instruction leaves -/

/-- What the completion of an instruction by the executing thread leaves unchanged, but for the PC, the registers of the
list and FPCTL, which becomes f: every other register of the present bank, the registers g24 to g31 of the bank not present (R43), the other
context registers, every byte of memory, every other context, every core's own registers and structures (but L1, which
holds copies only), and the rest of the part. The mask count steps down (R180). -/
structure Keeps (s t : State) (l : List RegNo) (f : Word) : Prop where
  regs : ∀ n, n ∉ l → t.me.reg n = s.me.reg n
  hidden : ∀ n : RegNo, 24 ≤ n.toNat → n.toNat < 32 → t.me.regIn (!s.me.ih) n = s.me.regIn (!s.me.ih) n
  status : t.me.mode = s.me.mode ∧ t.me.pmode = s.me.pmode ∧ t.me.th = s.me.th ∧ t.me.ih = s.me.ih ∧
    t.me.icount = tick s.me.icount ∧ t.me.fpctl = f
  saved : t.me.cause = s.me.cause ∧ t.me.epc = s.me.epc ∧ t.me.tval = s.me.tval ∧ t.me.scratch = s.me.scratch ∧
    t.me.evl = s.me.evl ∧ t.me.ivec = s.me.ivec ∧ t.me.iepc = s.me.iepc
  staged : t.me.streams = s.me.streams ∧ t.me.desc = s.me.desc ∧ t.me.group = s.me.group ∧ t.me.grid = s.me.grid
  mem : ∀ a, readByte t.mem a = readByte s.mem a
  others : ∀ g k, (g, k) ≠ s.cur → t.ctx g k = s.ctx g k
  cores : ∀ g, { t.core g with ctxs := [], l1 := [] } = { s.core g with ctxs := [], l1 := [] }
  part : t = { s with cores := t.cores }

/-- A register written full with a value and a tag; g0 discards it (R38, R64). -/
def Written (t : State) (d : RegNo) (v : Word) (tag : Bool) : Prop := t.me.reg d = if d = 0 then GReg.zero else GReg.of v tag

end Sys2Proof.Safety
end

