-- ==== Sys2Proof/Certificates/Slice0/Obligations.lean ====
section
/-! DEFINITION. What is claimed of the machine: the statements for the provers, from the numbered rules of spec/. -/

namespace Sys2Proof.Claims

open Sys2Proof Sys2Proof.Machine Sys2Proof.Safety

/-! ### The scalar instructions, as spec/05_scalar_instructions.md gives them -/

/-- 1 where the relation holds, else 0. -/
def oneIf (p : Prop) [Decidable p] : Word := if p then 1 else 0

/-- The quotient and the remainder of R71, for exact x and y. -/
def quotRem (x y : Int) : Int × Int :=
  if y = 0 then (-1, x) else if x = -2 ^ 63 ∧ y = -1 then (-2 ^ 63, 0) else (Int.tdiv x y, x - Int.tdiv x y * y)

/-- The sign-extended low 32 bits (R72). -/
def sext32 (v : Word) : Word := BitVec.signExtend 64 (BitVec.extractLsb' 0 32 v)

/-- rd, the registers used, and the value of rd, for the instructions of OP and of the immediate formats whose result is in place
at once (R67 to R70, R72 to R74, R76 to R78). -/
def scalarResult (s : State) : Instr → Option (RegNo × Use × Word)
  | .add o => some (o.d, o.use, s.g o.a + s.g o.b)
  | .sub o => some (o.d, o.use, s.g o.a - s.g o.b)
  | .and o => some (o.d, o.use, s.g o.a &&& s.g o.b)
  | .or o => some (o.d, o.use, s.g o.a ||| s.g o.b)
  | .xor o => some (o.d, o.use, s.g o.a ^^^ s.g o.b)
  | .andn o => some (o.d, o.use, s.g o.a &&& ~~~ s.g o.b)
  | .orn o => some (o.d, o.use, s.g o.a ||| ~~~ s.g o.b)
  | .xnor o => some (o.d, o.use, ~~~ (s.g o.a ^^^ s.g o.b))
  | .sll o => some (o.d, o.use, s.g o.a * BitVec.ofNat 64 (2 ^ ((s.g o.b).extractLsb' 0 6).toNat))
  | .srl o => some (o.d, o.use, BitVec.ofNat 64 ((s.g o.a).toNat / 2 ^ ((s.g o.b).extractLsb' 0 6).toNat))
  | .sra o => some (o.d, o.use, BitVec.ofInt 64 ((s.g o.a).toInt / 2 ^ ((s.g o.b).extractLsb' 0 6).toNat))
  | .rol o => some (o.d, o.use, (s.g o.a ++ s.g o.a).extractLsb' (64 - ((s.g o.b).extractLsb' 0 6).toNat) 64)
  | .ror o => some (o.d, o.use, (s.g o.a ++ s.g o.a).extractLsb' ((s.g o.b).extractLsb' 0 6).toNat 64)
  | .slt o => some (o.d, o.use, oneIf ((s.g o.a).toInt < (s.g o.b).toInt))
  | .sltu o => some (o.d, o.use, oneIf ((s.g o.a).toNat < (s.g o.b).toNat))
  | .min o => some (o.d, o.use, if (s.g o.a).toInt ≤ (s.g o.b).toInt then s.g o.a else s.g o.b)
  | .max o => some (o.d, o.use, if (s.g o.a).toInt ≥ (s.g o.b).toInt then s.g o.a else s.g o.b)
  | .minu o => some (o.d, o.use, if (s.g o.a).toNat ≤ (s.g o.b).toNat then s.g o.a else s.g o.b)
  | .maxu o => some (o.d, o.use, if (s.g o.a).toNat ≥ (s.g o.b).toNat then s.g o.a else s.g o.b)
  | .mul o => some (o.d, o.use, s.g o.a * s.g o.b)
  | .mulh o => some (o.d, o.use, (BitVec.ofInt 128 ((s.g o.a).toInt * (s.g o.b).toInt)).extractLsb' 64 64)
  | .mulhu o => some (o.d, o.use, (BitVec.ofInt 128 ((s.g o.a).toNat * (s.g o.b).toNat)).extractLsb' 64 64)
  | .mulhsu o => some (o.d, o.use, (BitVec.ofInt 128 ((s.g o.a).toInt * (s.g o.b).toNat)).extractLsb' 64 64)
  | .addw o => some (o.d, o.use, sext32 (s.g o.a + s.g o.b))
  | .subw o => some (o.d, o.use, sext32 (s.g o.a - s.g o.b))
  | .mulw o => some (o.d, o.use, sext32 (s.g o.a * s.g o.b))
  | .sllw o => some (o.d, o.use, sext32 (s.g o.a * BitVec.ofNat 64 (2 ^ ((s.g o.b).extractLsb' 0 5).toNat)))
  | .srlw o => some (o.d, o.use, (BitVec.ofNat 32 (((s.g o.a).extractLsb' 0 32).toNat / 2 ^ ((s.g o.b).extractLsb' 0 5).toNat)).signExtend 64)
  | .sraw o => some (o.d, o.use, BitVec.ofInt 64 (((s.g o.a).extractLsb' 0 32).toInt / 2 ^ ((s.g o.b).extractLsb' 0 5).toNat))
  | .clz o => some (o.d, o.use, BitVec.ofNat 64 (((List.range 64).takeWhile fun i => !(s.g o.a).getLsbD (63 - i)).length))
  | .ctz o => some (o.d, o.use, BitVec.ofNat 64 (((List.range 64).takeWhile fun i => !(s.g o.a).getLsbD i).length))
  | .popc o => some (o.d, o.use, BitVec.ofNat 64 (((List.range 64).filter fun i => (s.g o.a).getLsbD i).length))
  | .brev o => some (o.d, o.use, (s.g o.a).reverse)
  | .bswap o => some (o.d, o.use, (List.range 8).foldr (fun i w => w ||| ((s.g o.a).extractLsb' (8 * i) 8).zeroExtend 64 <<< (8 * (7 - i))) 0)
  | .sextb o => some (o.d, o.use, ((s.g o.a).extractLsb' 0 8).signExtend 64)
  | .sexth o => some (o.d, o.use, ((s.g o.a).extractLsb' 0 16).signExtend 64)
  | .sextw o => some (o.d, o.use, sext32 (s.g o.a))
  | .zextw o => some (o.d, o.use, ((s.g o.a).extractLsb' 0 32).zeroExtend 64)
  | .csel o => some (o.d, o.useRd, if s.g o.a ≠ 0 then s.g o.b else s.g o.d)
  | .addi o => some (o.d, o.use, s.g o.a + o.i.signExtend 64)
  | .andi o => some (o.d, o.use, s.g o.a &&& o.i.signExtend 64)
  | .ori o => some (o.d, o.use, s.g o.a ||| o.i.signExtend 64)
  | .xori o => some (o.d, o.use, s.g o.a ^^^ o.i.signExtend 64)
  | .slti o => some (o.d, o.use, oneIf ((s.g o.a).toInt < o.i.toInt))
  | .sltiu o => some (o.d, o.use, oneIf ((s.g o.a).toNat < (o.i.signExtend 64).toNat))
  | .addiw o => some (o.d, o.use, sext32 (s.g o.a + o.i.signExtend 64))
  | .slli o => some (o.d, o.use, s.g o.a * BitVec.ofNat 64 (2 ^ o.n.toNat))
  | .srli o => some (o.d, o.use, BitVec.ofNat 64 ((s.g o.a).toNat / 2 ^ o.n.toNat))
  | .srai o => some (o.d, o.use, BitVec.ofInt 64 ((s.g o.a).toInt / 2 ^ o.n.toNat))
  | .roli o => some (o.d, o.use, (s.g o.a ++ s.g o.a).extractLsb' (64 - o.n.toNat) 64)
  | .lui o => some (o.d, o.use, (o.i ++ 0#12).signExtend 64)
  | .auipc o => some (o.d, o.use, s.me.pc + (o.i ++ 0#12).signExtend 64)
  | _ => none

/-- A stored fp32 value is a NaN (R213). -/
def isNan32 (v : BitVec 32) : Bool := v.extractLsb' 23 8 == 0xFF#8 && v.extractLsb' 0 23 != 0#23

/-- The class bit of a stored fp32 value (R87): sign, exponent field, fraction. -/
def class32 (v : BitVec 32) : Nat :=
  let ex := (v.extractLsb' 23 8).toNat
  let fr := (v.extractLsb' 0 23).toNat
  let neg := v.getLsbD 31
  if ex = 255 then (if fr = 0 then (if neg then 0 else 7) else if fr < 2 ^ 22 then 8 else 9)
  else if ex = 0 then (if fr = 0 then (if neg then 3 else 4) else if neg then 2 else 5)
  else if neg then 1 else 6

/-- rd, the registers used, and the value of rd, for the FP instructions that set no flag (R87, R91). -/
def plainFpResult (s : State) : Instr → Option (RegNo × Use × Word)
  | .fclass o => some (o.d, o.use, BitVec.ofNat 64 (2 ^ class32 ((s.g o.a).extractLsb' 0 32)))
  | .fneg o => some (o.d, o.use,
      if isNan32 ((s.g o.a).extractLsb' 0 32) then 0x7FC00000#64 else ((s.g o.a).extractLsb' 0 32 ^^^ 0x80000000#32).zeroExtend 64)
  | .fabs o => some (o.d, o.use,
      if isNan32 ((s.g o.a).extractLsb' 0 32) then 0x7FC00000#64 else ((s.g o.a).extractLsb' 0 32 &&& 0x7FFFFFFF#32).zeroExtend 64)
  | _ => none

/-- rd, the registers used, and the value of rd with the flags raised, for the FP instructions whose result is in place at once
(R66, R83 to R86, R88 to R90). -/
def fpResult (s : State) : Instr → Option (RegNo × Use × (Word × FFlags))
  | .fadd o => some (o.d, o.use, faddW (fpctlMode s.me.fpctl) (s.g o.a) (s.g o.b))
  | .fsub o => some (o.d, o.use, fsubW (fpctlMode s.me.fpctl) (s.g o.a) (s.g o.b))
  | .fmul o => some (o.d, o.use, fmulW (fpctlMode s.me.fpctl) (s.g o.a) (s.g o.b))
  | .fma o => some (o.d, o.useRd, fmaW (fpctlMode s.me.fpctl) (s.g o.a) (s.g o.b) (s.g o.d))
  | .fmin o => some (o.d, o.use, fminmaxW false (s.g o.a) (s.g o.b))
  | .fmax o => some (o.d, o.use, fminmaxW true (s.g o.a) (s.g o.b))
  | .feq o => some (o.d, o.use, fcmpW 0 (s.g o.a) (s.g o.b))
  | .flt o => some (o.d, o.use, fcmpW 1 (s.g o.a) (s.g o.b))
  | .fle o => some (o.d, o.use, fcmpW 2 (s.g o.a) (s.g o.b))
  | .ftoi o => some (o.d, o.use, ftoiW (s.g o.a))
  | .ftoiu o => some (o.d, o.use, ftoiuW (s.g o.a))
  | .itof o => some (o.d, o.use, itofW (fpctlMode s.me.fpctl) (s.g o.a))
  | .itofu o => some (o.d, o.use, itofuW (fpctlMode s.me.fpctl) (s.g o.a))
  | .ftobf o => some (o.d, o.use, ftobfW (fpctlMode s.me.fpctl) (s.g o.a))
  | .bftof o => some (o.d, o.use, bftofW (s.g o.a))
  | .ftoh o => some (o.d, o.use, ftohW (fpctlMode s.me.fpctl) (s.g o.a))
  | .htof o => some (o.d, o.use, htofW (s.g o.a))
  | _ => none

/-- rd, the registers used, and the result with its flags that a long-latency instruction will fill rd with (R65, R71, R83); the
last component says that FPCTL is to take flags. -/
def longResult (s : State) : Instr → Option (RegNo × Use × (Word × FFlags) × Bool)
  | .div o => some (o.d, o.use, (BitVec.ofInt 64 (quotRem (s.g o.a).toInt (s.g o.b).toInt).1, 0), false)
  | .divu o => some (o.d, o.use, (BitVec.ofInt 64 (quotRem (s.g o.a).toNat (s.g o.b).toNat).1, 0), false)
  | .rem o => some (o.d, o.use, (BitVec.ofInt 64 (quotRem (s.g o.a).toInt (s.g o.b).toInt).2, 0), false)
  | .remu o => some (o.d, o.use, (BitVec.ofInt 64 (quotRem (s.g o.a).toNat (s.g o.b).toNat).2, 0), false)
  | .fdiv o => some (o.d, o.use, fdivW (fpctlMode s.me.fpctl) (s.g o.a) (s.g o.b), true)
  | .fsqrt o => some (o.d, o.use, fsqrtW (fpctlMode s.me.fpctl) (s.g o.a), true)
  | _ => none

/-- The registers used, the register that takes PC + 4 (g0 where none does) and the next PC of a jump or branch (R79, R80, R82). -/
def transfer (s : State) : Instr → Option (Use × RegNo × Word)
  | .jal o => some (o.use, o.d, s.me.pc + o.i.signExtend 64 * 4)
  | .jalr o => some (o.use, o.d, s.g o.a + o.i.signExtend 64)
  | .beq o => some (o.use, 0, if s.g o.a = s.g o.b then s.me.pc + o.i.signExtend 64 * 4 else s.me.pc + 4)
  | .bne o => some (o.use, 0, if s.g o.a ≠ s.g o.b then s.me.pc + o.i.signExtend 64 * 4 else s.me.pc + 4)
  | .blt o => some (o.use, 0, if (s.g o.a).toInt < (s.g o.b).toInt then s.me.pc + o.i.signExtend 64 * 4 else s.me.pc + 4)
  | .bge o => some (o.use, 0, if (s.g o.a).toInt ≥ (s.g o.b).toInt then s.me.pc + o.i.signExtend 64 * 4 else s.me.pc + 4)
  | .bltu o => some (o.use, 0, if (s.g o.a).toNat < (s.g o.b).toNat then s.me.pc + o.i.signExtend 64 * 4 else s.me.pc + 4)
  | .bgeu o => some (o.use, 0, if (s.g o.a).toNat ≥ (s.g o.b).toNat then s.me.pc + o.i.signExtend 64 * 4 else s.me.pc + 4)
  | _ => none

/-- What the fill of a pending register leaves in it (R39): its value, but 0 in a register that a REPART has given up (R95). -/
def filled (c : Ctx) (shadow : Bool) (n : RegNo) (v : GReg) : GReg := if shadow = false ∧ n.toNat ∈ c.void then GReg.zero else v

/-- What an instruction that goes on leaves of its thread and of the other contexts: every register but those of the list, the
bank that is not present, the mode and status but for the mask count, which steps down, FPCTL, the saved registers, and the
staged structures. -/
structure Rest (s t : State) (l : List RegNo) : Prop where
  regs : ∀ n, n ∉ l → t.me.reg n = s.me.reg n
  hidden : ∀ n : RegNo, 24 ≤ n.toNat → n.toNat < 32 → t.me.regIn (!s.me.ih) n = s.me.regIn (!s.me.ih) n
  status : t.me.mode = s.me.mode ∧ t.me.pmode = s.me.pmode ∧ t.me.th = s.me.th ∧ t.me.ih = s.me.ih ∧
    t.me.icount = tick s.me.icount ∧ t.me.fpctl = s.me.fpctl
  saved : t.me.cause = s.me.cause ∧ t.me.epc = s.me.epc ∧ t.me.tval = s.me.tval ∧ t.me.scratch = s.me.scratch ∧
    t.me.ivec = s.me.ivec ∧ t.me.iepc = s.me.iepc
  staged : t.me.streams = s.me.streams ∧ t.me.desc = s.me.desc ∧ t.me.group = s.me.group ∧ t.me.grid = s.me.grid
  others : ∀ g k, (g, k) ≠ s.cur → t.ctx g k = s.ctx g k

/-! ### Loads and stores, as R147 and R148 give them -/

/-- The fields, the size, sign-extension and whether a register pair is loaded, for each load of R147. -/
def loadForm : Instr → Option (Ld × Nat × Bool × Bool)
  | .lb o => some (o, 1, true, false)
  | .lbu o => some (o, 1, false, false)
  | .lh o => some (o, 2, true, false)
  | .lhu o => some (o, 2, false, false)
  | .lw o => some (o, 4, true, false)
  | .lwu o => some (o, 4, false, false)
  | .ld o => some (o, 8, false, false)
  | .lq o => some (o, 16, false, true)
  | _ => none

/-- The registers a load uses. -/
def loadUse (o : Ld) (pair : Bool) : Use := if pair then o.usePair else o.use

/-- The bytes of a load as a register holds them: the little-endian number, sign-extended or zero-extended. -/
def extended (signed : Bool) (bs : List Byte) : Word :=
  if signed then (BitVec.ofNat (8 * bs.length) (leNat bs)).signExtend 64 else BitVec.ofNat 64 (leNat bs)

/-- The fields, the size, the data and their tags, for each store of R147. -/
def storeForm (s : State) : Instr → Option (St × Use × List Byte × Bool × Bool)
  | .sb o => some (o, o.use, leBytes 1 (s.g o.d).toNat, s.gtag o.d, false)
  | .sh o => some (o, o.use, leBytes 2 (s.g o.d).toNat, s.gtag o.d, false)
  | .sw o => some (o, o.use, leBytes 4 (s.g o.d).toNat, s.gtag o.d, false)
  | .sd o => some (o, o.use, leBytes 8 (s.g o.d).toNat, s.gtag o.d, false)
  | .sq o => some (o, o.usePair, leBytes 8 (s.g o.d).toNat ++ leBytes 8 (s.g (pairOf o.d)).toNat, s.gtag o.d, s.gtag (pairOf o.d))
  | _ => none

/-- The address of a load or store of R147. -/
def memAddr (s : State) (a : RegNo) (imm : BitVec 8) (size : Nat) : Word := s.g a + imm.signExtend 64 * BitVec.ofNat 64 size

/-- Nothing the thread has outstanding holds back its access to the line of w (R148, R157, R160). -/
def Unhindered (s : State) (w : Where) (scope : Nat) : Prop :=
  vectorBusy s s.cur.1 s.cur.2 = false ∧ lineBusy s s.cur.1 s.cur.2 (lineOf w.pa) = false ∧
  (scope = 0 ∨ scopedPending s s.cur.1 s.cur.2 = false)

/-! ### Atomics and full/empty words -/

/-- The fields, the width (true for 8 bytes) and the operation number of each atomic (R171, R172). -/
def atomForm : Instr → Option (Am × Bool × Nat)
  | .amowSwap o => some (o, false, 0)
  | .amowAdd o => some (o, false, 1)
  | .amowAnd o => some (o, false, 2)
  | .amowOr o => some (o, false, 3)
  | .amowXor o => some (o, false, 4)
  | .amowMin o => some (o, false, 5)
  | .amowMax o => some (o, false, 6)
  | .amowMinu o => some (o, false, 7)
  | .amowMaxu o => some (o, false, 8)
  | .amowCas o => some (o, false, 9)
  | .amowAddbnd o => some (o, false, 10)
  | .amowFadd o => some (o, false, 11)
  | .amodSwap o => some (o, true, 0)
  | .amodAdd o => some (o, true, 1)
  | .amodAnd o => some (o, true, 2)
  | .amodOr o => some (o, true, 3)
  | .amodXor o => some (o, true, 4)
  | .amodMin o => some (o, true, 5)
  | .amodMax o => some (o, true, 6)
  | .amodMinu o => some (o, true, 7)
  | .amodMaxu o => some (o, true, 8)
  | .amodCas o => some (o, true, 9)
  | .amodAddbnd o => some (o, true, 10)
  | _ => none

/-- The width in bytes. -/
def atomSize (wide : Bool) : Nat := if wide then 8 else 4

/-- CAS and ADDBND read rd as the compared value and the bound (R25). -/
def atomUse (o : Am) (aop : Nat) : Use := if aop = 9 ∨ aop = 10 then o.useRd else o.use

/-- The operand that rd gives an atomic. -/
def atomThird (s : State) (o : Am) (aop : Nat) : Word := if aop = 9 ∨ aop = 10 then s.g o.d else 0

/-- The number an atomic stores, of the n-bit old value and operand b, and c from rd (R171, R172). -/
def atomStored (n aop old b c : Nat) : Nat :=
  let sg (x : Nat) : Int := if x < 2 ^ (n - 1) then x else (x : Int) - 2 ^ n
  match aop with
  | 0 => b
  | 1 => (old + b) % 2 ^ n
  | 2 => old &&& b
  | 3 => old ||| b
  | 4 => old ^^^ b
  | 5 => if sg old ≤ sg b then old else b
  | 6 => if sg b ≤ sg old then old else b
  | 7 => min old b
  | 8 => max old b
  | 9 => if old = c then b else old
  | 10 => if old + b ≤ c then old + b else old
  | _ => (addV fp32 .rne (decodeF fp32 old) (decodeF fp32 b)).1 % 2 ^ n

/-- The number the bytes of an atomic's word hold after it: old is the number they held. -/
def atomAfter (a : AtomOp) (old : Nat) : Nat :=
  if a.wide then atomStored 64 a.aop old a.b.toNat a.c.toNat
  else atomStored 32 a.aop old (a.b.toNat % 2 ^ 32) (a.c.toNat % 2 ^ 32)

/-- The value an atomic returns: the old number, whole, sign-extended, or zero-extended for FADD (R172). -/
def atomReturns (a : AtomOp) (old : Nat) : Word :=
  if a.wide then BitVec.ofNat 64 old
  else if a.aop = 11 then BitVec.ofNat 64 old else (BitVec.ofNat 32 old).signExtend 64

/-- The atomic that an instruction at a place sends out. -/
def sentAtom (s : State) (o : Am) (wide : Bool) (aop : Nat) (w : Where) : AtomOp :=
  ⟨s.serial, s.cur.1, s.cur.2, (coreBasin s s.cur.1).getD 64, sliceTower s s.cur.1, inShadow s.me.ih o.d, w.pa, w.vault, wide, aop, s.g o.b,
    atomThird s o aop, o.d, s.sc o.s, false, none, s.serial, none⟩

/-- No store or atomic comes before an atomic on its way to the home of its line, and its tower holds nothing back (R157, R350,
R362). -/
def FirstOnItsWay (s : State) (a : AtomOp) : Prop :=
  (s.tower a.tower).outbound = [] ∧ s.remotes = [] ∧ a.held s (atomTower s a) = false ∧
  wrNext s a.tower (homeSlice s a.vault a.addr / 256) a.id = true

/-- The line of an atomic is gathered at its home slice, or, for a basin that has no ways, may be gathered at its controller
(R346, R359). -/
def AtHome (s : State) (a : AtomOp) : Prop :=
  (homeHolds s (lineOf a.addr) (homeSlice s a.vault a.addr) (basinMask s a.basin)).isSome = true

/-- The atomic may set out at once: its place is writable and nothing of the thread is in its way (R157, R160, R161, R166). -/
def AtomFree (s : State) (o : Am) (w : Where) : Prop :=
  lineBuffered s s.cur.1 (lineOf w.pa) = false ∧ vectorBusy s s.cur.1 s.cur.2 = false ∧
  (o.s.toNat = 0 ∨ scopedPending s s.cur.1 s.cur.2 = false) ∧ s.me.fences = [] ∧ o.o = false

/-- The word that a full/empty instruction names through ra, on the core's own scratchpad (R173). -/
def OwnFeWord (s : State) (va : Word) (off : Nat) (own : Bool) : Prop :=
  va.toNat % 8 = 0 ∧ feWord s va = some (s.cur.1, off, own) ∧ vectorBusy s s.cur.1 s.cur.2 = false

/-- The thread waits for a result of the core's unit, which is queued as the state's newest operation. -/
def AwaitsResult (s t : State) (kind : FeKind) (off : Nat) (rd : RegNo) (r : FeRes) : Prop :=
  t.me.park = some (.feOp s.serial) ∧ t.me.pc = s.me.pc ∧ t.me.regs = s.me.regs ∧ t.me.shadow = s.me.shadow ∧
  t.feOps = s.feOps ++ [⟨s.serial, s.cur.1, s.cur.2, kind, s.cur.1, off, 0, false, s.serial, rd, some r, s.serial⟩]

/-- The thread takes a trap (R299, R300): cause, TVAL and the PC are saved, PMODE takes the mode, TH is set, the mask count is
cleared, the handler mode is entered at TVEC; registers, memory and every other context stay. -/
def Traps (s t : State) (cause : Nat) (tval : Word) : Prop :=
  t.me.cause = BitVec.ofNat 8 cause ∧ t.me.tval = tval ∧ t.me.epc = s.me.pc ∧ t.me.pc = s.myCore.tvec ∧
  t.me.pmode = BitVec.ofNat 2 s.me.mode.code ∧ t.me.mode = (if s.me.mode = .m then .m else .s) ∧ t.me.th = true ∧
  t.me.icount = 0 ∧ t.me.ih = s.me.ih ∧ t.me.regs = s.me.regs ∧ t.me.shadow = s.me.shadow ∧ t.me.fpctl = s.me.fpctl ∧
  t.me.scratch = s.me.scratch ∧ t.me.evl = s.me.evl ∧ (∀ a, readByte t.mem a = readByte s.mem a) ∧
  ∀ g k, (g, k) ≠ s.cur → t.ctx g k = s.ctx g k

/-- The privileged instructions with their lowest mode, and whether they are for context 0 only (R35). -/
def privileged : Instr → Option (Mode × Bool)
  | .eret => some (.s, false)
  | .preempt _ => some (.s, false)
  | .resume _ => some (.s, false)
  | .tlbinv _ => some (.s, false)
  | .tpeek _ => some (.s, false)
  | .start _ => some (.s, true)
  | .reap _ => some (.s, true)
  | .ctxput _ => some (.s, true)
  | .ctxget _ => some (.s, true)
  | .repart _ => some (.s, true)
  | .halt => some (.m, false)
  | .srr o => some (Mode.ofCode (o.n.toNat / 1024), false)
  | .srw o => some (Mode.ofCode (o.n.toNat / 1024), false)
  | .srs o => some (Mode.ofCode (o.n.toNat / 1024), false)
  | .src o => some (Mode.ofCode (o.n.toNat / 1024), false)
  | _ => none

/-- The value of a system register as SRR reads it (R303, R304). -/
def sysReads (s : State) (n : Nat) : Option Word :=
  match n with
  | 0x000 => some s.me.evl
  | 0x001 => some s.me.ivec
  | 0x002 => some s.me.iepc
  | 0x003 => some s.me.fpctl
  | 0x200 => some s.caps
  | 0x203 => some s.ids
  | 0x204 => some (if s.me.mode = .u then 0 else if s.me.mode = .s then 1 else 3)
  | 0x400 => some (s.me.icount.zeroExtend 64 <<< 16 ||| s.me.pmode.zeroExtend 64 <<< 8 ||| (if s.me.ih then 4 else 0) ||| (if s.me.th then 2 else 0))
  | 0x401 => some (s.me.cause.zeroExtend 64)
  | 0x402 => some s.me.epc
  | 0x403 => some s.me.tval
  | 0x404 => some s.me.scratch
  | 0x405 => some s.myCore.tvec
  | 0x406 => some s.myCore.savebase
  | 0x407 => some s.myCore.savesize
  | 0x408 => some s.myCore.probeint
  | 0xC00 => some s.myCore.tenant
  | 0xC01 => some s.myCore.ptbase
  | _ => none

/-- The new value that SRW, SRS or SRC gives a register with value x, from rd (R305). -/
def sysNew (x : Word) : Instr → Word → Option (Swr × Word)
  | .srw o, v => some (o, v)
  | .srs o, v => some (o, x ||| v)
  | .src o, v => some (o, x &&& ~~~ v)
  | _, _ => none

/-- The system registers that instructions write (R303). -/
def writableRegs : List Nat := [0x000, 0x001, 0x002, 0x003, 0x400, 0x401, 0x402, 0x403, 0x404, 0x405, 0x406, 0x407, 0x408, 0xC00, 0xC01]

/-- The save area of a base and a size that a core accepts (R127, R305): no frame is live in it, both are multiples of 64, and it
lies from 0x1_0000 up within the scratchpad. -/
def acceptsArea (c : Core) (base size : Word) : Prop :=
  (∀ f ∈ c.frames, f.spilled = true) ∧ base.toNat % 64 = 0 ∧ size.toNat % 64 = 0 ∧ 0x10000 ≤ base.toNat ∧
  (if size = 0 then base.toNat < c.units * 65536 else base.toNat + size.toNat ≤ c.units * 65536)

/-- A system register that held x, after a write of v under its own rules (R127, R198, R201, R215, R303 to R305), y being its
value then: reserved bits keep their value or read zero, and a refused write changes nothing. The mask count in STATUS is the
instruction's own (R180). -/
def holdsAfter (s : State) (n : Nat) (x v y : Word) : Prop :=
  match n with
  | 0x000 => y = (v &&& ~~~(1#64 <<< 62)) ||| (x &&& (1#64 <<< 62))
  | 0x001 => y = v &&& ~~~(0x3F#64)
  | 0x003 => y = v &&& 0x33F
  | 0x400 => y = ((if s.me.icount = 0 then 0 else s.me.icount - 1).zeroExtend 64 <<< 16) ||| (v &&& 2) ||| (x &&& 4) |||
      ((if v.extractLsb' 8 2 = 2 ∨ (v.extractLsb' 8 2 = 3 ∧ s.me.mode = .s) then x else v) &&& 0x300)
  | 0x401 => y = v &&& 0xFF
  | 0x405 => y = v &&& ~~~(0x3F#64)
  | 0x406 => (acceptsArea s.myCore v s.myCore.savesize → y = v) ∧ (¬ acceptsArea s.myCore v s.myCore.savesize → y = x)
  | 0x407 => (acceptsArea s.myCore s.myCore.savebase v → y = v) ∧ (¬ acceptsArea s.myCore s.myCore.savebase v → y = x)
  | 0x408 => y = if v.toNat < 2 ^ 32 then v else x
  | 0xC00 => y = if v.getLsbD 6 then 0x40 else v &&& 0x3F
  | 0xC01 => y = v &&& ~~~(0x1FFF#64)
  | _ => y = v

/-- The thread has gone on at PC + 4 with rd holding a value; its other registers, mode and FPCTL are as they were. -/
def Answers (s t : State) (d : RegNo) (v : Word) : Prop :=
  t.me.pc = s.me.pc + 4 ∧ t.me.park = none ∧ Written t d v false ∧ (∀ n, n ≠ d → t.me.reg n = s.me.reg n) ∧
  t.me.mode = s.me.mode ∧ t.me.fpctl = s.me.fpctl

/-- Every byte of memory outside n bytes at an address reads as before. -/
def Outside (s t : State) (a n : Nat) : Prop := ∀ b, b < a ∨ a + n ≤ b → readByte t.mem b = readByte s.mem b

/-- The place of the group record at an address, which the thread's group instructions reach at once (R124). -/
def GroupRecord (s : State) (va : Word) (w : Where) : Prop :=
  va.toNat % 64 = 0 ∧ translate s s.who va .atomic 8 = .ok w ∧ placeOf s w.pa = .dram ∧
  lineDraining s s.cur.1 s.cur.2 (lineOf w.pa) = false ∧ s.me.fences = []

/-- The phase of a record has been released to a sense, and the stores of its arrivals can be seen (R109, R110). -/
def PhaseOver (s : State) (r : Nat) (sense : Bool) : Prop := recSense s r = sense ∧ phaseVisible s r = true

/-- The thread's GLAZE may launch a descriptor at once (R323 to R330, R342): the descriptor W of 16 dwords lies in a scratchpad, its
checks pass, and its grid takes a slot of tower n with its scoreboard's lines at places. s1 is the state once the slot is chosen. -/
structure Launches (s : State) (o : R3) (W : List Word) (n slot : Nat) (places : List Where) (s1 : State) : Prop where
  aligned : (s.g o.a).toNat % 128 = 0
  words : ∃ w g off, translate s s.who (s.g o.a) .load 128 = .ok w ∧ placeOf s w.pa = .spad g off ∧
    W = (if o.b ≠ 0 ∧ s.g o.b ≠ 0 then (wordsOf 16 (readBytes s.mem w.pa 128)).set 9 (s.g o.b) else wordsOf 16 (readBytes s.mem w.pa 128))
  tower : n = holdingTower (sliceTower s s.cur.1) (maskTowers s (recordBasin s) (glWord W 3 / 2 ^ 48 % 256))
  entry : freeGrid s n = (some slot, s1)
  legal : glCheck W (maskTowers s (recordBasin s) (glWord W 3 / 2 ^ 48 % 256)) (recordBasin s) false = none
  board : boardPlaces s1 (fun s a => translateNow s s.who a .store 128) (W.getD 6 0) (boardLines (glX W * glY W * glZ W)) = (.ok places, s1)
  quiet : vectorBusy s s.cur.1 s.cur.2 = false ∧ boardDraining s1 places = none ∧ s.me.relMark = none ∧ visibleAt s1 3 s.cur.1 s1.serial = true

/-- A register number of a bank names a register: in the shadow bank only 24 to 31 do (R43). -/
def BankReg (shadow : Bool) (n : RegNo) : Prop := n ≠ 0 ∧ (shadow = true → 24 ≤ n.toNat ∧ n.toNat < 32)

/-- The end that a handle in a register names for an instruction of the thread, after the checks of R183. -/
def Names (s : State) (a : RegNo) (kind : Option Bool) (right id : Nat) (rcv : Bool) (c : Chan) : Prop :=
  checkEnd s (s.g a) (s.gtag a) kind right = some (id, rcv, c)

/-- A word may be sent on a channel at once (R206): its send end is at the core, the packet has room, the receive end is open and
there is a credit, and the release it makes at the scope is satisfied. -/
structure Sends (s : State) (id : Nat) (c : Chan) (k : Bool) (scope : Nat) : Prop where
  here : c.sendState = 0
  packet : k = true ∨ c.openPkt < 31
  idle : vectorBusy s s.cur.1 s.cur.2 = false
  peerOpen : peerClosed s id c = false
  credit : 0 < c.credits
  visible : s.me.relMark = none ∧ visibleAt s scope s.cur.1 s.serial = true

/-- A participant of a deadlock as its record names it (R308): SLOT of the end it waits on, and its global context number. -/
def participant (s : State) (p : Nat × Nat × Nat × Bool) : Word :=
  BitVec.ofNat 64 (((flook s.chans p.2.2.1).map fun c => (c.theEnd p.2.2.2).slot).getD 0 * 2 ^ 16 + (16 * p.1 + p.2.1))

/-- Word i of the record posted at number put in a fault queue of a header and a size (R306, R307). -/
def recordWord (s : State) (h size put i : Nat) : Word := read64 s.mem (h + 64 + (put + i / 8) % size * 64 + i % 8 * 8)

/-! ### Vector instructions -/

/-- The vector instruction that a constructor stands for: function code, formats, streams and predicate (R241). -/
def vecForm (s : State) : Instr → Option VIns
  | .vadd o => some ⟨0x00, o.f.toNat, o.d, [o.a, o.b], o.m, 0⟩
  | .vsub o => some ⟨0x01, o.f.toNat, o.d, [o.a, o.b], o.m, 0⟩
  | .vmul o => some ⟨0x02, o.f.toNat, o.d, [o.a, o.b], o.m, 0⟩
  | .vfma o => some ⟨0x03, o.f.toNat, o.d, [o.a, o.b, o.c], o.m, 0⟩
  | .vdiv o => some ⟨0x04, o.f.toNat, o.d, [o.a, o.b], o.m, 0⟩
  | .vmin o => some ⟨0x05, o.f.toNat, o.d, [o.a, o.b], o.m, 0⟩
  | .vmax o => some ⟨0x06, o.f.toNat, o.d, [o.a, o.b], o.m, 0⟩
  | .vabs o => some ⟨0x07, o.f.toNat, o.d, [o.a], o.m, 0⟩
  | .vneg o => some ⟨0x08, o.f.toNat, o.d, [o.a], o.m, 0⟩
  | .vsqrt o => some ⟨0x09, o.f.toNat, o.d, [o.a], o.m, 0⟩
  | .vrcp o => some ⟨0x0A, o.f.toNat, o.d, [o.a], o.m, 0⟩
  | .vexp2 o => some ⟨0x0B, o.f.toNat, o.d, [o.a], o.m, 0⟩
  | .vadds o => some ⟨0x0C, o.f.toNat, o.d, [o.a, o.b], o.m, 0⟩
  | .vsubs o => some ⟨0x0D, o.f.toNat, o.d, [o.a, o.b], o.m, 0⟩
  | .vmulhi o => some ⟨0x0E, o.f.toNat, o.d, [o.a, o.b], o.m, 0⟩
  | .vshl o => some ⟨0x0F, o.f.toNat, o.d, [o.a, o.b], o.m, 0⟩
  | .vshr o => some ⟨0x10, o.f.toNat, o.d, [o.a, o.b], o.m, 0⟩
  | .vsra o => some ⟨0x11, o.f.toNat, o.d, [o.a, o.b], o.m, 0⟩
  | .vand o => some ⟨0x12, o.f.toNat, o.d, [o.a, o.b], o.m, 0⟩
  | .vor o => some ⟨0x13, o.f.toNat, o.d, [o.a, o.b], o.m, 0⟩
  | .vxor o => some ⟨0x14, o.f.toNat, o.d, [o.a, o.b], o.m, 0⟩
  | .vcmpeq o => some ⟨0x15, o.f.toNat, o.d, [o.a, o.b], o.m, 0⟩
  | .vcmplt o => some ⟨0x16, o.f.toNat, o.d, [o.a, o.b], o.m, 0⟩
  | .vcmple o => some ⟨0x17, o.f.toNat, o.d, [o.a, o.b], o.m, 0⟩
  | .vsel o => some ⟨0x18, o.f.toNat, o.d, [o.a, o.b, o.c], o.m, 0⟩
  | .vcvt o => some ⟨0x19, o.f.toNat, o.d, [o.a], o.m, 0⟩
  | .vpack o => some ⟨0x1A, o.f.toNat, o.d, [o.a, o.b], o.m, 0⟩
  | .vunpack o => some ⟨0x1B, o.f.toNat, o.d, [o.a], o.m, 0⟩
  | .vradd o => some ⟨0x1C, o.f.toNat, o.d, [o.a], o.m, 0⟩
  | .vrmax o => some ⟨0x1D, o.f.toNat, o.d, [o.a], o.m, 0⟩
  | .vrmin o => some ⟨0x1E, o.f.toNat, o.d, [o.a], o.m, 0⟩
  | .vsacc o => some ⟨0x1F, 0, o.d, [o.a, o.b, o.c], o.m, 0⟩
  | .vxacc o => some ⟨0x20, 9, o.d, [o.a, o.b, o.c], o.m, 0⟩
  | .vxcvt o => some ⟨0x21, 0, o.d, [o.a], o.m, 0⟩
  | .vcopy o => some ⟨0x22, o.f.toNat, o.d, [o.a], o.m, 0⟩
  | .vperm o => some ⟨0x23, o.f.toNat, o.d, [o.a, o.b], o.m, 0⟩
  | .vsplat o => some ⟨64, (s.me.stream o.s).fmt, o.s, [], false, s.g o.g⟩
  | _ => none

/-- The registers a vector instruction uses: VSPLAT's value alone. -/
def vecUse : Instr → Use
  | .vsplat o => o.use
  | _ => ⟨[], [], []⟩

/-- A vector instruction is accepted (R236, R237): the queue has room, every stream supplies what it must within the permitted
scratchpad, its formats are legal, its destination meets no protected part of a frame (R310), and no ring lacks slots. -/
structure Accepted (s : State) (v : VIns) : Prop where
  room : (s.myCore.vjobs.filter fun j => decide (j.ctx = s.cur.2)).length < 4
  streams : checkUses s.myCore s.me (v.uses (v.steps s.me)) = none
  formats : v.badFormat s.me = none
  unguarded : v.protectedVec s.myCore s.me (v.steps s.me) = none
  slots : ((v.uses (v.steps s.me)).any fun u => lacksSlots s.myCore (s.me.stream u.n) u) = false

/-- The signed value of a w-bit number. -/
def signedAt (w x : Nat) : Int := if x < 2 ^ (w - 1) then x else (x : Int) - 2 ^ w

/-- The number of an integer held to lo … hi. -/
def held (w : Nat) (signed : Bool) (x : Int) : Nat :=
  if signed then (if x < -2 ^ (w - 1) then 2 ^ (w - 1) else if 2 ^ (w - 1) ≤ x then 2 ^ (w - 1) - 1 else (x % 2 ^ w).toNat)
  else if x < 0 then 0 else if 2 ^ w ≤ x then 2 ^ w - 1 else x.toNat

/-- The w-bit element that an integer instruction of two sources makes of elements a and b (R217, R242, R244). -/
def laneOf (op w : Nat) (signed : Bool) (a b : Nat) : Nat :=
  let x : Int := if signed then signedAt w a else a
  let y : Int := if signed then signedAt w b else b
  match op with
  | 0x00 => (a + b) % 2 ^ w
  | 0x01 => (a + (2 ^ w - b)) % 2 ^ w
  | 0x02 => (a * b) % 2 ^ w
  | 0x05 => if x ≤ y then a else b
  | 0x06 => if y ≤ x then a else b
  | 0x0C => held w signed (x + y)
  | 0x0D => held w signed (x - y)
  | 0x0F => a * 2 ^ (b % w) % 2 ^ w
  | 0x10 => a / 2 ^ (b % w)
  | 0x12 => a &&& b
  | 0x13 => a ||| b
  | _ => a ^^^ b

/-- The instructions of laneOf. -/
def laneOps : List Nat := [0x00, 0x01, 0x02, 0x05, 0x06, 0x0C, 0x0D, 0x0F, 0x10, 0x12, 0x13, 0x14]

/-- Element (i, j) that a plus-times K-step adds to an accumulator from 16-bit tiles a and b (R258, R259). -/
def wordDot (a b i j : Nat) : Int := ((List.range 16).map fun k => wordElem a (16 * i + k) * wordElem b (16 * j + k)).sum

/-- The k-bit two's-complement number in the first k planes of code i of an ni tile (R219, R220). -/
def planesValue (tile i k : Nat) : Int := (BitVec.ofNat k (((List.range k).map fun p => planeBit tile p i * 2 ^ (k - 1 - p)).sum)).toInt

/-- What a K-step makes of element (i, j) of an accumulator that holds v, before it is kept in 32 bits (R221, R259). -/
def kExact (x : TileSet) (a b i j : Nat) (v : Int) : Int :=
  match x.mode, x.semi with
  | 0, 0 => v + ((List.range 128).map fun k => planesValue a (128 * i + k) x.pa * planesValue b (128 * j + k) x.pb).sum
  | 0, _ => if v ≠ 0 ∨ ((List.range 128).any fun k => planeBit a 0 (128 * i + k) == 1 && planeBit b 0 (128 * j + k) == 1) = true then 1 else 0
  | _, 0 => v + wordDot a b i j
  | _, 1 => ((List.range 16).map fun k => if wordElem a (16 * i + k) = 32767 ∨ wordElem b (16 * j + k) = 32767 then 0x7FFFFFFF
      else wordElem a (16 * i + k) + wordElem b (16 * j + k)).foldl min v
  | _, 2 => ((List.range 16).map fun k => if wordElem a (16 * i + k) = -32768 ∨ wordElem b (16 * j + k) = -32768 then -0x80000000
      else wordElem a (16 * i + k) + wordElem b (16 * j + k)).foldl max v
  | _, _ => ((List.range 16).map fun k => wordElem a (16 * i + k) * wordElem b (16 * j + k)).foldl max v

/-- A value is outside the range of i32 (R221, R259). -/
def Beyond32 (v : Int) : Prop := v < -2 ^ 31 ∨ 2 ^ 31 ≤ v

/-- The thread binds the tile engine and names accumulator n in a register, and it is FULL (R264, R271). -/
def NamesAcc (s : State) (a : RegNo) (n : Nat) : Prop :=
  s.myCore.tile.binder = some s.cur.2 ∧ (s.g a).toNat = n ∧ n ≤ 3 ∧ s.myCore.tile.isFull n = true

/-- A register names a 4 KiB image of the own scratchpad (R276). -/
def NamesImage (s : State) (b : RegNo) (store : Bool) (off : Nat) : Prop :=
  (s.g b).toNat % 64 = 0 ∧ imageOff s (s.g b) (if store then .store else .load) = some off ∧
  (store = true → protectedAt s.myCore off 4096 = false) ∧ vectorBusy s s.cur.1 s.cur.2 = false

/-- The thread has gone on at PC + 4 with its registers as they were. -/
def GoesOn (s t : State) : Prop :=
  t.me.pc = s.me.pc + 4 ∧ t.me.park = none ∧ t.me.regs = s.me.regs ∧ t.me.shadow = s.me.shadow ∧ t.me.mode = s.me.mode ∧ t.me.fpctl = s.me.fpctl

/-- A NaN of a floating-point format (R213). -/
def isNanBits (t : FFmt) (v : Nat) : Bool := decide (v / 2 ^ t.fb % 2 ^ t.eb = 2 ^ t.eb - 1) && decide (v % 2 ^ t.fb ≠ 0)

/-- The element, with its flags, that a floating-point instruction makes of elements a, b and c (R242). -/
def floatLane (op : Nat) (t : FFmt) (rm : RMode) (a b c : Nat) : Nat × FFlags :=
  match op with
  | 0x00 => addV t rm (decodeF t a) (decodeF t b)
  | 0x01 => subV t rm (decodeF t a) (decodeF t b)
  | 0x02 => mulV t rm (decodeF t a) (decodeF t b)
  | 0x03 => fmaV t rm (decodeF t a) (decodeF t b) (decodeF t c)
  | 0x04 => divV t rm (decodeF t a) (decodeF t b)
  | 0x05 => minMaxF t false a b
  | 0x06 => minMaxF t true a b
  | 0x07 => (if isNanBits t a then canonNaN t else a % 2 ^ (t.eb + t.fb), 0)
  | 0x08 => (if isNanBits t a then canonNaN t else (a + 2 ^ (t.eb + t.fb)) % 2 ^ (t.eb + t.fb + 1), 0)
  | 0x09 => sqrtV t rm (decodeF t a)
  | 0x0A => divV t rm (.fin false 1 0) (decodeF t a)
  | _ => exp2V t rm (decodeF t a)

/-- The w-bit element that an integer instruction makes of elements a, b and c (R217, R242). -/
def intLane (op w : Nat) (signed : Bool) (a b c : Nat) : Nat :=
  let x : Int := if signed then signedAt w a else a
  let y : Int := if signed then signedAt w b else b
  match op with
  | 0x03 => (a * b + c) % 2 ^ w
  | 0x04 => if y = 0 then 2 ^ w - 1 else if x = -2 ^ (w - 1) ∧ y = -1 then a else (Int.tdiv x y % 2 ^ w).toNat
  | 0x07 => x.natAbs % 2 ^ w
  | 0x08 => (2 ^ w - a) % 2 ^ w
  | 0x0E => (x * y / 2 ^ w % 2 ^ w).toNat
  | 0x11 => (signedAt w a / 2 ^ (b % w) % 2 ^ w).toNat
  | _ => laneOf op w signed a b

/-- An exact number of units of 2^-64 as an x128 element, with XS where it saturates (R225). -/
def xHeld (x : Int) : Nat × FFlags := (held 128 true x, if x < -2 ^ 127 ∨ 2 ^ 127 ≤ x then flagXS else 0)

/-- The element and flags of the instructions that work element by element, in a format (R242, R244, R247). -/
def laneResult (op f : Nat) (rm : RMode) (a b c : Nat) : Nat × FFlags :=
  if op = 0x1F then fmaV fp32 .rne (decodeF fp32 b) (.fin (decide (signedAt 32 a < 0)) (signedAt 32 a).natAbs 0) (decodeF fp32 c)
  else if op = 0x22 then (a, 0)
  else if op ∈ [0x12, 0x13, 0x14] then (laneOf op (fmtBits f) false a b, 0)
  else if f ≤ 2 then floatLane op (ffmtOf f) rm a b c
  else if f = 9 then xHeld (if op = 0x00 then signedAt 128 a + signedAt 128 b else signedAt 128 a - signedAt 128 b)
  else (intLane op (fmtBits f) (decide (f ≤ 5)) a b c, 0)

/-- The formats that each of these instructions accepts (R242, R244, R247). -/
def laneFormat (op f : Nat) : Bool :=
  if op = 0x1F then decide (f = 0)
  else if op ∈ [0x12, 0x13, 0x14, 0x22] then decide (f ≤ 11)
  else if op ≤ 0x01 then decide (f ≤ 9)
  else if op ≤ 0x06 then decide (f ≤ 8)
  else if op ≤ 0x08 then decide (f ≤ 5)
  else if op ≤ 0x0B then decide (f ≤ 2)
  else decide (op ≤ 0x11) && decide (3 ≤ f) && decide (f ≤ 8)

/-- The relation of a comparison (R243): 0x15 equal, 0x16 less, 0x17 less or equal. -/
def relates (op f a b : Nat) : Bool × FFlags :=
  if f ≤ 2 then cmpF (ffmtOf f) (op - 0x15) a b
  else
    let v (x : Nat) : Int := if f ≤ 5 then signedAt (fmtBits f) x else x
    (if op = 0x15 then decide (a = b) else if op = 0x16 then decide (v a < v b) else decide (v a ≤ v b), 0)

/-- A value converted from one format to another (R245). -/
def converted (src dst : Nat) (rm : RMode) (v : Nat) : Nat × FFlags :=
  let w := fmtBits dst
  let x : Int := if src ≤ 5 then signedAt (fmtBits src) v else v
  if src ≤ 2 ∧ dst ≤ 2 then convF (ffmtOf dst) rm (decodeF (ffmtOf src) v)
  else if src ≤ 2 then
    let r := floatToInt rm (if dst ≤ 5 then -2 ^ (w - 1) else 0) (if dst ≤ 5 then 2 ^ (w - 1) - 1 else 2 ^ w - 1) (decodeF (ffmtOf src) v)
    ((r.1 % 2 ^ w).toNat, r.2)
  else if dst ≤ 2 then intToFloat (ffmtOf dst) rm x
  else (held w (decide (dst ≤ 5)) x, 0)

/-- Accumulator k of VXACC (R248): its lanes c × 2^e are added exactly and saturated once; the lowest lane whose exponent is out of
range decides instead. -/
def accumulated (cs es : List Nat) (on : Nat → Bool) (k d : Nat) : Nat × FFlags :=
  let c (l : Nat) : Int := signedAt 32 (cs.getD l 0)
  let e (l : Nat) : Int := signedAt 32 (es.getD l 0)
  let lanes := [4 * k, 4 * k + 1, 4 * k + 2, 4 * k + 3].filter fun l => on l && decide (c l ≠ 0)
  match lanes.find? fun l => decide (e l < -64) || decide (31 < e l) with
  | some l => (if c l < 0 then 2 ^ 127 else 2 ^ 127 - 1, flagXS)
  | none => xHeld (signedAt 128 d + (lanes.map fun l => c l * 2 ^ (e l + 64).toNat).sum)

/-- All the flags of some results. -/
def orAll (l : List (Nat × FFlags)) : FFlags := l.foldr (fun p f => p.2 ||| f) 0

/-- The halving of R228, n times over: the value left in the first lane, with the flags. -/
def halved (g : Nat → Nat → Nat × FFlags) : Nat → List Nat → Nat × FFlags
  | 0, l => (l.headD 0, 0)
  | n + 1, l =>
    let p := List.zipWith g (l.take (l.length / 2)) (l.drop (l.length / 2))
    ((halved g n (p.map Prod.fst)).1, orAll p ||| (halved g n (p.map Prod.fst)).2)

/-- The addition of VRADD's lanes (R228): in fp32 for the floating-point formats, modulo 2^w for the integer ones. -/
def laneSum (f : Nat) (rm : RMode) (a b : Nat) : Nat × FFlags :=
  if f ≤ 2 then addV fp32 rm (decodeF fp32 a) (decodeF fp32 b) else ((a + b) % 2 ^ fmtBits f, 0)

/-- An element as it enters VRADD (R228): widened to fp32, a masked-off one as a zero, -0 where rounding is down. -/
def laneIn32 (f : Nat) (rm : RMode) (on : Bool) (v : Nat) : Nat :=
  if f ≤ 2 then (if on then widen f v else if rm = .rdn then 2 ^ 31 else 0) else if on then v else 0

/-- The larger or the smaller of two elements with its flags, for VRMAX and VRMIN (R85, R246). -/
def laneExtreme (f : Nat) (mx : Bool) (a b : Nat) : Nat × FFlags :=
  if f ≤ 2 then minMaxF (ffmtOf f) mx a b
  else
    let v (x : Nat) : Int := if f ≤ 5 then signedAt (fmtBits f) x else x
    (if mx then (if v b ≤ v a then a else b) else if v a ≤ v b then a else b, 0)

/-- The extreme of some elements with its flags, if there is any element. -/
def extremeOf (f : Nat) (mx : Bool) : List Nat → Option (Nat × FFlags)
  | [] => none
  | a :: l => some (l.foldl (fun p b => ((laneExtreme f mx p.1 b).1, p.2 ||| (laneExtreme f mx p.1 b).2)) (a, 0))

/-- What VRMAX and VRMIN give when every element is masked off (R246). -/
def extremeEmpty (f : Nat) (mx : Bool) : Nat :=
  let w := fmtBits f
  if f ≤ 2 then encInf (ffmtOf f) mx
  else if f ≤ 5 then (if mx then 2 ^ (w - 1) else 2 ^ (w - 1) - 1)
  else if mx then 0 else 2 ^ w - 1

/-- The elements in a format of the vector that an operand names n positions on. -/
def vecAt (s : State) (g f : Nat) (v : VOp) (n : Nat) : List Nat := elems f (readSpad s g (v.offset n).toNat 64)

/-- A predicate admits element k in the present step (R238). -/
def onLane (s : State) (g : Nat) (j : VJob) (k : Nat) : Bool :=
  match j.mask with
  | none => true
  | some m => decide ((leNat (readSpad s g (m.offset j.step).toNat 64)) / 2 ^ k % 2 = 1)

/-- A vector does not meet a unit that an instruction has written. -/
def ApartFrom (r : Nat × Nat × List Byte) (v : VOp) (n : Nat) : Prop := r.2.1 + 8 ≤ (v.offset n).toNat ∨ (v.offset n).toNat + 64 ≤ r.2.1

/-- Core g's unit makes a step of an instruction next (R229, R230): the instruction has steps left, a stream that it names twice is
one stream (R236), and what it reads is not what its last seven steps have written (R240). -/
structure StepsNext (s : State) (g : Nat) (j : VJob) : Prop where
  wf : Memory.wf s.mem = true
  more : j.step < j.total
  one : ∀ u ∈ j.mask.toList ++ j.srcs, ∀ v ∈ j.mask.toList ++ j.srcs, u.n = v.n → u = v
  seven : ∀ m ∈ j.mask, m.n = 7
  apart : ∀ r ∈ j.recent, j.step < r.1 + 8 → (∀ m ∈ j.mask, ApartFrom r m j.step) ∧
    ∀ v ∈ j.srcs, ∀ i, i < (if j.op = 0x21 then 4 else 1) → ApartFrom r v (j.srcPos + i)
  next : (j.started = false ∧ (s.core g).vjobs.find? (fun k => !k.started) = some j ∧ ∀ k ∈ (s.core g).vjobs, ¬ (k.started = true ∧ k.step < k.total)) ∨
    (j.started = true ∧ (s.core g).vjobs.find? (fun k => k.started && decide (k.step < k.total)) = some j)

/-- The step has been made: it wrote nothing outside the n bytes at an offset, added flags, and the instruction stands one step
on. -/
def Stepped (s t : State) (g : Nat) (j j' : VJob) (off n : Nat) (fl : FFlags) : Prop :=
  Outside s t (windowOf g + off) n ∧ j' ∈ (t.core g).vjobs ∧ j'.id = j.id ∧ j'.started = true ∧ j'.step = j.step + 1 ∧
  j'.flags = j.flags ||| fl ∧ ∀ h k, t.ctx h k = s.ctx h k

/-- The result of a step in the elements of the destination (R212, R238): each admitted element is as given, stored in its
width, and the others keep what they held; n elements are computed, with their flags, and those from n on are 0. -/
def Results (s t : State) (g : Nat) (j j' : VJob) (f n : Nat) (on : Nat → Bool) (r : Nat → Nat × FFlags) : Prop :=
  vecAt t g f j.dst j.step = (List.range (fmtCount f)).map (fun k =>
    if n ≤ k then 0 else if on k = true then (r k).1 % 2 ^ fmtBits f else (vecAt s g f j.dst j.step).getD k 0) ∧
  Stepped s t g j j' (j.dst.offset j.step).toNat 64 (orAll (((List.range n).filter on).map r))

/-- The pointer block of a ring of a core is kept (R286): it lies within the scratchpad from 0x1_0000 up, outside the save area. -/
def KeepsBlock (c : Core) (r : Ring) : Prop :=
  0x10040 ≤ r.base ∧ r.base ≤ c.units * 65536 ∧ (r.base ≤ c.savebase.toNat ∨ c.savebase.toNat + c.savesize.toNat ≤ r.base - 64)

/-- After a change of ring m of core g (R286): a block that is kept holds the head and the tail, untagged, no other byte of memory
has changed, and neither has any full/empty bit; with no block, nothing has. -/
def BlockFollows (s t : State) (g m : Nat) : Prop :=
  (KeepsBlock (s.core g) ((t.core g).ring m) →
    read64 t.mem (windowOf g + (((t.core g).ring m).base - 64)) = BitVec.ofNat 64 ((t.core g).ring m).head ∧
    read64 t.mem (windowOf g + (((t.core g).ring m).base - 64) + 8) = BitVec.ofNat 64 ((t.core g).ring m).tail ∧
    tagAt t g (((t.core g).ring m).base - 64) = false ∧ tagAt t g (((t.core g).ring m).base - 56) = false ∧
    Outside s t (windowOf g + (((t.core g).ring m).base - 64)) 16) ∧
  (¬ KeepsBlock (s.core g) ((t.core g).ring m) → t.mem = s.mem) ∧ ∀ a, fullAt t g a = fullAt s g a

/-- The bank of register i of a frame and its number there (R310): the general registers, then the shadow bank. -/
def frameBank (wide : Bool) (i : Nat) : Bool × RegNo :=
  let r := if wide then 64 else 32
  (decide (r ≤ i), BitVec.ofNat 6 (if r ≤ i then i - r + 24 else i))

/-- Memory holds the frame of a thread of context k of core g at offset off of its scratchpad (R310, R408): one with no deque
records, that is no binder and holds no open packet. c is the thread as it stands. -/
structure FrameHolds (s t : State) (g k off : Nat) (c : Ctx) : Prop where
  size : read64 t.mem (windowOf g + off) = if (s.core g).wide then 28 else 24
  who : read64 t.mem (windowOf g + off + 8) = BitVec.ofNat 64 ((if c.mode = .m then 0xFFFF else queueBasin s g) * 2 ^ 40 +
    (match c.mode with
     | .u => 0
     | .s => 1
     | .m => 3) * 2 ^ 32 + (16 * g + k))
  kind : read64 t.mem (windowOf g + off + 16) = BitVec.ofNat 64 ((if c.owned then 32 else 0) + (if (s.core g).wide then 16 else 0))
  rest : ∀ i, 3 ≤ i → i < 8 → read64 t.mem (windowOf g + off + 8 * i) = 0
  words : ∀ i v, [if c.stop = some .halted then c.pc + 4 else c.pc, c.status, c.cause.zeroExtend 64, c.epc, c.tval, c.scratch, c.evl, c.ivec, c.iepc,
    c.fpctl, (c.group.map Member.va).getD 0, arrivalWord c.group, 0, 0, 0, 0][i]? = some v → read64 t.mem (windowOf g + off + 64 + 8 * i) = v
  regs : ∀ i, 0 < i → i < (if (s.core g).wide then 72 else 40) →
    read64 t.mem (windowOf g + off + 192 + 8 * i) = (c.regIn (frameBank (s.core g).wide i).1 (frameBank (s.core g).wide i).2).val
  states : ∀ i, 0 < i → i < (if (s.core g).wide then 72 else 40) →
    (readByte t.mem (windowOf g + off + (if (s.core g).wide then 768 else 512) + i / 4)).toNat / 4 ^ (i % 4) % 4 =
      (match (c.regIn (frameBank (s.core g).wide i).1 (frameBank (s.core g).wide i).2).st with
       | .full => 0
       | .pending => 1
       | .empty => 2)
  tags : ∀ i, 0 < i → i < (if (s.core g).wide then 72 else 40) →
    tagAt t g (off + 192 + 8 * i) = (c.regIn (frameBank (s.core g).wide i).1 (frameBank (s.core g).wide i).2).tag
  streams : ∀ n i, n < 8 → i < 13 →
    read64 t.mem (windowOf g + off + (if (s.core g).wide then 832 else 576) + 104 * n + 8 * i) = (c.stream (BitVec.ofNat 3 n)).read i
  desc : ∀ i, i < 16 → read64 t.mem (windowOf g + off + (if (s.core g).wide then 1664 else 1408) + 8 * i) = if i < 11 then descAt c.desc i else 0

/-- A save that PREEMPT asked for may be made at once (R309, R311), at an offset of the save area: the thread stands at a boundary
with no range operation, late result, deque record, open packet or tile engine, and belongs to no grid. -/
structure SavesAt (s : State) (n : Nat) (r : SaveReq) (off : Nat) : Prop where
  request : s.saves[n]? = some r ∧ r.why = 1 ∧ r.group = none ∧ r.deferred = false ∧ firstSave s n r = true
  runs : (s.ctx r.core r.ctx).phase = .run ∧ (s.ctx r.core r.ctx).grid = none ∧ ∀ c v, (s.ctx r.core r.ctx).stop ≠ some (.double c v)
  idle : (s.ctx r.core r.ctx).park = none ∧ (s.ctx r.core r.ctx).range = none ∧ (s.ctx r.core r.ctx).fills = []
  boundary : saveable s r.core r.ctx = true ∧ openEnd s r.core r.ctx = none ∧ ∀ d ∈ (s.core r.core).deque, d.ctx ≠ r.ctx
  engine : (s.core r.core).tile.binder ≠ some r.ctx
  room : allocFrame (s.core r.core) (if (s.core r.core).wide then 1792 else 1536) = some off
  asked : ∃ h j rd, r.answer = some (h, j, rd) ∧ (h, j) ≠ (r.core, r.ctx)
  aligned : off % 64 = 0
  wf : Memory.wf s.mem = true

/-- What a restore gives back of a thread that a save has recorded (R310, R312): the registers of both banks with their states and
tags, the PC, the special registers, the streams that are legal, and the staged descriptor. -/
structure Restored (c d : Ctx) (wide : Bool) : Prop where
  pc : d.pc = (if c.stop = some .halted then c.pc + 4 else c.pc) &&& ~~~(3#64)
  mode : d.mode = c.mode
  owned : d.owned = c.owned
  regs : ∀ i, 0 < i → i < (if wide then 72 else 40) → ∀ b, b = frameBank wide i →
    (d.regIn b.1 b.2).val = (c.regIn b.1 b.2).val ∧ (d.regIn b.1 b.2).st = (c.regIn b.1 b.2).st ∧ (d.regIn b.1 b.2).tag = (c.regIn b.1 b.2).tag
  status : d.th = c.th ∧ d.ih = c.ih ∧ d.icount = c.icount ∧ (c.pmode ≠ 2 → (c.pmode = 3 → c.mode = .m) → d.pmode = c.pmode)
  saved : d.cause = c.cause ∧ d.epc = c.epc ∧ d.tval = c.tval ∧ d.scratch = c.scratch ∧ d.iepc = c.iepc
  written : d.evl = c.evl &&& ~~~(0x4000000000000000#64) ∧ d.ivec = c.ivec &&& ~~~(0x3F#64)
  fpctl : d.fpctl = c.fpctl &&& 0x33F
  streams : ∀ n, (∀ e ∈ (c.stream n).ext.toList, e < 2 ^ 64) → (c.stream n).pos < 2 ^ 64 → badField (c.stream n) = none → d.stream n = c.stream n
  desc : d.desc = c.desc
  group : d.group.map Member.va = c.group.map Member.va

/-! ### Line tokens -/

/-- Coherence message n is in flight with a body, and its receiver may apply it now (R350, R361, R362). -/
def Arrives (s : State) (n : Nat) (m : TokMsg) (b : TokBody) : Prop := tokReady s n = some m ∧ m.body = b

/-- A coherence message about a line is in flight to the controller or a slice of a tower. -/
def InFlight (t : State) (src dst : Nat) (toCtl : Bool) (line : Nat) (b : TokBody) : Prop :=
  ∃ m ∈ t.msgs, m.src = src ∧ m.dst = dst ∧ m.toCtl = toCtl ∧ m.line = line ∧ m.body = b

/-- The recipient of a message: 8 is the controller, another number the slice of that tower. -/
def recipientOf (m : TokMsg) : Nat := if m.toCtl then 8 else m.dst

/-- The tokens of a line: at the controller, in slices and in messages (R345). -/
def tokensOf (s : State) (l : Nat) : Nat := (s.line l).total + flying s l

/-- No line lists a slice twice. -/
def SlicesOk (s : State) : Prop := ∀ l, ((s.line l).slices.map Prod.fst).Pairwise (· < ·)

/-- The receptions and timeouts of the token protocol (R353 to R357). -/
def tokenEvent : Instr → Bool
  | .treqReceive _ => true
  | .tokReceive _ => true
  | .dmarkReceive _ => true
  | .treqTimeout _ _ => true
  | .preqReceive _ => true
  | .pactReceive _ => true
  | .pdeactReceive _ => true
  | .packReceive _ => true
  | .pdoneReceive _ => true
  | .censusReceive _ => true
  | _ => false

/-! ### Device registers and requests -/

/-- A store of a thread that leaves v in a device register is due, as the first of its thread (R391). -/
def DueWrite (s : State) (addr : Nat) (v : Word) (r : RemoteOp) : Prop := devStore s addr v = some r

/-- That store is no longer due. -/
def Performed (t : State) (r : RemoteOp) : Prop := ∀ q ∈ t.remotes, q.id ≠ r.id

/-- The requests that name a basin (R374): the request, its code, and whether it is the operator's alone. -/
def basinRequest : Instr → Option (Req × Nat × Bool)
  | .closeReq q => some (q, 2, true)
  | .resetReq q => some (q, 3, false)
  | .registerReq q => some (q, 4, false)
  | .deregisterReq q => some (q, 5, false)
  | .mapqReq q => some (q, 6, false)
  | .freeqReq q => some (q, 7, false)
  | .mapReq q => some (q, 8, false)
  | .loadReq q => some (q, 9, false)
  | .launchReq q => some (q, 10, false)
  | .guardReq q => some (q, 11, false)
  | .checkpointReq q => some (q, 12, false)
  | .attestReq q => some (q, 13, false)
  | .peerReq q => some (q, 14, false)
  | .targetReq q => some (q, 15, false)
  | _ => none

/-- The reply to a request (R373). -/
def replyTo (q : Req) (code status : Nat) (results : List Word) (body : List Byte) : HostMsg :=
  .reply q.port q.reply code q.basin q.tag status results body

/-- A state with one more message sent. -/
def Sent (s : State) (m : HostMsg) : State := { s with outbox := s.outbox ++ [m] }

/-- A request from the domain it needs, of an open basin that is not under a reset or a bed move (R373, R375). -/
structure MayAsk (s : State) (q : Req) (operator : Bool) : Prop where
  booted : s.booted = true
  basin : q.basin.toNat < 64
  domain : q.domain = none ∨ (operator = false ∧ q.domain = some q.basin.toNat)
  legal : q.reserved = false
  short : q.body.length ≤ 4032
  isOpen : (s.basin q.basin.toNat).isOpen = true
  idle : busy s q.basin.toNat = false

/-- An argument of a request as a number. -/
def arg (q : Req) (i : Nat) : Nat := (argOf q i).toNat

/-- In a dispatch slot of a die, the winning easel acts on the record at the head of its queue; s0 is the state once the slot is
counted (R379, R380). -/
def Dispatches (s s0 : State) (die e n : Nat) (u : UQueue) : Prop :=
  winner s die = some (e, n, u) ∧ s0 = passSlot { s with winners := fset s.winners (die * 8 + effPri s u) e } die

/-- The queue's record at HEAD has a KIND (R379). -/
def headKind (s : State) (u : UQueue) : Nat := ((headRecord s u).1.getD 6 0).toNat / 2 ^ 24 % 16

/-- A queue is as given, but for the times from which it ages, which a store that meets its TAIL renews (R377, R380). -/
def QueueIs (t : State) (n : Nat) (u : UQueue) : Prop := ∃ a b, t.queue n = some { u with tailAt := a, since := b }

/-- What a refused record leaves of its queue (R379). -/
def droppedAt (u : UQueue) : UQueue :=
  { u with head := u.head + 1, dropped := min (u.dropped + 1) (2 ^ 32 - 1), lastBad := u.head }

end Sys2Proof.Claims

section

open Sys2Proof Sys2Proof.Machine Sys2Proof.Safety Sys2Proof.Claims


/-! ### Obligations: scalar instructions -/

/-- The instructions of R67, R69, R70, R72 and R76: arithmetic and logic, comparisons and extrema, products, the W forms, and
the immediate forms. -/
def Sys2Proof.Claims.arithmetic : Instr → Bool
  | .add _ => true
  | .sub _ => true
  | .and _ => true
  | .or _ => true
  | .xor _ => true
  | .andn _ => true
  | .orn _ => true
  | .xnor _ => true
  | .slt _ => true
  | .sltu _ => true
  | .min _ => true
  | .max _ => true
  | .minu _ => true
  | .maxu _ => true
  | .mul _ => true
  | .mulh _ => true
  | .mulhu _ => true
  | .mulhsu _ => true
  | .addw _ => true
  | .subw _ => true
  | .mulw _ => true
  | .sllw _ => true
  | .srlw _ => true
  | .sraw _ => true
  | .addi _ => true
  | .andi _ => true
  | .ori _ => true
  | .xori _ => true
  | .slti _ => true
  | .sltiu _ => true
  | .addiw _ => true
  | _ => false

/-- The shifts and rotates of R68 and R77. -/
def Sys2Proof.Claims.shifting : Instr → Bool
  | .sll _ => true
  | .srl _ => true
  | .sra _ => true
  | .rol _ => true
  | .ror _ => true
  | .slli _ => true
  | .srli _ => true
  | .srai _ => true
  | .roli _ => true
  | _ => false

/-- The instructions of scalarResult that write rd with the value it gives, and go on. -/
def Sys2Proof.Claims.ScalarGives (p : Instr → Bool) : Prop :=
  ∀ (s : State) (i : Instr) (d : RegNo) (u : Use) (v : Word), p i = true → scalarResult s i = some (d, u, v) → Ready s u →
    ∃ t, exec i s = .next t ∧ t.me.pc = s.me.pc + 4 ∧ Written t d v false ∧ Keeps s t [d] s.me.fpctl

/-- R67, R69, R70, R72, R76: the value that each arithmetic, logic, comparison, product, W-form and immediate instruction writes
to rd, full with tag 0; the thread goes on and nothing else changes. -/
def Obligations.ScalarArithmetic : Prop := ScalarGives arithmetic

/-- R68, R77: the value that each shift and rotate writes to rd, full with tag 0; the thread goes on and nothing else changes. -/
def Obligations.ScalarShifts : Prop := ScalarGives shifting

/-- R73 to R75, R78: the values of the counts, reversals and extensions, of CSEL, LUI and AUIPC, written full with tag 0; HMOV
copies a value with its tag; the thread goes on and nothing else changes. -/
def Obligations.ScalarMoves : Prop :=
  ScalarGives (fun i => !arithmetic i && !shifting i) ∧
  ∀ (s : State) (o : R2), Ready s o.use →
    ∃ t, exec (.hmov o) s = .next t ∧ t.me.pc = s.me.pc + 4 ∧ Written t o.d (s.g o.a) (s.gtag o.a) ∧ Keeps s t [o.d] s.me.fpctl

/-- The FP instructions that set no flag: FCLASS (R87), FNEG and FABS (R91). -/
def Sys2Proof.Claims.quietFp : Instr → Bool
  | .fclass _ => true
  | .fneg _ => true
  | .fabs _ => true
  | _ => false

/-- The FP instructions whose result is in place at once with flags: FADD, FSUB, FMUL, FMA, FMIN, FMAX, FEQ, FLT, FLE, FTOI,
FTOIU, ITOF, ITOFU, FTOBF, BFTOF, FTOH and HTOF (R83 to R86, R88 to R90). -/
def Sys2Proof.Claims.flaggingFp : Instr → Bool
  | .fadd _ => true
  | .fsub _ => true
  | .fmul _ => true
  | .fma _ => true
  | .fmin _ => true
  | .fmax _ => true
  | .feq _ => true
  | .flt _ => true
  | .fle _ => true
  | .ftoi _ => true
  | .ftoiu _ => true
  | .itof _ => true
  | .itofu _ => true
  | .ftobf _ => true
  | .bftof _ => true
  | .ftoh _ => true
  | .htof _ => true
  | _ => false

/-- R66, R83 to R91: FADD, FSUB, FMUL, FMA, FMIN, FMAX, FEQ, FLT, FLE, FTOI, FTOIU, ITOF, ITOFU, FTOBF, BFTOF, FTOH and HTOF
complete: each writes its value to rd, full with tag 0, and ORs its flags into FPCTL; FCLASS, FNEG and FABS complete and write
their value to rd with no flag; the thread goes on and nothing else changes. -/
def Obligations.FpResults : Prop :=
  (∀ (s : State) (i : Instr), quietFp i = true →
    ∃ (d : RegNo) (u : Use) (v : Word), plainFpResult s i = some (d, u, v) ∧ (Ready s u →
      ∃ t, exec i s = .next t ∧ t.me.pc = s.me.pc + 4 ∧ Written t d v false ∧ Keeps s t [d] s.me.fpctl)) ∧
  (∀ (s : State) (i : Instr), flaggingFp i = true →
    ∃ (d : RegNo) (u : Use) (r : Word × FFlags), fpResult s i = some (d, u, r) ∧ (Ready s u →
      ∃ t, exec i s = .next t ∧ t.me.pc = s.me.pc + 4 ∧ Written t d r.1 false ∧
        Keeps s t [d] (s.me.fpctl ||| r.2.zeroExtend 64)))

/-- R65, R71, R83: DIV, DIVU, REM, REMU, FDIV and FSQRT leave rd pending and their result, of R71 for the divisions, outstanding
for the register that rd names at issue; the thread goes on and nothing else changes. -/
def Obligations.LongLatencyIssue : Prop :=
  ∀ (s : State) (i : Instr) (d : RegNo) (u : Use) (r : Word × FFlags) (fp : Bool), longResult s i = some (d, u, r, fp) → Ready s u →
    ∃ t, exec i s = .next t ∧ t.me.pc = s.me.pc + 4 ∧ Keeps s t [d] s.me.fpctl ∧
      (d ≠ 0 → (t.me.reg d).st = .pending) ∧
      t.me.fills = s.me.fills ++ (if d = 0 ∧ fp = false then [] else [⟨inShadow s.me.ih d, d.toNat, r.1, r.2, fp, none⟩])

/-- R79, R80, R82: a jump or a taken branch continues at its target and a branch not taken at PC + 4; JAL and JALR write PC + 4
to rd; a JALR whose target is not a multiple of 4 takes MISALIGN with the target, and rd is unchanged. -/
def Obligations.Transfers : Prop :=
  (∀ (s : State) (i : Instr) (u : Use) (d : RegNo) (pc : Word), transfer s i = some (u, d, pc) → Ready s u → pc.toNat % 4 = 0 →
    ∃ t, exec i s = .next t ∧ t.me.pc = pc ∧ Written t d (s.me.pc + 4) false ∧ Keeps s t [d] s.me.fpctl) ∧
  ∀ (s : State) (o : Imm), Ready s o.use → (s.g o.a + o.i.signExtend 64).toNat % 4 ≠ 0 → s.me.th = false →
    exec (.jalr o) s = .next (s.setMe (s.me.enter s.myCore.tvec causeMISALIGN (s.g o.a + o.i.signExtend 64) s.me.pc))

/-- R147, R148: a load from the core's own scratchpad fills rd with the extended bytes this turn, with the words' tags through
the local alias (R132), and changes nothing else. -/
def Sys2Proof.Claims.LoadsOwnScratchpad : Prop :=
  ∀ (s : State) (i : Instr) (o : Ld) (size : Nat) (signed pair : Bool) (w : Where) (off : Nat),
    loadForm i = some (o, size, signed, pair) → Ready s (loadUse o pair) →
    (memAddr s o.a o.i size).toNat % size = 0 →
    translate s s.who (memAddr s o.a o.i size) .load size = .ok w → placeOf s w.pa = .spad s.cur.1 off →
    Unhindered s w o.s.toNat →
    ∃ t, exec i s = .next t ∧ t.me.pc = s.me.pc + 4 ∧
      Keeps s t (if pair then [o.d, pairOf o.d] else [o.d]) s.me.fpctl ∧
      (pair = false → Written t o.d (extended signed (readBytes s.mem w.pa size)) (w.own && size == 8 && tagAt s s.cur.1 off)) ∧
      (pair = true → Written t (pairOf o.d) (leWord (readBytes s.mem (w.pa + 8) 8)) (w.own && tagAt s s.cur.1 (off + 8)) ∧
        Written t o.d (leWord (readBytes s.mem w.pa 8)) (w.own && tagAt s s.cur.1 off))

/-- R148: a load from DRAM-backed memory parks its thread at the instruction until its data arrives; no register and no byte of
memory changes. -/
def Sys2Proof.Claims.LoadsPark : Prop :=
  ∀ (s : State) (i : Instr) (o : Ld) (size : Nat) (signed pair : Bool) (w : Where),
    loadForm i = some (o, size, signed, pair) → Ready s (loadUse o pair) →
    (memAddr s o.a o.i size).toNat % size = 0 →
    translate s s.who (memAddr s o.a o.i size) .load size = .ok w → placeOf s w.pa = .dram →
    Unhindered s w o.s.toNat → overlaps s s.cur.1 (gctx s.cur.1 s.cur.2) w.pa size = false →
    ∃ t, exec i s = .next t ∧ t.me.park = some (.load ⟨w.pa, w.vault, size, signed, o.d, pair, s.sc o.s, o.o, none⟩) ∧
      t.me.pc = s.me.pc ∧ t.me.regs = s.me.regs ∧ t.me.shadow = s.me.shadow ∧ ∀ a, readByte t.mem a = readByte s.mem a

/-- R148, R159: the data of a load that has parked reaches its thread from the tower's slice: rd is full with the bytes as the
core sees them below its L1, and the thread goes on. -/
def Sys2Proof.Claims.LoadDataArrives : Prop :=
  ∀ (s : State) (g k : Nat) (op : LoadOp), alive s g k = true → (s.ctx g k).park = some (.load op) → op.table = none → op.pair = false →
    overlaps s g (gctx g k) op.addr op.size = false → canRead s g (lineOf op.addr) = true → op.size ≤ 8 →
    ∃ t, exec (.loadDataArrival g k false) s = .next t ∧ (t.ctx g k).park = none ∧ (t.ctx g k).pc = (s.ctx g k).pc + 4 ∧
      (t.ctx g k).reg op.rd = (if op.rd = 0 then GReg.zero else
        GReg.of (op.value (seenBytes s g (gctx g k) false op.addr op.size)) false) ∧
      (∀ n, n ≠ op.rd → (t.ctx g k).reg n = (s.ctx g k).reg n) ∧ t.mem = s.mem ∧
      ∀ h j, (h, j) ≠ (g, k) → t.ctx h j = s.ctx h j

/-- R148: a store to the core's own scratchpad writes its bytes, little-endian, and no other byte of memory; the register file
stays. -/
def Sys2Proof.Claims.StoresOwnScratchpad : Prop :=
  ∀ (s : State) (i : Instr) (o : St) (u : Use) (bs : List Byte) (t0 t1 : Bool) (w : Where) (off : Nat),
    storeForm s i = some (o, u, bs, t0, t1) → Ready s u → Memory.wf s.mem = true →
    (memAddr s o.a o.i bs.length).toNat % bs.length = 0 →
    translate s s.who (memAddr s o.a o.i bs.length) .store bs.length = .ok w → placeOf s w.pa = .spad s.cur.1 off →
    protectedAt s.myCore off bs.length = false → ((t0 || t1) = true → w.own = true) →
    Unhindered s w o.s.toNat → s.me.fences = [] → o.o = false →
    ∃ t, exec i s = .next t ∧ t.me.pc = s.me.pc + 4 ∧ readBytes t.mem (windowOf s.cur.1 + off) bs.length = bs ∧
      (∀ a, a < windowOf s.cur.1 + off ∨ windowOf s.cur.1 + off + bs.length ≤ a → readByte t.mem a = readByte s.mem a) ∧
      Rest s t [] ∧ t.me.evl = s.me.evl

/-- R134, R148: a store to DRAM-backed memory enters the core's write buffer, from which, where it is the first to its line
there, the thread's own loads see it at once; memory itself does not change yet. -/
def Sys2Proof.Claims.StoresBuffered : Prop :=
  ∀ (s : State) (i : Instr) (o : St) (u : Use) (bs : List Byte) (w : Where) (s' : State),
    storeForm s i = some (o, u, bs, false, false) → Ready s u →
    (memAddr s o.a o.i bs.length).toNat % bs.length = 0 →
    translate s s.who (memAddr s o.a o.i bs.length) .store bs.length = .ok w → placeOf s w.pa = .dram →
    Unhindered s w o.s.toNat → s.me.fences = [] → o.o = false →
    buffer s s.cur.1 s.cur.2 w (s.sc o.s) bs = some s' →
    ∃ t, exec i s = .next t ∧ t.me.pc = s.me.pc + 4 ∧ (t.core s.cur.1).wbuf = (s'.core s.cur.1).wbuf ∧
      (lineBuffered s s.cur.1 (lineOf w.pa) = false → w.pa % bs.length = 0 →
        seenBytes t s.cur.1 (gctx s.cur.1 s.cur.2) true w.pa bs.length = bs) ∧
      (∀ a, readByte t.mem a = readByte s.mem a) ∧ Rest s t [] ∧ t.me.evl = s.me.evl

/-- R147, R148: a load from the core's own scratchpad fills rd with the extended bytes this turn, with the words' tags through
the local alias (R132), and changes nothing else. R148: a load from DRAM-backed memory parks its thread at the instruction until
its data arrives; no register and no byte of memory changes. R148, R159: the data of a load that has parked reaches its thread
from the tower's slice: rd is full with the bytes as the core sees them below its L1, and the thread goes on. -/
def Obligations.Loads : Prop := LoadsOwnScratchpad ∧ LoadsPark ∧ LoadDataArrives

/-- R148: a store to the core's own scratchpad writes its bytes, little-endian, and no other byte of memory; the register file
stays. R134, R148: a store to DRAM-backed memory enters the core's write buffer, from which, where it is the first to its line
there, the thread's own loads see it at once; memory itself does not change yet. -/
def Obligations.Stores : Prop := StoresOwnScratchpad ∧ StoresBuffered

/-- R166, R172: an atomic on the core's own scratchpad is applied at issue: the word becomes the operation's number, no other
byte of memory changes, and rd is left pending for the old value. -/
def Sys2Proof.Claims.AtomicsOnOwnScratchpad : Prop :=
  ∀ (s : State) (i : Instr) (o : Am) (wide : Bool) (aop : Nat) (w : Where) (off : Nat),
    atomForm i = some (o, wide, aop) → Ready s (atomUse o aop) → Memory.wf s.mem = true →
    (s.g o.a).toNat % atomSize wide = 0 → translate s s.who (s.g o.a) .atomic (atomSize wide) = .ok w →
    placeOf s w.pa = .spad s.cur.1 off → protectedAt s.myCore off (atomSize wide) = false → AtomFree s o w →
    ∃ t, exec i s = .next t ∧ t.me.pc = s.me.pc + 4 ∧
      leNat (readBytes t.mem (windowOf s.cur.1 + off) (atomSize wide)) =
        atomAfter (sentAtom s o wide aop w) (leNat (readBytes s.mem w.pa (atomSize wide))) ∧
      (∀ a, a < windowOf s.cur.1 + off ∨ windowOf s.cur.1 + off + atomSize wide ≤ a → readByte t.mem a = readByte s.mem a) ∧
      Rest s t [o.d] ∧ t.me.evl = s.me.evl ∧
      (o.d = 0 → t.atoms = s.atoms) ∧
      (o.d ≠ 0 → (t.me.reg o.d).st = .pending ∧ t.atoms = s.atoms ++ [{ sentAtom s o wide aop w with
        reply := some (atomReturns (sentAtom s o wide aop w) (leNat (readBytes s.mem w.pa (atomSize wide)))), stamp := s.serial + 1 }])

/-- R166, R172: an atomic on DRAM-backed memory sets out for the home of its line, leaving rd pending; memory does not change
yet. -/
def Sys2Proof.Claims.AtomicsSetOut : Prop :=
  ∀ (s : State) (i : Instr) (o : Am) (wide : Bool) (aop : Nat) (w : Where),
    atomForm i = some (o, wide, aop) → Ready s (atomUse o aop) →
    (s.g o.a).toNat % atomSize wide = 0 → translate s s.who (s.g o.a) .atomic (atomSize wide) = .ok w →
    placeOf s w.pa = .dram → s.gtag o.b = false → AtomFree s o w →
    ∃ t, exec i s = .next t ∧ t.me.pc = s.me.pc + 4 ∧ t.atoms = s.atoms ++ [sentAtom s o wide aop w] ∧
      (o.d ≠ 0 → (t.me.reg o.d).st = .pending) ∧ (∀ a, readByte t.mem a = readByte s.mem a) ∧
      Rest s t [o.d] ∧ t.me.evl = s.me.evl

/-- R166: at the home slice, which holds all the line's tokens, the unit applies an atomic indivisibly: the word becomes the
operation's number, no other byte changes, and the reply is the old value. -/
def Sys2Proof.Claims.AtomicAtHome : Prop :=
  ∀ (s : State) (n : Nat) (a : AtomOp), s.atoms[n]? = some a → n = 0 → a.reply = none → a.aop < 12 → Memory.wf s.mem = true →
    (∀ b ∈ s.atoms, b.via = none) → placeOf s a.addr = .dram → AtHome s a → FirstOnItsWay s a →
    ∃ t, exec (.atomicAtHome n) s = .next t ∧
      leNat (readBytes t.mem a.addr a.size) = atomAfter a (leNat (readBytes s.mem a.addr a.size)) ∧
      (∀ b, b < a.addr ∨ a.addr + a.size ≤ b → readByte t.mem b = readByte s.mem b) ∧
      (a.rd = 0 → t.atoms = s.atoms.eraseIdx n) ∧
      (a.rd ≠ 0 → ∃ r, t.atoms[n]? = some r ∧ r.reply = some (atomReturns a (leNat (readBytes s.mem a.addr a.size)))) ∧
      ∀ g k, t.ctx g k = s.ctx g k

/-- R172, R39: the reply of an atomic fills the register that its issue left pending; one that a REPART has given up is left 0. -/
def Sys2Proof.Claims.AtomicReplyFills : Prop :=
  ∀ (s : State) (n : Nat) (a : AtomOp) (v : Word), s.atoms[n]? = some a → a.reply = some v → a.rd ≠ 0 → a.ord = false →
    a.core < 4096 → (a.shadow = true → 24 ≤ a.rd.toNat ∧ a.rd.toNat < 32) →
    heldBack s (atomTower s a) (if isAtelier a.core then 8 else a.core / 256) a.stamp = false →
    (placeOf s a.addr = .dram → wrNext s (atomTower s a) a.tower a.stamp = true) →
    ∃ t, exec (.atomicReplyFill n) s = .next t ∧ (t.ctx a.core a.ctx).regIn a.shadow a.rd = filled (s.ctx a.core a.ctx) a.shadow a.rd (GReg.of v false) ∧
      t.atoms = s.atoms.eraseIdx n ∧ t.mem = s.mem ∧ (t.ctx a.core a.ctx).pc = (s.ctx a.core a.ctx).pc ∧
      ∀ g k, (g, k) ≠ (a.core, a.ctx) → t.ctx g k = s.ctx g k

/-- R167: a switch combines the first of two waiting atomics of one tower on the same DRAM word, of the same width and
operation, with the second: the first carries the operation of both operands, and nothing else changes. -/
def Sys2Proof.Claims.SwitchCombines : Prop :=
  ∀ (s : State) (r : List Move) (a b : AtomOp), s.powered = true → s.agenda = .combine 0 1 :: r → s.atoms = [a, b] → a.addr = b.addr → a.wide = b.wide →
    a.aop = b.aop → (1 ≤ a.aop ∧ a.aop ≤ 8 ∨ a.aop = 11) → a.tower = b.tower → a.reply = none → b.reply = none →
    a.via = none → b.via = none → FirstOnItsWay s a → b.held s (atomTower s b) = false →
    ∃ t, step s = .next t ∧ (∃ c, t.atoms = [c, { b with via := some (a.id, a.b) }] ∧ { c with b := a.b } = a ∧
      (a.wide = true → c.b.toNat = atomAfter { a with b := b.b } a.b.toNat)) ∧ t.mem = s.mem ∧ ∀ g k, t.ctx g k = s.ctx g k

/-- R167: the home applies a combined request at one instant, and the second requester receives the value it would have seen had the
first been applied before it. -/
def Sys2Proof.Claims.CombinedReplies : Prop :=
  ∀ (s : State) (a b : AtomOp) (p : Word), s.atoms = [a, b] → a.reply = none → b.reply = none → a.via = none → b.via = some (a.id, p) →
    a.id ≠ b.id → a.rd ≠ 0 → b.rd ≠ 0 → b.aop < 9 → placeOf s a.addr = .dram → AtHome s a → b.wide = a.wide → FirstOnItsWay s a →
    ∃ t c, exec (.atomicAtHome 0) s = .next t ∧ t.atoms[1]? = some c ∧
      c.reply = some (atomReturns b (atomAfter { b with b := p } (leNat (readBytes s.mem a.addr a.size))))

/-- R39, R166, R172: an atomic on the core's own scratchpad is applied at issue, and one on DRAM-backed memory sets out for the
home of its line, leaving rd pending; at the home slice, which holds all the line's tokens, the unit applies it indivisibly: the
word becomes the operation's number, no other byte changes, and the reply is the old value; the reply fills rd. Switches may
combine atomics on the way (R167). -/
def Obligations.Atomics : Prop :=
  AtomicsOnOwnScratchpad ∧ AtomicsSetOut ∧ AtomicAtHome ∧ AtomicReplyFills ∧ SwitchCombines ∧ CombinedReplies

/-- R168, R174, R176, R177: TAKE, TRYTAKE and FEGET of a word of the core's own scratchpad are performed at issue: a TAKE or
TRYTAKE of a full word empties it and brings its value with its tag, a TRYTAKE of an empty word brings 1 and 0, FEGET brings the
bit and changes nothing; the thread waits for its register. -/
def Sys2Proof.Claims.FullEmptyReadsClaim : Prop :=
  (∀ (s : State) (o : R2) (off : Nat) (own : Bool), Ready s o.use → OwnFeWord s (s.g o.a) off own → fullAt s s.cur.1 off = true →
    ∃ t, exec (.take o) s = .next t ∧ t.mem = s.mem ∧ fullAt t s.cur.1 off = false ∧
      AwaitsResult s t .take off o.d ⟨spWord s s.cur.1 off, 0, tagAt s s.cur.1 off, false, flook (s.core s.cur.1).spRel off⟩) ∧
  (∀ (s : State) (o : R2) (off : Nat) (own : Bool), Ready s o.usePair → OwnFeWord s (s.g o.a) off own →
    ∃ t, exec (.trytake o) s = .next t ∧ t.mem = s.mem ∧ fullAt t s.cur.1 off = false ∧
      AwaitsResult s t .trytake off o.d (if fullAt s s.cur.1 off then
        ⟨0, spWord s s.cur.1 off, false, tagAt s s.cur.1 off, flook (s.core s.cur.1).spRel off⟩ else ⟨1, 0, false, false, none⟩)) ∧
  (∀ (s : State) (o : R2) (off : Nat) (own : Bool), Ready s o.use → OwnFeWord s (s.g o.a) off own →
    ∃ t, exec (.feget o) s = .next t ∧ t.mem = s.mem ∧ (∀ g a, fullAt t g a = fullAt s g a) ∧
      AwaitsResult s t .feget off o.d ⟨if fullAt s s.cur.1 off then 1 else 0, 0, false, false, none⟩)

/-- R168: the result of a full/empty operation that acquires nothing fills rd, and for TRYTAKE the pair, and its thread goes on. -/
def Sys2Proof.Claims.FullEmptyResultFills : Prop :=
  ∀ (s : State) (n : Nat) (op : FeOp) (r : FeRes), s.feOps[n]? = some op → op.res = some r → r.acq = none → op.rd ≠ 0 → pairOf op.rd ≠ 0 →
    heldCore s op.owner (op.core / 256) op.doneAt = false →
    ∃ t, exec (.feResultFill n) s = .next t ∧ (t.ctx op.core op.ctx).pc = (s.ctx op.core op.ctx).pc + 4 ∧
      (t.ctx op.core op.ctx).park = none ∧ (t.ctx op.core op.ctx).reg op.rd = GReg.of r.v0 r.tag0 ∧
      (op.kind = .trytake → (t.ctx op.core op.ctx).reg (pairOf op.rd) = GReg.of r.v1 r.tag1) ∧ t.mem = s.mem ∧
      ∀ g k, (g, k) ≠ (op.core, op.ctx) → t.ctx g k = s.ctx g k

/-- R168, R175, R177: PUT to an empty word of the core's own scratchpad that no taker waits for writes the value and leaves the
word full; FESET sets the bit and keeps the value; FESET of a register makes it plain empty. -/
def Obligations.FullEmptyWrites : Prop :=
  (∀ (s : State) (o : Rab) (off : Nat) (own : Bool), Ready s o.use → OwnFeWord s (s.g o.a) off own → Memory.wf s.mem = true →
    fullAt s s.cur.1 off = false → popTaker (s.core s.cur.1).takers off = none → protectedAt s.myCore off 8 = false →
    (s.gtag o.b = true → own = true) → s.me.fences = [] → s.me.relMark = none → visibleAt s 1 s.cur.1 s.serial = true →
    ∃ t, exec (.put o) s = .next t ∧ t.me.pc = s.me.pc + 4 ∧ fullAt t s.cur.1 off = true ∧
      spWord t s.cur.1 off = s.g o.b ∧ Rest s t [] ∧ t.me.evl = s.me.evl ∧
      ∀ a, a < windowOf s.cur.1 + off ∨ windowOf s.cur.1 + off + 8 ≤ a → readByte t.mem a = readByte s.mem a) ∧
  (∀ (s : State) (o : Rab) (off : Nat) (own : Bool), Ready s o.use → OwnFeWord s (s.g o.a) off own →
    popTaker (s.core s.cur.1).takers off = none →
    ∃ t, exec (.feset o) s = .next t ∧ t.me.pc = s.me.pc + 4 ∧ fullAt t s.cur.1 off = (s.g o.b).getLsbD 0 ∧
      t.mem = s.mem ∧ Rest s t [] ∧ t.me.evl = s.me.evl) ∧
  (∀ (s : State) (o : Rd), Ready s o.use → o.d ≠ 0 →
    ∃ t, exec (.fesetRegister o) s = .next t ∧ t.me.pc = s.me.pc + 4 ∧ (t.me.reg o.d).st = .empty ∧ Keeps s t [o.d] s.me.fpctl)

/-- R168, R129: what another core has sent is performed at the owner core: a TAKE of a full word empties it and its value is on
its way back; a load reads the window, a store writes it; a TAKE that found the list full tries again. -/
def Obligations.OwnerCoreServes : Prop :=
  (∀ (s : State) (n : Nat) (op : FeOp), s.feOps[n]? = some op → op.res = none → op.kind = .take → fullAt s op.owner op.off = true →
    heldCore s op.core (op.owner / 256) op.id = false → ownPending s op.core op.ctx (windowOf op.owner + op.off) = false →
    ∃ t, exec (.feOpAtOwner n) s = .next t ∧ fullAt t op.owner op.off = false ∧ t.mem = s.mem ∧
      ∃ r ∈ t.feOps, r.id = op.id ∧ r.res = some ⟨spWord s op.owner op.off, 0, tagAt s op.owner op.off && decide (op.core = op.owner),
        false, flook (s.core op.owner).spRel op.off⟩) ∧
  (∀ (s : State) (r : RemoteOp) (rest : List RemoteOp) (g off : Nat) (bs : List Byte), s.remotes = r :: rest → r.data = none →
    placeOf s r.addr = .spad g off → r.store = some bs → heldCore s r.core (g / 256) r.stamp = false → Memory.wf s.mem = true →
    ∃ t, exec (.remoteWindowAccess 0) s = .next t ∧ t.remotes = rest ∧ readBytes t.mem (windowOf g + off) bs.length = bs ∧
      (∀ a, a < windowOf g + off ∨ windowOf g + off + bs.length ≤ a → readByte t.mem a = readByte s.mem a) ∧ ∀ h k, t.ctx h k = s.ctx h k) ∧
  (∀ (s : State) (r : RemoteOp) (rest : List RemoteOp) (g off : Nat), s.remotes = r :: rest → r.data = none →
    placeOf s r.addr = .spad g off → r.store = none → heldCore s r.core (g / 256) r.stamp = false →
    ∃ t, exec (.remoteWindowAccess 0) s = .next t ∧ t.mem = s.mem ∧
      t.remotes = { r with data := some (readBytes s.mem r.addr r.size), stamp := s.serial } :: rest ∧ ∀ h k, t.ctx h k = s.ctx h k) ∧
  (∀ (s : State) (g k h o : Nat), (s.ctx g k).park = some (.takeRetry h o) →
    ∃ t, exec (.takeRetryExpiry g k) s = .next t ∧ (t.ctx g k).park = none ∧ (t.ctx g k).pc = (s.ctx g k).pc ∧ t.mem = s.mem)

/-- R178, R179: WAIT with an event of its mask latched writes rd the latched bits and clears them; WAITA and WAITNA whose
condition holds write rd the value read; with the condition false each parks. A WAIT, WAITA or WAITNA whose condition has come
true goes on. -/
def Sys2Proof.Claims.WaitingClaim : Prop :=
  (∀ (s : State) (o : R2), Ready s o.use → s.me.evl &&& (if s.g o.a = 0 then BitVec.allOnes 64 else s.g o.a) ≠ 0 →
    ∃ t, exec (.wait o) s = .next t ∧ t.me.pc = s.me.pc + 4 ∧
      Written t o.d (s.me.evl &&& (if s.g o.a = 0 then BitVec.allOnes 64 else s.g o.a)) false ∧
      t.me.evl = s.me.evl &&& ~~~ (if s.g o.a = 0 then BitVec.allOnes 64 else s.g o.a) ∧
      Rest s t [o.d] ∧ t.mem = s.mem) ∧
  (∀ (s : State) (i : Instr) (o : R3) (eq : Bool) (w : Where), (i = .waita o ∧ eq = true ∨ i = .waitna o ∧ eq = false) → Ready s o.use →
    (s.g o.a).toNat % 8 = 0 → translate s s.who (s.g o.a) .load 8 = .ok w → Unhindered s w 3 →
    ownPending s s.cur.1 s.cur.2 w.pa = false → overlaps s s.cur.1 (gctx s.cur.1 s.cur.2) w.pa 8 = false →
    ∃ t, exec i s = .next t ∧ t.mem = s.mem ∧
      (decide (seen64 s s.cur.1 s.cur.2 w.pa = s.g o.b) = eq → t.me.pc = s.me.pc + 4 ∧
        Written t o.d (seen64 s s.cur.1 s.cur.2 w.pa) false ∧ Keeps s t [o.d] s.me.fpctl) ∧
      (decide (seen64 s s.cur.1 s.cur.2 w.pa = s.g o.b) ≠ eq → t.me.pc = s.me.pc ∧ t.me.park = some (.waita w.pa eq (s.g o.b)) ∧
        t.me.regs = s.me.regs)) ∧
  (∀ (s : State) (g k : Nat) (m : Word), (s.ctx g k).park = some (.wait m) → (s.ctx g k).evl &&& m ≠ 0 →
    ∃ t, exec (.waitWake g k) s = .next t ∧ t.ctx g k = { s.ctx g k with park := none } ∧ t.mem = s.mem) ∧
  (∀ (s : State) (g k a : Nat) (eq : Bool) (v : Word), (s.ctx g k).park = some (.waita a eq v) → decide (seen64 s g k a = v) = eq →
    ∃ t, exec (.waitaReread g k) s = .next t ∧ t.ctx g k = { s.ctx g k with park := none } ∧ t.mem = s.mem)

/-- R180, R181, R35: IMASK sets the mask count, IUNMASK clears it, IRET leaves the handler for IEPC; outside a handler IRET is
ILL. -/
def Sys2Proof.Claims.ArrivalMasking : Prop :=
  (∀ (s : State) (o : Cnt), ∃ t, exec (.imask o) s = .next t ∧ t.me.pc = s.me.pc + 4 ∧ t.me.icount = o.n ∧ t.me.regs = s.me.regs ∧ t.mem = s.mem) ∧
  (∀ s : State, ∃ t, exec .iunmask s = .next t ∧ t.me.pc = s.me.pc + 4 ∧ t.me.icount = 0 ∧ t.me.regs = s.me.regs ∧ t.mem = s.mem) ∧
  (∀ s : State, s.me.ih = true → s.me.iepc.toNat % 4 = 0 →
    ∃ t, exec .iret s = .next t ∧ t.me.pc = s.me.iepc ∧ t.me.ih = false ∧ t.me.icount = 0 ∧ t.me.regs = s.me.regs ∧
      t.me.shadow = s.me.shadow ∧ t.me.mode = s.me.mode ∧ t.mem = s.mem) ∧
  (∀ s : State, s.me.ih = false → s.me.th = false →
    exec .iret s = .next (s.setMe (s.me.enter s.myCore.tvec causeILL (wordOf .iret) s.me.pc)))

/-- R161, R170: FENCE.ACQ makes the thread's most recent load an acquire, which empties L1 where it is wider than the core;
FENCE.REL adds a release point at its scope; FENCE.AR does both; FENCE.SC does both once every earlier store is visible at its
scope, and empties L1 where that is wider than the core. The scope is the one the instruction names, as its core means it
(R154). -/
def Obligations.Fences : Prop :=
  ∀ (s : State) (o : Fn), vectorBusy s s.cur.1 s.cur.2 = false →
    (∃ t, exec (.fenceAcq o) s = .next t ∧ t.me.pc = s.me.pc + 4 ∧ t.me.fences = s.me.fences ∧ Keeps s t [] s.me.fpctl ∧
      (s.me.lastLoad = some 0 → 2 ≤ s.sc o.s → (t.core s.cur.1).l1 = [])) ∧
    (∃ t, exec (.fenceRel o) s = .next t ∧ t.me.pc = s.me.pc + 4 ∧ t.me.fences = s.me.fences ++ [⟨s.sc o.s, s.serial, false⟩] ∧
      Rest s t [] ∧ t.mem = s.mem) ∧
    (∃ t, exec (.fenceAr o) s = .next t ∧ t.me.pc = s.me.pc + 4 ∧ t.me.fences = s.me.fences ++ [⟨s.sc o.s, s.serial, false⟩] ∧
      Rest s t [] ∧ t.mem = s.mem ∧ (s.me.lastLoad = some 0 → 2 ≤ s.sc o.s → (t.core s.cur.1).l1 = [])) ∧
    (s.me.relMark = none → visibleAt s (s.sc o.s) s.cur.1 s.serial = true →
      ∃ t, exec (.fenceSc o) s = .next t ∧ t.me.pc = s.me.pc + 4 ∧ t.me.fences = s.me.fences ++ [⟨s.sc o.s, s.serial, false⟩] ∧
        Rest s t [] ∧ t.mem = s.mem ∧ (2 ≤ s.sc o.s → (t.core s.cur.1).l1 = [])) ∧
    (s.me.relMark = none → visibleAt s (s.sc o.s) s.cur.1 s.serial = false →
      ∃ t, exec (.fenceSc o) s = .next t ∧ t.me.pc = s.me.pc ∧ t.me.park = some (.drain (s.sc o.s) s.serial))

/-- R168, R174, R176, R177: TAKE, TRYTAKE and FEGET of a word of the core's own scratchpad are performed at issue: a TAKE or
TRYTAKE of a full word empties it and brings its value with its tag, a TRYTAKE of an empty word brings 1 and 0, FEGET brings the
bit and changes nothing; the thread waits for its register. R168: the result of a full/empty operation that acquires nothing
fills rd, and for TRYTAKE the pair, and its thread goes on. -/
def Obligations.FullEmptyReads : Prop := FullEmptyReadsClaim ∧ FullEmptyResultFills

/-- R178, R179: WAIT with an event of its mask latched writes rd the latched bits and clears them; WAITA and WAITNA whose
condition holds write rd the value read; with the condition false each parks. A WAIT, WAITA or WAITNA whose condition has come
true goes on. R180, R181, R35: IMASK sets the mask count, IUNMASK clears it, IRET leaves the handler for IEPC; outside a handler
IRET is ILL. -/
def Obligations.WaitingAndMasking : Prop := WaitingClaim ∧ ArrivalMasking

/-- R315, R21, R30: TRAP takes SYSCALL, BREAK takes BREAK and a word that names no instruction takes ILL with the word, each
with EPC at the instruction; all as R300 gives the entry. -/
def Sys2Proof.Claims.TrapEntry : Prop :=
  ∀ s : State, s.me.th = false →
    (∃ t, exec .trap s = .next t ∧ Traps s t 0x11 0) ∧ (∃ t, exec .breakI s = .next t ∧ Traps s t 0x12 0) ∧
    ∀ w : BitVec 32, ∃ t, exec (.illegalWord w) s = .next t ∧ Traps s t 0x01 (w.zeroExtend 64)

/-- R316: ERET in S or M mode returns to EPC in the mode of PMODE with TH clear, and leaves registers, memory and other contexts. -/
def Sys2Proof.Claims.TrapReturn : Prop :=
  ∀ s : State, Allowed s .s false → s.me.epc.toNat % 4 = 0 →
    ∃ t, exec .eret s = .next t ∧ t.me.pc = s.me.epc ∧ t.me.th = false ∧
      t.me.mode = (if s.me.pmode = 0 then .u else if s.me.pmode = 1 then .s else .m) ∧ t.me.regs = s.me.regs ∧
      t.me.shadow = s.me.shadow ∧ t.me.epc = s.me.epc ∧ t.me.cause = s.me.cause ∧ t.mem = s.mem ∧
      ∀ g k, (g, k) ≠ s.cur → t.ctx g k = s.ctx g k

/-- R35, R42: a privileged instruction below its lowest mode, or outside context 0 where it is for context 0 only, takes PRIV
with its word, and has no other effect. -/
def Obligations.PrivilegeRule : Prop :=
  ∀ (s : State) (i : Instr) (lowest : Mode) (zeroOnly : Bool) (w : BitVec 32), privileged i = some (lowest, zeroOnly) →
    ¬ Allowed s lowest zeroOnly → encode i = some w → s.me.th = false →
    ∃ t, exec i s = .next t ∧ Traps s t 0x03 (w.zeroExtend 64)

/-- R303, R304, R317: SRR writes rd the register's value, and changes nothing else. -/
def Sys2Proof.Claims.SystemReads : Prop :=
  ∀ (s : State) (o : Srd) (v : Word), sysReads s o.n.toNat = some v → Allowed s (Mode.ofCode (o.n.toNat / 1024)) false → Ready s o.use →
    (o.n = 3 → fpctlBusy s s.cur.1 s.cur.2 = false) →
    ∃ t, exec (.srr o) s = .next t ∧ t.me.pc = s.me.pc + 4 ∧ Written t o.d v false ∧ Keeps s t [o.d] s.me.fpctl

/-- R127, R198, R201, R215, R303 to R305: SRW, SRS and SRC of every register that is not read-only leave the value in it that its
write rules make of the new one, every other system register as it was but for the mask count in STATUS, and no general register and
no byte of memory changes. -/
def Sys2Proof.Claims.SystemWrites : Prop :=
  ∀ (s : State) (i : Instr) (o : Swr) (x v : Word), o.n.toNat ∈ writableRegs → sysReads s o.n.toNat = some x → sysNew x i (s.g o.d) = some (o, v) →
    Allowed s (Mode.ofCode (o.n.toNat / 1024)) false → Ready s o.use → (o.n = 3 → fpctlBusy s s.cur.1 s.cur.2 = false) →
    ∃ t y, exec i s = .next t ∧ t.me.pc = s.me.pc + 4 ∧ sysReads t o.n.toNat = some y ∧ holdsAfter s o.n.toNat x v y ∧
      (∀ m, m ≠ o.n.toNat → m ≠ 0x400 → sysReads t m = sysReads s m) ∧
      (o.n ≠ 0x400 → t.me.th = s.me.th ∧ t.me.ih = s.me.ih ∧ t.me.pmode = s.me.pmode) ∧ t.me.regs = s.me.regs ∧ t.me.shadow = s.me.shadow ∧
      t.mem = s.mem ∧ ∀ g k, (g, k) ≠ s.cur → t.ctx g k = s.ctx g k

/-- R116, R322, R65, R231, R307, R146: YIELD goes on and holds the context back until its hold expires; HALT in M mode stops the
context at the HALT; a long-latency result lands in the register its instruction named, with its flags; a deferred trap is taken
at the boundary; a fault record that waits is posted once its queue has room. R146: a full scratchpad word that loses its data
reads 0, full, with tag 0 (where the error is found by no access, as log entry 24 lets the outside choose), and a corrected
error of SRAM or L2 only adds 1 to ECCCNT. -/
def Obligations.ContextEvents : Prop :=
  (∀ s : State, ∃ t, exec .yield s = .next t ∧ t.me.pc = s.me.pc + 4 ∧ t.me.yieldHold = true ∧ t.me.regs = s.me.regs ∧ t.mem = s.mem) ∧
  (∀ (s : State) (g k : Nat), (s.ctx g k).yieldHold = true →
    ∃ t, exec (.yieldHoldExpiry g k) s = .next t ∧ t.ctx g k = { s.ctx g k with yieldHold := false } ∧ t.mem = s.mem) ∧
  (∀ s : State, s.me.mode = .m → ∃ t, exec .halt s = .next t ∧ t.me.stop = some .halted ∧ t.me.pc = s.me.pc ∧ t.me.regs = s.me.regs ∧ t.mem = s.mem) ∧
  (∀ (s : State) (g k : Nat) (f : Fill) (r : List Fill), (s.ctx g k).fills = f :: r → f.grid = none → (∀ e ∈ r, e.grid = none) → 0 < f.reg → f.reg < 64 → (f.shadow = true → 24 ≤ f.reg ∧ f.reg < 32) →
    ∃ t, exec (.longLatencyFill g k) s = .next t ∧ (t.ctx g k).regIn f.shadow (BitVec.ofNat 6 f.reg) = filled (s.ctx g k) f.shadow (BitVec.ofNat 6 f.reg) (GReg.of f.val false) ∧
      (t.ctx g k).fpctl = (s.ctx g k).fpctl ||| f.flags.zeroExtend 64 ∧ (t.ctx g k).fills = r ∧ (t.ctx g k).pc = (s.ctx g k).pc ∧ t.mem = s.mem ∧
      ∀ h j, (h, j) ≠ (g, k) → t.ctx h j = s.ctx h j) ∧
  (∀ (s : State) (g k : Nat) (d : Deferred) (r : List Deferred), (s.ctx g k).deferred = d :: r → alive s g k = true → atBoundary (s.ctx g k) = true →
    (s.ctx g k).th = false → ∃ t, exec (.engineDeferredTrap g k) s = .next t ∧ (t.ctx g k).cause = BitVec.ofNat 8 d.cause ∧
      (t.ctx g k).tval = d.tval ∧ (t.ctx g k).pc = (s.core g).tvec ∧ (t.ctx g k).deferred = r ∧ t.mem = s.mem) ∧
  (∀ (s s' : State) (n : Nat) (r : FaultRec), s.faultWait[n]? = some r → tryPost s r = some s' →
    ∃ t, exec (.faultRecordDeferredPost n) s = .next t ∧ t.mem = s'.mem ∧ t.faultWait = s'.faultWait.eraseIdx n) ∧
  (∀ (s : State) (r : List Move) (g off : Nat), s.powered = true → s.agenda = .upset (windowOf g + off) .nobody :: r → off % 8 = 0 →
    placeOf s (windowOf g + off) = .spad g off → Memory.wf s.mem = true → fullAt s g off = true →
    queueHeader s (faultQueueOf s ((coreBasin s g).getD 64)) = 0 →
    ∃ t, step s = .next t ∧ spWord t g off = 0 ∧ fullAt t g off = true ∧ tagAt t g off = false ∧ t.agenda = r ∧
      ∀ h k, t.ctx h k = s.ctx h k) ∧
  (∀ (s : State) (r : List Move) (tower : Nat) (dram : Bool), s.powered = true → s.agenda = .corrected tower dram :: r → towerPresent s tower = true →
    ∃ t, step s = .next t ∧ t.mem = s.mem ∧ (∀ h k, t.ctx h k = s.ctx h k) ∧
      (dram = false → (s.guard tower).ecc.toNat % 2 ^ 32 + 1 < 2 ^ 32 → (t.guard tower).ecc = (s.guard tower).ecc + 1))

/-- R150 to R152: a line operation on a range of length 0 writes 0; on one line whose tokens its home slice holds it is
performed: L2ZERO leaves the line's bytes zero, CFLUSH leaves them, and L2DISC of a line without newer data leaves them; rd is
the number of bytes done. L2PF queues the range. Operands that are not multiples of 128 take MISALIGN. -/
def Sys2Proof.Claims.LineOperations : Prop :=
  (∀ (s : State) (i : Instr) (o : R3), (i = .l2disc o ∨ i = .l2zero o ∨ i = .cflush o) → Ready s o.use → s.me.fences = [] → s.me.range = none →
    (s.g o.a).toNat % 128 = 0 → s.g o.b = 0 → ∃ t, exec i s = .next t ∧ t.me.pc = s.me.pc + 4 ∧ Written t o.d 0 false ∧ Keeps s t [o.d] s.me.fpctl) ∧
  (∀ (s : State) (i : Instr) (o : R3), (i = .l2disc o ∨ i = .l2zero o ∨ i = .cflush o) → Ready s o.use → s.me.fences = [] → s.me.th = false →
    ((s.g o.a).toNat % 128 ≠ 0 ∨ (s.g o.b).toNat % 128 ≠ 0) → ∃ t, exec i s = .next t ∧ Traps s t 0x06 (s.g o.a)) ∧
  (∀ (s : State) (o : Rab), Ready s o.use → s.me.th = false → ((s.g o.a).toNat % 128 ≠ 0 ∨ (s.g o.b).toNat % 128 ≠ 0) →
    ∃ t, exec (.l2pf o) s = .next t ∧ Traps s t 0x06 (s.g o.a)) ∧
  (∀ (s s0 s' : State) (i : Instr) (o : R3) (op : LineOp) (w : Where), (i = .l2disc o ∧ op = .disc ∨ i = .l2zero o ∧ op = .zero ∨ i = .cflush o ∧ op = .flush) →
    Ready s o.use → s.me.fences = [] → s.me.range = none → (s.g o.a).toNat % 128 = 0 → s.g o.b = 128 → Memory.wf s0.mem = true →
    translateNow s s.who (s.g o.a) op.access 128 = (.ok w, s0) → placeOf s0 w.pa = .dram → lineDraining s0 s.cur.1 s.cur.2 (lineOf w.pa) = false →
    lineHolds s0 op (lineOf w.pa) (homeSlice s0 w.vault w.pa) (maskOf s0 s.cur.1) = some s' →
    ∃ t, exec i s = .next t ∧ t.me.pc = s.me.pc + 4 ∧ Written t o.d 128 false ∧
      (i = .l2zero o → ∀ a, readByte t.mem a = if lineOf w.pa * 128 ≤ a ∧ a < lineOf w.pa * 128 + 128 then 0 else readByte s0.mem a) ∧
      (i = .cflush o → t.mem = s0.mem) ∧ (i = .l2disc o → flook s'.stale (lineOf w.pa) = none → t.mem = s0.mem)) ∧
  (∀ (s : State) (o : Rab), Ready s o.use → (s.g o.a).toNat % 128 = 0 → (s.g o.b).toNat % 128 = 0 → s.g o.b ≠ 0 →
    ∃ t, exec (.l2pf o) s = .next t ∧ t.me.pc = s.me.pc + 4 ∧ t.mem = s.mem ∧ t.me.regs = s.me.regs ∧
      ∃ p ∈ t.myCore.prefetch, p.va = s.g o.a ∧ p.left = (s.g o.b).toNat / 128)

/-- R153: TLBINV parks until every store before it is visible at dev scope; then it removes the translations it names from every
TLB and translation cache, and parks until the accesses made before it have been performed; then it writes 0, the translations
gone. -/
def Sys2Proof.Claims.TlbInvalidation : Prop :=
  (∀ (s : State) (o : R3), Allowed s .s false → Ready s o.use → s.me.mode = .m → s.g o.b = 2 → s.me.relMark = none →
    visibleAt s 3 s.cur.1 s.serial = false →
    ∃ t, exec (.tlbinv o) s = .next t ∧ t.me.pc = s.me.pc ∧ t.me.park = some (.drain 3 s.serial) ∧ t.me.relMark = some s.serial ∧ t.mem = s.mem) ∧
  (∀ (s : State) (o : R3), Allowed s .s false → Ready s o.use → s.me.mode = .m → s.g o.b = 2 →
    (s.me.relMark = none ∧ visibleAt s 3 s.cur.1 s.serial = true ∨
      ∃ m, s.me.relMark = some m ∧ s.me.inval = none ∧ visibleAt s 3 s.cur.1 m = true) →
    ∃ t, exec (.tlbinv o) s = .next t ∧ (∀ g, (t.core g).tlb = []) ∧ (∀ n, (t.tower n).tcache = []) ∧ t.me.pc = s.me.pc ∧
      t.me.park = some (.tlbinv s.serial s.clock) ∧ t.mem = s.mem) ∧
  (∀ (s : State) (o : R3) (m n : Nat), Allowed s .s false → Ready s o.use → s.me.mode = .m → s.g o.b = 2 → s.me.relMark = some m →
    s.me.inval = some n → allPerformed s m n = true →
    ∃ t, exec (.tlbinv o) s = .next t ∧ t.me.pc = s.me.pc + 4 ∧ Written t o.d 0 false ∧ (∀ g, (t.core g).tlb = []) ∧
      (∀ n, (t.tower n).tcache = []) ∧ Rest s t [o.d] ∧ t.mem = s.mem)

/-- R315, R21, R30: TRAP takes SYSCALL, BREAK takes BREAK and a word that names no instruction takes ILL with the word, each
with EPC at the instruction; all as R300 gives the entry. R316: ERET in S or M mode returns to EPC in the mode of PMODE with TH
clear, and leaves registers, memory and other contexts. -/
def Obligations.TrapEntryAndReturn : Prop := TrapEntry ∧ TrapReturn

/-- R303, R304, R317: SRR writes rd the register's value, and changes nothing else. R127, R198, R201, R215, R303 to R305: SRW,
SRS and SRC of every register that is not read-only leave the value in it that its write rules make of the new one (reserved
bits, a refused save area or probe interval), every other system register as it was but for the mask count in STATUS, and no
general register and no byte of memory changes. -/
def Obligations.SystemRegisters : Prop := SystemReads ∧ SystemWrites

/-- R150 to R152: a line operation on a range of length 0 writes 0; on one line whose tokens its home slice holds it is
performed: L2ZERO leaves the line's bytes zero, CFLUSH leaves them, and L2DISC of a line without newer data leaves them; rd is
the number of bytes done. L2PF queues the range. Operands that are not multiples of 128 take MISALIGN. R153: TLBINV parks until
every store before it is visible at dev scope; then it removes the translations it names from every TLB and translation cache,
and parks until the accesses made before it have been performed; then it writes 0, the translations gone. -/
def Obligations.CacheInstructions : Prop := LineOperations ∧ TlbInvalidation

/-- R114, R115, R117 to R119: TID writes the thread's identity; EXIT frees a context of the dispatcher's, keeps a START-owned
one as DONE, and lets context 0 go on when an event is latched; START starts a held image; REAP frees a finished context; CTXPUT
and CTXGET write and read an image. -/
def Obligations.ContextInstructions : Prop :=
  (∀ (s : State) (o : Rd), Ready s o.use →
    ∃ t, exec (.tid o) s = .next t ∧ t.me.pc = s.me.pc + 4 ∧ Keeps s t [o.d] s.me.fpctl ∧
      (o.d ≠ 0 → s.cur.2 < 16 → coreNumber s s.me.mode (queueBasin s s.cur.1) s.cur.1 < 2 ^ 16 →
        (t.g o.d).toNat % 16 = s.cur.2 ∧ (t.g o.d).toNat / 16 % 2 ^ 12 = (if s.myCore.wide then 1 else 0) ∧
        (t.g o.d).toNat / 2 ^ 16 % 2 ^ 16 = coreNumber s s.me.mode (queueBasin s s.cur.1) s.cur.1 ∧
        (t.g o.d).toNat / 2 ^ 32 % 256 = s.me.mode.code ∧
        (t.g o.d).toNat / 2 ^ 40 = (if s.me.mode = .m then 0xFFFF else queueBasin s s.cur.1))) ∧
  (∀ s : State, s.cur.2 ≠ 0 → openEnd s s.cur.1 s.cur.2 = none → s.me.anyPending = false → vectorBusy s s.cur.1 s.cur.2 = false →
    heldEnds s s.cur.1 s.cur.2 = [] → s.me.group = none → isBinder s = false →
    ∃ t, exec .exit s = .next t ∧ (t.ctx s.cur.1 s.cur.2).phase = (if s.me.owned then .done else .free) ∧
      (s.me.owned = true → (t.ctx s.cur.1 s.cur.2).regs = s.me.regs) ∧ ∀ k, k ≠ s.cur.2 → t.ctx s.cur.1 k = s.ctx s.cur.1 k) ∧
  (∀ s : State, s.cur.2 = 0 → openEnd s s.cur.1 s.cur.2 = none → s.me.anyPending = false → vectorBusy s s.cur.1 s.cur.2 = false →
    heldEnds s s.cur.1 s.cur.2 = [] → s.me.group = none → isBinder s = false →
    ∃ t, exec .exit s = .next t ∧ t.mem = s.mem ∧ t.me.regs = s.me.regs ∧ t.me.evl = s.me.evl ∧
      (s.me.evl ≠ 0 → t.me.pc = s.me.pc + 4 ∧ t.me.park = none) ∧ (s.me.evl = 0 → t.me.pc = s.me.pc ∧ t.me.park = some .exitZero)) ∧
  (∀ (s : State) (o : R3), Allowed s .s true → Ready s o.use → goodCtx s (s.g o.a) = true → s.g o.b = 0 →
    (s.ctx s.cur.1 (s.g o.a).toNat).phase = .held → vectorBusy s s.cur.1 s.cur.2 = false →
    s.me.relMark = none → visibleAt s 1 s.cur.1 s.serial = true →
    ∃ t, exec (.start o) s = .next t ∧ t.me.pc = s.me.pc + 4 ∧ Written t o.d 0 false ∧
      t.ctx s.cur.1 (s.g o.a).toNat = { s.ctx s.cur.1 (s.g o.a).toNat with
        phase := .run, owned := true, counted := true, acqs := [⟨s.cur.1, s.serial, false⟩] } ∧ t.mem = s.mem) ∧
  (∀ (s : State) (o : R2), Allowed s .s true → Ready s o.use → goodCtx s (s.g o.a) = true → (s.ctx s.cur.1 (s.g o.a).toNat).phase = .done →
    ∃ t, exec (.reap o) s = .next t ∧ t.me.pc = s.me.pc + 4 ∧ (t.ctx s.cur.1 (s.g o.a).toNat).phase = .free ∧
      Written t o.d (((s.ctx s.cur.1 (s.g o.a).toNat).regIn false 4).val <<< 32 ||| 1) false ∧ t.mem = s.mem) ∧
  (∀ (s : State) (o : R3) (k n : Nat), Allowed s .s true → Ready s o.use → 1 ≤ k → k < s.myCore.count → k < 16 → 1 ≤ n → n < s.myCore.regCount → n < 64 →
    s.g o.a = BitVec.ofNat 64 (256 * n + k) → (s.ctx s.cur.1 k).phase = .held →
    ∃ t, exec (.ctxput o) s = .next t ∧ t.me.pc = s.me.pc + 4 ∧ Written t o.d 0 false ∧
      (t.ctx s.cur.1 k).regIn false (BitVec.ofNat 6 n) = GReg.of (s.g o.b) (s.gtag o.b) ∧ (t.ctx s.cur.1 k).pc = (s.ctx s.cur.1 k).pc ∧ t.mem = s.mem) ∧
  (∀ (s : State) (o : R2) (k n : Nat), Allowed s .s true → Ready s o.use → 1 ≤ k → k < s.myCore.count → k < 16 → n < s.myCore.regCount → n < 64 →
    s.g o.a = BitVec.ofNat 64 (256 * n + k) → (s.ctx s.cur.1 k).phase = .held →
    ∃ t, exec (.ctxget o) s = .next t ∧ t.me.pc = s.me.pc + 4 ∧ Keeps s t [o.d] s.me.fpctl ∧
      Written t o.d ((s.ctx s.cur.1 k).regIn false (BitVec.ofNat 6 n)).val ((s.ctx s.cur.1 k).regIn false (BitVec.ofNat 6 n)).tag)

/-- R104, R120 to R123, R105: FORK pushes the parent's continuation and jumps to the child with bit 0 of rd set, or with a full
deque runs the child inline; RETF returns inline to an even link, and pops its own continuation for an odd one; FWAIT of a zero
count goes on, and its wake lets it go on; ENQ places a record on the core's own tower. -/
def Obligations.ForksAndQueues : Prop :=
  (∀ (s : State) (o : R2), Ready s (forkUse o) → (s.g o.a).toNat % 4 = 0 → s.myCore.deque.length < 64 → vectorBusy s s.cur.1 s.cur.2 = false →
    s.me.relMark = none → visibleAt s 1 s.cur.1 s.serial = true →
    ∃ t, exec (.fork o) s = .next t ∧ t.me.pc = s.g o.a ∧ Written t o.d (s.me.pc + 5) false ∧ t.mem = s.mem ∧
      (∃ r, t.myCore.deque = s.myCore.deque ++ [r] ∧ r.pc = s.me.pc + 4 ∧ r.g2 = s.g 2 ∧ r.g3 = s.g 3 ∧ r.mode = s.me.mode ∧ r.ctx = s.cur.2) ∧
      ∀ n, n ≠ o.d → t.me.reg n = s.me.reg n) ∧
  (∀ (s : State) (o : R2), Ready s (forkUse o) → (s.g o.a).toNat % 4 = 0 → 64 ≤ s.myCore.deque.length →
    ∃ t, exec (.fork o) s = .next t ∧ t.me.pc = s.g o.a ∧ Written t o.d (s.me.pc + 4) false ∧ Keeps s t [o.d] s.me.fpctl) ∧
  (∀ (s : State) (o : Ra), Ready s o.use → (s.g o.a).toNat % 4 = 0 → ∃ t, exec (.retf o) s = .next t ∧ t.me.pc = s.g o.a ∧ Keeps s t [] s.me.fpctl) ∧
  (∀ (s : State) (o : Ra) (r : DqRec), Ready s o.use → (s.g o.a).toNat % 4 = 1 → (s.me.reg 3).st = .full → newestRec s.myCore s.cur.2 = some r →
    r.pc = s.g o.a - 1 → r.g3 = s.g 3 → (s.me.reg 2).st ≠ .pending →
    ∃ t, exec (.retf o) s = .next t ∧ t.me.pc = r.pc ∧ t.me.reg 2 = GReg.of r.g2 false ∧ t.me.reg 3 = GReg.of r.g3 false ∧
      t.myCore.deque = eraseLast s.myCore.deque r ∧ t.mem = s.mem) ∧
  (∀ (s : State) (o : Ra) (w : Where), Ready s o.use → (s.g o.a).toNat % 8 = 0 → translate s s.who (s.g o.a) .load 8 = .ok w → Unhindered s w 3 →
    ownPending s s.cur.1 s.cur.2 w.pa = false → overlaps s s.cur.1 (gctx s.cur.1 s.cur.2) w.pa 8 = false →
    seen64 s s.cur.1 s.cur.2 w.pa = 0 → ∃ t, exec (.fwait o) s = .next t ∧ t.me.pc = s.me.pc + 4 ∧ Keeps s t [] s.me.fpctl) ∧
  (∀ (s : State) (g k a : Nat), (s.ctx g k).park = some (.fwait a) → seen64 s g k a = 0 →
    ∃ t, exec (.fwaitWake g k) s = .next t ∧ t.ctx g k = { s.ctx g k with park := none } ∧ t.mem = s.mem) ∧
  (∀ (s : State) (o : R2) (w : Where) (off : Nat) (r : ReadyRec), Ready s o.use → (s.g o.a).toNat % 64 = 0 →
    translate s s.who (s.g o.a) .load 64 = .ok w → placeOf s w.pa = .spad s.cur.1 off → (w.own = true → ∀ i, i < 8 → tagAt s s.cur.1 (off + 8 * i) = false) →
    vectorBusy s s.cur.1 s.cur.2 = false →
    parseRecord s (recordBasin s) s.me.mode ((wordsOf 8 (readBytes s.mem w.pa 64)).map fun v => (v, false)) = some (r, false) →
    s.cur.1 < 2048 → inTowers r.towers (towerOf s.cur.1) = true → s.me.relMark = none → visibleAt s 2 s.cur.1 s.serial = true →
    (∀ n, ((s.tower (towerOf s.cur.1)).bank n).length < 256) →
    ∃ t, exec (.enq o) s = .next t ∧ t.me.pc = s.me.pc + 4 ∧ Written t o.d 0 false ∧ t.mem = s.mem ∧
      ∃ n, ∃ q ∈ (t.tower (towerOf s.cur.1)).bank n, q.work = r.work ∧ q.mode = r.mode ∧ q.basin = r.basin ∧ q.acqs = [⟨s.cur.1, s.serial, false⟩])

/-- R19, R96, R105: a dispatcher of a present core with a FREE context first starts the top record of its own core's deque: the
join count at the record's g3 rises by one and no other byte of memory changes; a stolen record that waits at the core is
started before that. -/
def Obligations.DispatcherFills : Prop :=
  (∀ (s : State) (g b0 b1 v k : Nat) (r : ReadyRec) (l : List ReadyRec) (pc : Word), freeCtx s g = some k → (s.core g).asleep = false →
    bedMoving s g = false → corePresent s g = true → (s.core g).stolen = r :: l → r.work = .launch pc [] →
    ∃ t, exec (.dispatchFill g b0 b1 v) s = .next t ∧ (t.ctx g k).phase = .run ∧ (t.ctx g k).pc = pc ∧ (t.ctx g k).mode = r.mode ∧
      (t.ctx g k).owned = false ∧ (t.ctx g k).regs = Ctx.fresh.regs ∧ t.mem = s.mem ∧ ∀ j, j ≠ k → t.ctx g j = s.ctx g j) ∧
  (∀ (s s1 : State) (g b0 b1 v k : Nat) (r : DqRec) (l : List DqRec) (w : Where), freeCtx s g = some k → (s.core g).asleep = false →
    bedMoving s g = false → corePresent s g = true → (s.core g).stolen = [] → (s.core g).deque = r :: l → r.pinned = false →
    r.basin = queueBasin s g → r.g3.toNat % 8 = 0 → translateNow s ⟨g, r.mode, r.basin⟩ r.g3 .atomic 8 = (.ok w, s1) →
    placeOf s1 w.pa ≠ .device → protectedPlace s1 w.pa 8 = false → lineBuffered s1 g (lineOf w.pa) = false →
    (∀ e ∈ (s1.tower (sliceTower s1 g)).outbound, e.line ≠ lineOf w.pa) → Memory.wf s1.mem = true →
    ∃ t, exec (.dispatchFill g b0 b1 v) s = .next t ∧ (t.ctx g k).phase = .run ∧ (t.ctx g k).pc = r.pc ∧ (t.ctx g k).mode = r.mode ∧
      (t.ctx g k).regIn false 2 = GReg.of r.g2 false ∧ (t.ctx g k).regIn false 3 = GReg.of r.g3 false ∧ (t.ctx g k).acqs = [r.acq] ∧
      read64 t.mem w.pa = read64 s1.mem w.pa + 1 ∧ Outside s1 t w.pa 8) ∧
  (∀ (s : State) (g : Nat), (s.core g).asleep = true →
    ∃ t, exec (.dispatchRetryExpiry g) s = .next t ∧ (t.core g).asleep = false ∧ ∀ k, t.ctx g k = s.ctx g k) ∧
  (∀ (s : State) (g v n : Nat) (q : Steal) (r : ReadyRec), (s.core g).steal = some q → q.answered = false → corePresent s g = true →
    towerPresent s q.tower = true → bestToSend s q.tower g = some (n, r) →
    ∃ t, exec (.stealRequestReceive g v) s = .next t ∧ (t.core g).steal = some ⟨q.tower, true, some r⟩ ∧
      (t.tower q.tower).bank n = ((s.tower q.tower).bank n).erase r) ∧
  (∀ (s : State) (g k : Nat) (q : Steal) (r : ReadyRec) (pc : Word), (s.core g).steal = some q → q.answered = true → q.found = some r →
    freeCtx s g = some k → bedMoving s g = false → corePresent s g = true → r.work = .launch pc [] →
    ∃ t, exec (.stealAnswerReceive g) s = .next t ∧ (t.core g).steal = none ∧ (t.ctx g k).phase = .run ∧ (t.ctx g k).pc = pc)

/-- R107 to R109, R124: JOIN raises SIZE and reads SENSE, and the first member of an empty group sets its core and tower; LEAVE
of a member that has not arrived lowers SIZE; a second JOIN writes 2^63, whatever its address (log entry 52: the spec does not
order that answer and the check of the address); outside a group LEAVE, BAR and BARA write 2^63 and BARW goes on.
-/
def Sys2Proof.Claims.GroupMembership : Prop :=
  (∀ (s : State) (o : R2) (w : Where), Ready s o.use → s.me.group = none → GroupRecord s (s.g o.a) w → Memory.wf s.mem = true →
    ∃ t, exec (.join o) s = .next t ∧ Answers s t o.d (if recSense s w.pa then 1 else 0) ∧
      recSize t w.pa = (recSize s w.pa + 1) % 2 ^ 32 ∧ recSense t w.pa = recSense s w.pa ∧ recArrived t w.pa = recArrived s w.pa ∧
      (recSize s w.pa = 0 → recOne t w.pa = s.cur.1 % 2 ^ 16 ∧ recTwrs t w.pa = towerBit s.cur.1 % 2 ^ 8) ∧
      t.me.group = some ⟨s.g o.a, w.pa, w.vault, false, false, false, none⟩ ∧ Outside s t w.pa 64) ∧
  (∀ (s : State) (o : R2), Ready s o.use → s.me.group.isSome = true →
    ∃ t, exec (.join o) s = .next t ∧ Answers s t o.d 0x8000000000000000 ∧ Keeps s t [o.d] s.me.fpctl) ∧
  (∀ (s : State) (o : Rd) (m : Member), Ready s o.use → s.me.group = some m → m.arrived = false → Memory.wf s.mem = true →
    (recArrived s m.record + 1 < recSize s m.record ∨ recSize s m.record = 1) →
    ∃ t, exec (.leave o) s = .next t ∧ Answers s t o.d 0 ∧ t.me.group = none ∧ recSize t m.record = recSize s m.record - 1 ∧
      recArrived t m.record = recArrived s m.record ∧ recSense t m.record = recSense s m.record ∧ Outside s t m.record 32) ∧
  (∀ (s : State) (i : Instr) (o : Rd), (i = .leave o ∨ i = .bar o ∨ i = .bara o) → Ready s o.use → s.me.group = none →
    ∃ t, exec i s = .next t ∧ Answers s t o.d 0x8000000000000000 ∧ Keeps s t [o.d] s.me.fpctl) ∧
  (∀ (s : State) (o : Ra), Ready s o.use → s.me.group = none →
    ∃ t, exec (.barw o) s = .next t ∧ t.me.pc = s.me.pc + 4 ∧ Keeps s t [] s.me.fpctl)

/-- R109, R110, R125: BARA arrives, as a release at its group's scope, and writes the sense that its phase's release produces;
BAR arrives and waits at itself; BARW of a
value with bit 63 clear waits until SENSE is the value's bit 0. At the home an arrival, once the stores before it can be seen at the
group's scope, adds its count to ARRIVED, and the one
that makes the members complete inverts SENSE and clears ARRIVED; the release wakes a waiting member, whose BAR then writes 0.
-/
def Sys2Proof.Claims.BarriersClaim : Prop :=
  (∀ (s : State) (o : Rd) (m : Member), Ready s o.use → s.me.group = some m → vectorBusy s s.cur.1 s.cur.2 = false → m.inPhase s = false →
    ∃ t, exec (.bara o) s = .next t ∧ Answers s t o.d (if recSense s m.record then 0 else 1) ∧ t.mem = s.mem ∧
      t.me.fences = s.me.fences ++ [⟨recScope s m.record, s.serial, true⟩] ∧
      ∃ x, t.me.group = some x ∧ x.record = m.record ∧ x.arrived = true ∧ x.target = !recSense s m.record) ∧
  (∀ (s : State) (o : Rd) (m : Member), Ready s o.use → s.me.group = some m → vectorBusy s s.cur.1 s.cur.2 = false → m.inPhase s = false →
    m.bar ≠ some s.me.pc →
    ∃ t, exec (.bar o) s = .next t ∧ t.me.park = some (.barrier m.record (!recSense s m.record) true) ∧ t.me.pc = s.me.pc ∧
      t.me.regs = s.me.regs ∧ t.mem = s.mem ∧ ∃ x, t.me.group = some x ∧ x.arrived = true ∧ x.bar = some s.me.pc) ∧
  (∀ (s : State) (o : Rd) (m : Member), Ready s o.use → s.me.group = some m → m.bar = some s.me.pc → PhaseOver s m.record m.target →
    ∃ t, exec (.bar o) s = .next t ∧ Answers s t o.d 0 ∧ t.mem = s.mem ∧
      t.me.group = some { m with arrived := false, sent := false, bar := none }) ∧
  (∀ (s : State) (o : Ra) (m : Member), Ready s o.use → s.me.group = some m → (s.g o.a).getLsbD 63 = false →
    PhaseOver s m.record ((s.g o.a).getLsbD 0) →
    ∃ t, exec (.barw o) s = .next t ∧ t.me.pc = s.me.pc + 4 ∧ Keeps s t [] s.me.fpctl) ∧
  (∀ (s : State) (o : Ra) (m : Member), Ready s o.use → s.me.group = some m → (s.g o.a).getLsbD 63 = false →
    recSense s m.record ≠ (s.g o.a).getLsbD 0 →
    ∃ t, exec (.barw o) s = .next t ∧ t.me.pc = s.me.pc ∧ t.me.park = some (.barrier m.record ((s.g o.a).getLsbD 0) true)) ∧
  (∀ (s : State) (n : Nat) (a : Arrival), s.arrivals[n]? = some a → Memory.wf s.mem = true → recArrived s a.record + a.n < 2 ^ 32 →
    heldCore s a.core (homeSlice s a.vault (128 * lineOf a.record) / 256) a.acq.mark = false →
    visibleAt s (recScope s a.record) a.core a.acq.mark = true → ((read64 s.mem (a.record + 16)).toNat / 2 ^ 7) % 2 = 0 → 0 < recSize s a.record →
    ∃ t, exec (.barrierArrivalAtHome n) s = .next t ∧ t.arrivals = s.arrivals.eraseIdx n ∧ (∀ g k, t.ctx g k = s.ctx g k) ∧
      recSize t a.record = recSize s a.record ∧ Outside s t (a.record + 8) 8 ∧
      (recArrived s a.record + a.n < recSize s a.record →
        recArrived t a.record = recArrived s a.record + a.n ∧ recSense t a.record = recSense s a.record) ∧
      (recSize s a.record ≤ recArrived s a.record + a.n → recArrived t a.record = 0 ∧ recSense t a.record = !recSense s a.record)) ∧
  (∀ (s : State) (g k r : Nat) (sense bar : Bool), (s.ctx g k).park = some (.barrier r sense bar) → PhaseOver s r sense →
    ∃ t, exec (.barrierWake g k) s = .next t ∧ t.ctx g k = { s.ctx g k with park := none } ∧ t.mem = s.mem ∧
      ∀ h j, (h, j) ≠ (g, k) → t.ctx h j = s.ctx h j)

/-- R95, R319, R126, R128: REPART writes 2 for a value above 1, 0 where nothing is to change, and 1 while another context is in
use; otherwise it changes the core's width and clears g32 up, where a pending register stays pending and its fill will leave 0.
CARVE writes 1 above 12; in context 0 of an idle unassigned core in M mode it changes the scratchpad to 16 minus the value; a
member's request is left in its group's record. -/
def Obligations.CoreShape : Prop :=
  (∀ (s : State) (o : R2), Allowed s .s true → Ready s o.use →
    (1 < (s.g o.a).toNat ∨ decide ((s.g o.a).toNat = 1) = s.myCore.wide ∨ repartIdle s s.cur.1 = false) →
    ∃ t, exec (.repart o) s = .next t ∧ Answers s t o.d (if 1 < (s.g o.a).toNat then 2
      else if decide ((s.g o.a).toNat = 1) = s.myCore.wide then 0 else 1) ∧ Keeps s t [o.d] s.me.fpctl) ∧
  (∀ (s : State) (o : R2), Allowed s .s true → Ready s o.use → (s.g o.a).toNat ≤ 1 → decide ((s.g o.a).toNat = 1) ≠ s.myCore.wide →
    repartIdle s s.cur.1 = true → o.d.toNat < 32 →
    ∃ t, exec (.repart o) s = .next t ∧ t.me.pc = s.me.pc + 4 ∧ Written t o.d 0 false ∧ t.myCore.wide = decide ((s.g o.a).toNat = 1) ∧
      (∀ n : RegNo, n.toNat < 32 → n ≠ o.d → t.me.reg n = s.me.reg n) ∧ (∀ n : RegNo, 32 ≤ n.toNat →
        t.me.reg n = if (s.me.reg n).st = .pending then s.me.reg n else GReg.zero) ∧
      (∀ n : RegNo, 32 ≤ n.toNat → (n.toNat ∈ t.me.void ↔ (s.me.reg n).st = .pending)) ∧
      (∀ k, k ≠ 0 → t.ctx s.cur.1 k = Ctx.fresh) ∧ t.mem = s.mem) ∧
  (∀ (s : State) (o : R3), Ready s o.use → 12 < (s.g o.b).toNat →
    ∃ t, exec (.carve o) s = .next t ∧ Answers s t o.d 1 ∧ Keeps s t [o.d] s.me.fpctl) ∧
  (∀ (s : State) (o : R3), Ready s o.use → (s.g o.b).toNat ≤ 12 → s.g o.a = 0 → s.me.mode = .m → s.cur.2 = 0 → s.cur.1 < 2048 →
    s.myCore.tenant.getLsbD 6 = true → (s.myCore.ctxs.all fun p => decide (p.1 = 0) || decide (p.2.phase = .free)) = true →
    carveRefused s s.cur.1 (16 - (s.g o.b).toNat) = false →
    ∃ t, exec (.carve o) s = .next t ∧ Answers s t o.d 0 ∧ t.myCore.units = 16 - (s.g o.b).toNat ∧
      (s.myCore.units ≤ 16 - (s.g o.b).toNat → t.mem = s.mem) ∧
      ∀ a, a < windowOf s.cur.1 + (16 - (s.g o.b).toNat) * 65536 ∨ windowOf s.cur.1 + s.myCore.units * 65536 ≤ a →
        readByte t.mem a = readByte s.mem a) ∧
  (∀ (s : State) (o : R3) (w : Where) (m : Member), Ready s o.use → (s.g o.b).toNat ≤ 12 → s.g o.a ≠ 0 → GroupRecord s (s.g o.a) w →
    s.me.group = some m → m.record = w.pa → Memory.wf s.mem = true →
    ∃ t, exec (.carve o) s = .next t ∧ Answers s t o.d 0 ∧ read64 t.mem (w.pa + 16) = BitVec.ofNat 64 (128 + (s.g o.b).toNat) ∧
      Outside s t (w.pa + 16) 8)

/-- R107 to R109, R124: JOIN raises SIZE and reads SENSE, and the first member of an empty group sets its core and tower; LEAVE
of a member that has not arrived lowers SIZE; a second JOIN writes 2^63, whatever its address (log entry 52: the spec does not
order that answer and the check of the address); outside a group LEAVE, BAR and BARA write 2^63 and BARW goes on.
R109, R125: BARA arrives, and writes the sense that its phase's release produces; BAR arrives and waits at itself; BARW of a
value with bit 63 clear waits until SENSE is the value's bit 0. At the home an arrival, once the stores before it can be seen at the
group's scope, adds its count to ARRIVED, and the one
that makes the members complete inverts SENSE and clears ARRIVED; the release wakes a waiting member, whose BAR then writes 0.
-/
def Obligations.Groups : Prop := GroupMembership ∧ BarriersClaim

/-- R323 to R327, R331, R342: GLAZE of a legal descriptor zeroes the lines of its scoreboard and no other byte, takes a table
entry for the grid, and writes the handle; a group without predecessors is READY, every other one BLOCKED. -/
def Obligations.GridLaunch : Prop :=
  ∀ (s s1 : State) (o : R3) (W : List Word) (n slot : Nat) (places : List Where), Ready s o.use → Launches s o W n slot places s1 →
    Memory.wf s.mem = true →
    ∃ t x, exec (.glaze o) s = .next t ∧ t.me.pc = s.me.pc + 4 ∧ t.grid (gridKey n slot) = some x ∧
      Written t o.d (gridHandle (gridKey n slot) x) false ∧ x.pc = W.getD 0 0 ∧ x.argp = W.getD 1 0 ∧ (x.x, x.y, x.z) = (glX W, glY W, glZ W) ∧
      x.gsize = glSize W ∧ x.mode = s.me.mode ∧ x.basin = recordBasin s ∧ (x.st = .waiting ∨ x.st = .running) ∧ x.cancelled = false ∧
      (∀ i, x.stateOf i = if x.preds i = [] then .ready else .blocked) ∧
      (∀ p ∈ places, ∀ a, a / 128 = lineOf p.pa → readByte t.mem a = 0) ∧
      (∀ a, (∀ p ∈ places, a / 128 ≠ lineOf p.pa) → readByte t.mem a = readByte s.mem a) ∧
      (∀ j, j ≠ o.d → t.me.reg j = s.me.reg j) ∧ ∀ g k, (g, k) ≠ s.cur → t.ctx g k = s.ctx g k

/-- R340, R343, R344: GLSTAT leaves rd pending, and it fills with the state word of the live grid of the thread's basin, or 0 (read
as the fill lands: log entries 44, 46); GLCANCEL of such a grid makes it CANCELLING, also where no group of it runs (log entry
55), so that no group of it is READY, BLOCKED or SUSPENDED any more, and writes 0, or 1 if it was so already, or 6 where the
value names none. -/
def Sys2Proof.Claims.GridStateAndCancel : Prop :=
  (∀ (s : State) (o : R2), Ready s o.use → o.d ≠ 0 →
    ∃ t, exec (.glstat o) s = .next t ∧ t.me.pc = s.me.pc + 4 ∧ (t.me.reg o.d).st = .pending ∧ t.mem = s.mem ∧
      (∀ j, j ≠ o.d → t.me.reg j = s.me.reg j) ∧
      ∃ f, t.me.fills = s.me.fills ++ [f] ∧ f.shadow = inShadow s.me.ih o.d ∧ f.reg = o.d.toNat ∧ f.grid = some (s.g o.a, recordBasin s)) ∧
  (∀ (s : State) (g k : Nat) (f : Fill) (v : Word) (b : Nat), (s.ctx g k).fills = [f] → f.grid = some (v, b) → f.shadow = false →
    0 < f.reg → f.reg < 64 →
    ∃ t, exec (.longLatencyFill g k) s = .next t ∧ (t.ctx g k).fills = [] ∧ t.mem = s.mem ∧ (t.ctx g k).pc = (s.ctx g k).pc ∧
      (t.ctx g k).regIn false (BitVec.ofNat 6 f.reg) = filled (s.ctx g k) false (BitVec.ofNat 6 f.reg)
        (GReg.of (match liveGrid s v b with
          | some p => gridStat p.2
          | none => 0) false)) ∧
  (∀ (s : State) (o : R2), Ready s o.use → liveGrid s (s.g o.a) (recordBasin s) = none →
    ∃ t, exec (.glcancel o) s = .next t ∧ Answers s t o.d 6 ∧ Keeps s t [o.d] s.me.fpctl) ∧
  (∀ (s : State) (o : R2) (key : Nat) (x : Grid), Ready s o.use → liveGrid s (s.g o.a) (recordBasin s) = some (key, x) →
    vectorBusy s s.cur.1 s.cur.2 = false → s.me.relMark = none → visibleAt s 3 s.cur.1 s.serial = true → x.st ≠ .cancelling →
    ∃ t y, exec (.glcancel o) s = .next t ∧ t.me.pc = s.me.pc + 4 ∧ Written t o.d 0 false ∧ t.grid key = some y ∧ y.st = .cancelling ∧
      ∀ i, y.stateOf i ≠ .ready ∧ y.stateOf i ≠ .blocked ∧ y.stateOf i ≠ .suspended) ∧
  (∀ (s : State) (o : R2) (key : Nat) (x : Grid), Ready s o.use → liveGrid s (s.g o.a) (recordBasin s) = some (key, x) →
    vectorBusy s s.cur.1 s.cur.2 = false → s.me.relMark = none → visibleAt s 3 s.cur.1 s.serial = true → x.st = .cancelling →
    ∃ t, exec (.glcancel o) s = .next t ∧ Answers s t o.d 1 ∧ Keeps s t [o.d] s.me.fpctl)

/-- R331 to R333, R337: after its time a group may be offered to every core; a group whose members have ended sets its
scoreboard bit and retires, and each BLOCKED successor whose predecessors' bits are then all set is READY; a grid whose groups
are all over stores its completion value and frees its entry. -/
def Sys2Proof.Claims.GridEvents : Prop :=
  (∀ (s : State) (n slot i : Nat) (x : Grid), s.grid (gridKey n slot) = some x → (x.stateOf i = .ready ∨ x.stateOf i = .suspended) →
    ∃ t y, exec (.groupOfferTimeout n slot i) s = .next t ∧ t.grid (gridKey n slot) = some y ∧ (y.group i).wide = true ∧
      ∀ g, y.offered i g = true) ∧
  (∀ (s : State) (n slot i : Nat) (x : Grid), s.grid (gridKey n slot) = some x → (x.group i).st = .running → (x.group i).live = [] →
    (x.group i).frames = [] → Memory.wf s.mem = true →
    ∃ t y, exec (.groupRetirement n slot i) s = .next t ∧ t.grid (gridKey n slot) = some y ∧ (y.group i).st = .retired ∧
      groupBit t x i = true ∧ Outside s t (x.bitAddr i) 8 ∧ (∀ g k, t.ctx g k = s.ctx g k) ∧
      (x.cancelled = false → ∀ j ∈ x.succs i, x.stateOf j = .blocked → (x.preds j).all (groupBit t x) = true → y.stateOf j = .ready)) ∧
  (∀ (s s0 : State) (n slot : Nat) (x : Grid) (w : Where), slot < 64 → s.grid (gridKey n slot) = some x → x.over = true →
    (∀ a ∈ x.edges ++ x.resumes, visibleAt s 4 a.core a.mark = true) → (∀ p ∈ x.groups, ∀ a ∈ p.2.edges, visibleAt s 4 a.core a.mark = true) →
    x.doneAt ≠ 0 → translateFor s n x.mode x.basin x.doneAt .store 8 = (.ok w, s0) → placeOf s0 w.pa = .dram → Memory.wf s0.mem = true →
    ∃ t, exec (.gridCompletionStore n slot) s = .next t ∧
      read64 t.mem w.pa = (if x.cancelled then x.value ^^^ 0x8000000000000000 else x.value) ∧ Outside s0 t w.pa 8 ∧
      (t.tower n).grids.map Prod.fst = (fdel (s.tower n).grids slot).map Prod.fst ∧
      flook (t.tower n).gridReuse slot = some (nextReuse x.reuse))

/-- R340, R343, R344: GLSTAT leaves rd pending, and it fills with the state word of the live grid of the thread's basin, or 0 (read
as the fill lands: log entries 44, 46); GLCANCEL of such a grid makes it CANCELLING, also where no group of it runs (log entry
55), so that no group of it is READY, BLOCKED or SUSPENDED any more, and writes 0, or 1 if it was so already, or 6 where the
value names none. R331 to R333, R337: after its time a group may be offered to every core;
a group whose members have ended sets its scoreboard bit and retires, and each BLOCKED successor whose predecessors' bits are
then all set is READY; a grid whose groups are all over stores its completion value and frees its entry. -/
def Obligations.Grids : Prop := GridStateAndCancel ∧ GridEvents

/-- R182, R184, R205: CHNEW makes both ends of a channel of the given depth, held by the thread with the rights the mask leaves,
and the answer fills the pair with the two tagged handles. -/
def Obligations.ChannelCreation : Prop :=
  (∀ (s : State) (o : X3) (d m : Nat), Ready s o.usePair → (s.g o.a).toNat = d → (s.g o.b).toNat = m → 1 ≤ d → d ≤ 1024 → m < 2 ^ 12 →
    m / 16 % 16 = 0 → (usedSlots s (anchorTower s s.cur.1)).length + 2 ≤ 2 ^ 20 → poolRoom s s.cur.1 (poolBlocks d) = true →
    ∃ t id c, exec (.chnew o) s = .next t ∧ t.me.pc = s.me.pc + 4 ∧ flook t.chans id = some c ∧ c.depth = d ∧ c.credits = d ∧
      c.tenant = tenantOf s ∧ c.tower = anchorTower s s.cur.1 ∧ c.snd.holder = .thread s.cur.1 s.cur.2 ∧ c.rcv.holder = .thread s.cur.1 s.cur.2 ∧
      c.snd.rights = 15 - m % 16 ∧ c.rcv.rights = 15 - m / 256 % 16 ∧ c.sendCtr = 0 ∧ c.recvCtr = 0 ∧ c.flight = [] ∧
      t.chReplies = s.chReplies ++ [⟨s.cur.1, s.cur.2, inShadow s.me.ih o.d, o.d, true, c.handle false, c.handle true⟩] ∧
      (o.d ≠ 0 → (t.me.reg o.d).st = .pending) ∧ (pairOf o.d ≠ 0 → (t.me.reg (pairOf o.d)).st = .pending) ∧
      (∀ n, n ≠ o.d → n ≠ pairOf o.d → t.me.reg n = s.me.reg n) ∧ t.mem = s.mem) ∧
  (∀ (s : State) (g k : Nat) (r : ChReply), nextReply s g k true = some r → g < 4096 → BankReg r.shadow r.rd → BankReg r.shadow (pairOf r.rd) →
    ∃ t, exec (.chnewReply g k) s = .next t ∧ (t.ctx g k).regIn r.shadow r.rd = filled (s.ctx g k) r.shadow r.rd (GReg.of r.v0 (r.v0 != 0)) ∧
      (t.ctx g k).regIn r.shadow (pairOf r.rd) = filled (s.ctx g k) r.shadow (pairOf r.rd) (GReg.of r.v1 (r.v0 != 0)) ∧ t.chReplies = s.chReplies.erase r ∧ t.mem = s.mem)

/-- R187 to R190, R206, R207: SEND of a word takes a credit and the next sequence number and puts the word in flight, and a
carried end is the carrier's; with the receive end closed it writes 1 and counts the word, without a credit it parks. The word
lands in its slot of the buffer it was sent to. RECV reserves the next sequence number for its pair, which its word fills with
the value and tag of its slot and the status. R202: a word for a peer device leaves the part, and one that comes from a peer sets
out for the receive end (the messages of the peers are the model's inputs: log entry 73). -/
def Obligations.ChannelTransfer : Prop :=
  (∀ (s : State) (o : Snd) (id : Nat) (c : Chan), Ready s o.use → Names s o.a (some false) 1 id false c → s.gtag o.b = false →
    Sends s id c o.k (if c.peer.isSome then 4 else scopeOf s.cur.1 c.destCore) →
    ∃ t c', exec (.send o) s = .next t ∧ Answers s t o.d 0 ∧ t.mem = s.mem ∧ flook t.chans id = some c' ∧ c'.sendCtr = c.sendCtr + 1 ∧
      c'.credits = c.credits - 1 ∧ c'.openPkt = (if o.k then 0 else c.openPkt + 1) ∧
      c'.flight = c.flight ++ [⟨c.sendCtr, s.g o.b, false, o.k, ⟨s.cur.1, s.serial, c.peer.isSome⟩, c.dest⟩]) ∧
  (∀ (s : State) (o : Snd) (id e : Nat) (c x : Chan) (rcv : Bool), Ready s o.use → Names s o.a (some false) 1 id false c → s.gtag o.b = true →
    Names s o.b none 2 e rcv x → e ≠ id → (rcv = true ∨ x.openPkt = 0) → Sends s id c o.k 4 →
    ∃ t c' x', exec (.send o) s = .next t ∧ Answers s t o.d 0 ∧ flook t.chans id = some c' ∧ c'.sendCtr = c.sendCtr + 1 ∧
      c'.flight = c.flight ++ [⟨c.sendCtr, s.g o.b, true, o.k, ⟨s.cur.1, s.serial, true⟩, c.dest⟩] ∧
      flook t.chans e = some x' ∧ (x'.theEnd rcv).holder = .carrier) ∧
  (∀ (s : State) (o : Snd) (id : Nat) (c : Chan), Ready s o.use → Names s o.a (some false) 1 id false c → s.gtag o.b = false → c.sendState = 0 →
    (o.k = true ∨ c.openPkt < 31) → vectorBusy s s.cur.1 s.cur.2 = false → peerClosed s id c = true →
    ∃ t c', exec (.send o) s = .next t ∧ Answers s t o.d 1 ∧ flook t.chans id = some c' ∧ c'.sendCtr = c.sendCtr ∧ c'.flight = c.flight ∧
      c'.disc = min (c.disc + 1) (2 ^ 32 - 1)) ∧
  (∀ (s : State) (o : Snd) (id : Nat) (c : Chan), Ready s o.use → Names s o.a (some false) 1 id false c → s.gtag o.b = false → c.sendState = 0 →
    (o.k = true ∨ c.openPkt < 31) → vectorBusy s s.cur.1 s.cur.2 = false → peerClosed s id c = false → c.credits = 0 →
    ∃ t, exec (.send o) s = .next t ∧ t.me.park = some (.credit id) ∧ t.me.pc = s.me.pc ∧ t.chans = s.chans) ∧
  (∀ (s : State) (id n : Nat) (c : Chan) (w : ChWord), flook s.chans id = some c → c.flight[n]? = some w → carriedFlushed s w = true →
    heldCore s w.acq.core (((c.bufs.find? fun b => decide (b.id = w.dest)).map fun b => b.core).getD c.rcv.core / 256) w.acq.mark = false →
    c.peer = none → (∃ b ∈ c.bufs, b.id = w.dest) → (∀ b ∈ c.bufs, b.id = w.dest → b.phase < 3) → Memory.wf s.mem = true →
    (∀ g k, c.rcv.holder = .thread g k → g < 4096) →
    ∃ t c', exec (.channelWordDelivery id n) s = .next t ∧ flook t.chans id = some c' ∧ c'.flight = c.flight.eraseIdx n ∧
      (∀ b ∈ c.bufs, b.id = w.dest → { b with words := b.words ++ [w] } ∈ c'.bufs) ∧
      ∀ b, c.bufs.find? (fun b => decide (b.id = w.dest)) = some b → slotWord t b c.depth w = w ∧
        Outside s t (windowOf b.core + b.slot c.depth w.seq) 8) ∧
  (∀ (s : State) (o : X2) (id : Nat) (c : Chan), Ready s o.usePair → Names s o.a (some true) 1 id true c → c.recvs.length < 8 →
    ∃ t c', exec (.recv o) s = .next t ∧ t.me.pc = s.me.pc + 4 ∧ flook t.chans id = some c' ∧ c'.recvCtr = c.recvCtr + 1 ∧
      c'.recvs = c.recvs ++ [⟨c.recvCtr, s.cur.1, s.cur.2, inShadow s.me.ih o.d, o.d⟩] ∧ (o.d ≠ 0 → (t.me.reg o.d).st = .pending) ∧
      (pairOf o.d ≠ 0 → (t.me.reg (pairOf o.d)).st = .pending) ∧ ∀ n, n ≠ o.d → n ≠ pairOf o.d → t.me.reg n = s.me.reg n) ∧
  (∀ (s : State) (id : Nat) (c : Chan) (r : ChRecv) (l : List ChRecv) (b : ChBuf) (w x : ChWord), flook s.chans id = some c →
    c.recvs = r :: l → c.wordAt r.seq = some w → c.bufs.getLast? = some b → x = slotWord s b c.depth w → r.core < 4096 →
    BankReg r.shadow r.rd → BankReg r.shadow (pairOf r.rd) →
    ∃ t, exec (.recvFill id) s = .next t ∧ (t.ctx r.core r.ctx).regIn r.shadow r.rd =
        filled (s.ctx r.core r.ctx) r.shadow r.rd ⟨x.val, .full, x.tag, some w.acq⟩ ∧
      (t.ctx r.core r.ctx).regIn r.shadow (pairOf r.rd) =
        filled (s.ctx r.core r.ctx) r.shadow (pairOf r.rd)
          ⟨BitVec.ofNat 64 (r.seq % 2 ^ 32 * 2 ^ 32 + (if x.tag then 4 else 0) + (if w.last then 1 else 0)), .full, false, some w.acq⟩ ∧
      (t.ctx r.core r.ctx).pc = (s.ctx r.core r.ctx).pc) ∧
  (∀ (s : State) (id : Nat) (c : Chan) (n stamp : Nat) (l : List (Nat × Nat)), flook s.chans id = some c → c.creditFlight = (n, stamp) :: l →
    heldCore s c.rcv.core (if c.sendState = 2 ∨ isAtelier c.snd.core = true then c.tower else towerOf c.snd.core) stamp = false →
    ∃ t c', exec (.creditBatchReceive id) s = .next t ∧ flook t.chans id = some c' ∧ c'.credits = c.credits + n ∧ c'.creditFlight = l) ∧
  (∀ (s : State) (id n p : Nat) (c : Chan) (w : ChWord), flook s.chans id = some c → c.flight[n]? = some w → c.peer = some p → w.tag = false →
    heldCore s w.acq.core (((c.bufs.find? fun b => decide (b.id = w.dest)).map fun b => b.core).getD c.rcv.core / 256) w.acq.mark = false →
    ∃ t c', exec (.channelWordDelivery id n) s = .next t ∧ t.outbox = s.outbox ++ [.peerWord p id w.val false w.last] ∧
      flook t.chans id = some c' ∧ c'.flight = c.flight.eraseIdx n ∧ c'.credits = c.credits ∧ t.mem = s.mem) ∧
  (∀ (s : State) (r : List Move) (id p : Nat) (c : Chan) (v : Word) (last : Bool), s.powered = true → s.agenda = .peerWord p id v last none :: r →
    flook s.chans id = some c → c.sndPeer = some p → c.snd.closed = false → 0 < c.credits → c.bufs ≠ [] →
    ∃ t c', step s = .next t ∧ flook t.chans id = some c' ∧ c'.sendCtr = c.sendCtr + 1 ∧ c'.credits = c.credits - 1 ∧
      c'.flight = c.flight ++ [⟨c.sendCtr, v, false, last, ⟨0, 0, true⟩, c.dest⟩])

/-- R199, R208, R210, R211: RPOLL counts the words present in sequence; CHARM writes an end's subscription and returns the old
one, and refuses one with a reserved field; CHDISARM clears enables; CHSTAT leaves rd pending for the end's state word at its
anchor. -/
def Sys2Proof.Claims.ChannelQueries : Prop :=
  (∀ (s : State) (o : X2) (id : Nat) (c : Chan), Ready s o.use → Names s o.a (some true) 1 id true c → c.closeSeq = none →
    ∃ t, exec (.rpoll o) s = .next t ∧ Answers s t o.d (BitVec.ofNat 64 (c.run c.recvCtr 1024)) ∧ Keeps s t [o.d] s.me.fpctl) ∧
  (∀ (s : State) (o : X3) (id : Nat) (rcv : Bool) (c : Chan), Ready s o.use → Names s o.a none 4 id rcv c → subRefused rcv (s.g o.b) = false → s.cur.1 < 4096 →
    ∃ t c', exec (.charm o) s = .next t ∧ Answers s t o.d (c.theEnd rcv).sub ∧ flook t.chans id = some c' ∧ (c'.theEnd rcv).sub = s.g o.b ∧
      t.mem = s.mem) ∧
  (∀ (s : State) (o : X3) (id : Nat) (rcv : Bool) (c : Chan), Ready s o.use → Names s o.a none 4 id rcv c → subRefused rcv (s.g o.b) = true →
    ∃ t, exec (.charm o) s = .next t ∧ Answers s t o.d 0x8000000000000000 ∧ Keeps s t [o.d] s.me.fpctl) ∧
  (∀ (s : State) (o : X3) (id : Nat) (rcv : Bool) (c : Chan), Ready s o.use → Names s o.a none 4 id rcv c → (s.g o.b).toNat < 16 →
    ∃ t c', exec (.chdisarm o) s = .next t ∧ Answers s t o.d (c.theEnd rcv).sub ∧ flook t.chans id = some c' ∧
      (c'.theEnd rcv).sub = (c.theEnd rcv).sub &&& ~~~(s.g o.b) ∧ t.mem = s.mem) ∧
  (∀ (s : State) (o : X2), Ready s o.use → s.gtag o.a = true → (s.g o.a).toNat / 2 ^ 40 % 2 ^ 16 = tenantOf s →
    ∃ t, exec (.chstat o) s = .next t ∧ t.me.pc = s.me.pc + 4 ∧ (o.d ≠ 0 → (t.me.reg o.d).st = .pending) ∧ t.chans = s.chans ∧
      (∀ n, n ≠ o.d → t.me.reg n = s.me.reg n) ∧
      t.chReplies = s.chReplies ++ [⟨s.cur.1, s.cur.2, inShadow s.me.ih o.d, o.d, false, s.g o.a, 0⟩]) ∧
  (∀ (s : State) (g k : Nat) (r : ChReply), nextReply s g k false = some r → closing s g r.v0 = false → g < 4096 → BankReg r.shadow r.rd →
    ∃ t, exec (.chstatReply g k) s = .next t ∧ (t.ctx g k).regIn r.shadow r.rd = filled (s.ctx g k) r.shadow r.rd (GReg.of (statWord s r.v0) false) ∧
      t.chReplies = s.chReplies.erase r ∧ t.mem = s.mem)

/-- R194, R195, R202, R209: CHCLOSE sends an end's closure to its anchor and leaves the end without a holder; there a send end
is closed with its send counter, a receive end with the words not delivered counted and discarded, the count filling rd; an
unreachable peer's ends close so too. That rd is pending until the closure takes effect is log entry 14, and that words in flight
count as not delivered is log entry 37. -/
def Sys2Proof.Claims.ChannelClosure : Prop :=
  (∀ (s : State) (o : X2) (id : Nat) (rcv : Bool) (c : Chan), Ready s o.use → Names s o.a none 8 id rcv c → (rcv = true ∨ c.openPkt = 0) →
    ∃ t c', exec (.chclose o) s = .next t ∧ t.me.pc = s.me.pc + 4 ∧ (rcv = false → Written t o.d 0 false) ∧
      (rcv = true → o.d ≠ 0 → (t.me.reg o.d).st = .pending) ∧ flook t.chans id = some c' ∧ (c'.theEnd rcv).holder = .gone ∧
      t.closures = s.closures ++ [⟨id, rcv, some ⟨s.cur.1, s.serial, false⟩, s.cur.1, s.cur.2, inShadow s.me.ih o.d, if rcv then o.d else 0⟩]) ∧
  (∀ (s : State) (n : Nat) (m : Closure) (c : Chan), s.closures[n]? = some m → flook s.chans m.chan = some c → m.rcv = false →
    c.snd.closed = false → c.rcv.closed = false → heldCore s m.source.core c.tower m.source.mark = false → m.vectorsDone s = true →
    ∃ t c', exec (.closureAtAnchor n) s = .next t ∧ t.closures = s.closures.eraseIdx n ∧ flook t.chans m.chan = some c' ∧
      c'.snd.closed = true ∧ c'.closeSeq = some c.sendCtr ∧ c'.flight = c.flight ∧ c'.bufs = c.bufs) ∧
  (∀ (s : State) (n : Nat) (m : Closure) (c : Chan), s.closures[n]? = some m → flook s.chans m.chan = some c → m.rcv = true →
    c.rcv.closed = false → c.snd.closed = false → heldCore s m.source.core c.tower m.source.mark = false → m.vectorsDone s = true → m.core < 4096 → BankReg m.shadow m.rd →
    (∀ r ∈ c.recvs, (r.core, r.ctx) = (m.core, m.ctx) → r.rd ≠ m.rd ∧ pairOf r.rd ≠ m.rd) →
    ∃ t c', exec (.closureAtAnchor n) s = .next t ∧ flook t.chans m.chan = some c' ∧ c'.rcv.closed = true ∧ c'.flight = [] ∧ c'.recvs = [] ∧
      c'.disc = min (c.disc + c.undelivered) (2 ^ 32 - 1) ∧
      (t.ctx m.core m.ctx).regIn m.shadow m.rd =
        filled (s.ctx m.core m.ctx) m.shadow m.rd (GReg.of (BitVec.ofNat 64 (min c.undelivered (2 ^ 32 - 1))) false)) ∧
  (∀ (s : State) (p id : Nat) (c : Chan), flook s.chans id = some c → c.peer = some p → (∀ q ∈ s.chans, q.2.snd.closed = false) →
    (∀ q ∈ s.chans, q.2.sndPeer ≠ some p) →
    ∃ t c', exec (.peerUnreachable p) s = .next t ∧ flook t.chans id = some c' ∧ c'.rcv.closed = true) ∧
  (∀ (s : State) (p id : Nat) (c : Chan), flook s.chans id = some c → c.sndPeer = some p → c.rcv.closed = false → c.snd.closed = false →
    (∀ q ∈ s.chans, q.2.peer ≠ some p) →
    ∃ t c', exec (.peerUnreachable p) s = .next t ∧ flook t.chans id = some c' ∧ c'.snd.closed = true ∧ c'.closeSeq = some c.sendCtr)

/-- R191 to R193: the move of a receive end takes a buffer in the new core's pool when there is room and adds it to the chain at
the anchor; the old core forwards its words there, the send end's core sends there from then on, and the emptied buffer is freed
once the answer has come; a send end's state goes to the anchor and from there to the new holder's core. -/
def Obligations.ChannelRelocation : Prop :=
  (∀ (s : State) (id g : Nat) (l : List (Nat × List Nat)) (c : Chan), flook s.chans id = some c → c.moves = (g, []) :: l →
    poolRoom s g (poolBlocks c.depth) = true →
    ∃ t, exec (.moveRequest id) s = .next t ∧ flook t.chans id = some { c with moves := (g, poolTake s g (poolBlocks c.depth)) :: l }) ∧
  (∀ (s : State) (id g : Nat) (b : List Nat) (l : List (Nat × List Nat)) (c : Chan), flook s.chans id = some c → c.moves = (g, b) :: l → b ≠ [] →
    ∃ t c', exec (.moveRequest id) s = .next t ∧ flook t.chans id = some c' ∧ c'.moves = l ∧ c'.bufs.length = c.bufs.length + 1 ∧
      c'.bufs.getLast? = some ⟨s.serial, g, 0, 0, [], b⟩) ∧
  (∀ (s : State) (id : Nat) (c : Chan) (b d : ChBuf), flook s.chans id = some c → c.bufs.find? (fun b => decide (b.phase = 2)) = some b →
    nextBuf c.bufs b.id = some d →
    ∃ t c', exec (.forwardOrder id) s = .next t ∧ flook t.chans id = some c' ∧ (∀ w ∈ b.words, { slotWord s b c.depth w with dest := d.id } ∈ c'.flight) ∧
      c'.flight.length = c.flight.length + b.words.length ∧ { b with phase := 3, words := [], blocks := b.blocks.take 1 } ∈ c'.bufs) ∧
  (∀ (s : State) (id : Nat) (c : Chan) (b d : ChBuf), flook s.chans id = some c → c.bufs.find? (fun b => decide (b.phase = 3)) = some b →
    nextBuf c.bufs b.id = some d →
    ∃ t c', exec (.retarget id) s = .next t ∧ flook t.chans id = some c' ∧ (c.dest = b.id → c'.dest = d.id) ∧
      { b with phase := 4, ret := c.sendCtr } ∈ c'.bufs) ∧
  (∀ (s : State) (id : Nat) (c : Chan) (b : ChBuf), flook s.chans id = some c → c.bufs.find? (fun b => decide (b.phase = 4)) = some b →
    ∃ t c', exec (.retargetAnswer id) s = .next t ∧ flook t.chans id = some c' ∧ { b with phase := 5 } ∈ c'.bufs ∧ c'.bufs.length = c.bufs.length) ∧
  (∀ (s : State) (id : Nat) (c : Chan) (b : ChBuf) (l : List ChBuf), flook s.chans id = some c → c.bufs = b :: l → b.phase = 5 →
    (∀ w ∈ c.flight, w.dest ≠ b.id) →
    ∃ t c', exec (.relocationComplete id) s = .next t ∧ flook t.chans id = some c' ∧ c'.bufs = l) ∧
  (∀ (s : State) (id : Nat) (c : Chan), flook s.chans id = some c → c.sendState = 1 →
    ∃ t, exec (.sendStateFlush id) s = .next t ∧ flook t.chans id = some { c with sendState := 2 }) ∧
  (∀ (s : State) (id : Nat) (c : Chan), flook s.chans id = some c → c.sndMoving = true → c.sendState = 2 →
    ∃ t c', exec (.sendStateFetchReply id) s = .next t ∧ flook t.chans id = some c' ∧ c'.sendState = 0 ∧ c'.sndMoving = false)

/-- R200, R201, R307, R308: an armed arrival enters the holder's handler at IVEC + 64 × INDEX with the PC saved in IEPC and the
shadow bank in use; a thread that has waited on a channel end for PROBEINT starts a probe along the wait, which a thread that
waits itself passes on, and which at its origin sets DL and event line 63 and posts the DEADLOCK record of R308: cause 0x13, the
initiator in EXTRA and the other participants in PARTS. -/
def Obligations.ArrivalInterruptsAndProbes : Prop :=
  (∀ (s : State) (g k id : Nat) (ch : Chan), leastDue (dueEnds s g k) = some (id, ch) → alive s g k = true → (s.ctx g k).icount = 0 →
    (s.ctx g k).ih = false → atBoundary (s.ctx g k) = true →
    ∃ t, exec (.arrivalInterruptEntry g k) s = .next t ∧ (t.ctx g k).iepc = (s.ctx g k).pc ∧ (t.ctx g k).ih = true ∧
      (t.ctx g k).pc = (s.ctx g k).ivec + BitVec.ofNat 64 (64 * (ch.rcv.sub.toNat / 2 ^ 14 % 16)) ∧ (t.ctx g k).regs = (s.ctx g k).regs ∧
      (t.ctx g k).shadow = (s.ctx g k).shadow ∧ (t.ctx g k).th = (s.ctx g k).th ∧ t.mem = s.mem) ∧
  (∀ (s : State) (g k id h j : Nat) (rcv : Bool), chanWait s g k = some (id, rcv) → (s.core g).probeint ≠ 0 → endDl s id rcv = false →
    waitsOn s id rcv = some (h, j) →
    ∃ t, exec (.deadlockProbeStart g k) s = .next t ∧ t = { s with probes := s.probes ++ [⟨g, k, [(g, k, id, rcv)], h, j⟩] }) ∧
  (∀ (s : State) (n id h j : Nat) (p : Probe) (rcv : Bool), s.probes[n]? = some p → (p.toCore, p.toCtx) ≠ (p.core, p.ctx) →
    chanWait s p.toCore p.toCtx = some (id, rcv) → waitsOn s id rcv = some (h, j) → p.path.length < 64 →
    ∃ t, exec (.probeHop n) s = .next t ∧ t = { s with probes := s.probes.eraseIdx n ++
      [{ p with path := p.path ++ [(p.toCore, p.toCtx, id, rcv)], toCore := h, toCtx := j }] }) ∧
  (∀ (s : State) (n : Nat) (p : Probe), s.probes[n]? = some p → (p.toCore, p.toCtx) = (p.core, p.ctx) → p.path ≠ [] → p.core < 4096 →
    ∃ t, exec (.probeHop n) s = .next t ∧ (t.ctx p.core p.ctx).evl = (s.ctx p.core p.ctx).evl ||| 0x8000000000000000 ∧
      t.probes = s.probes.eraseIdx n ∧
      ∀ q ∈ p.path, ∀ c, flook t.chans q.2.2.1 = some c → (c.theEnd q.2.2.2).dl = true) ∧
  (∀ (s : State) (n h : Nat) (p : Probe) (a : Nat × Nat × Nat × Bool) (l : List (Nat × Nat × Nat × Bool)) (put size : Word), s.probes[n]? = some p →
    (p.toCore, p.toCtx) = (p.core, p.ctx) → p.path = a :: l → p.core < 4096 → Memory.wf s.mem = true →
    h = queueHeader s (faultQueueOf s (faultBasin s p.core (s.ctx p.core p.ctx).mode)) → h ≠ 0 → put = read64 s.mem h →
    size = read64 s.mem (h + 16) → 3 ≤ size.toNat - (put - read64 s.mem (h + 8)).toNat →
    ∃ t, exec (.probeHop n) s = .next t ∧ read64 t.mem h = put + 3 ∧
      recordWord t h size.toNat put.toNat 0 = BitVec.ofNat 64 (put.toNat % 2 ^ 32 * 2 ^ 32 + 3 * 2 ^ 16 + 3 * 2 ^ 8 + 0x13) ∧
      recordWord t h size.toNat put.toNat 1 = BitVec.ofNat 64 ((16 * p.core + p.ctx) % 2 ^ 16) ∧
      recordWord t h size.toNat put.toNat 2 = 0 ∧ recordWord t h size.toNat put.toNat 3 = 0 ∧
      recordWord t h size.toNat put.toNat 4 = participant s a ∧
      ∀ j, j < 16 → recordWord t h size.toNat put.toNat (8 + j) = ((l[j]?).map (participant s)).getD 0)

/-- R199, R208, R210, R211: RPOLL counts the words present in sequence; CHARM writes an end's subscription and returns the old
one, and refuses one with a reserved field; CHDISARM clears enables; CHSTAT leaves rd pending for the end's state word at its
anchor. R194, R195, R202, R209: CHCLOSE sends an end's closure to its anchor and leaves the end without a holder; there a send
end is closed with its send counter, a receive end with the words not delivered counted and discarded, the count filling rd; an
unreachable peer's ends close so too. That rd is pending until the closure takes effect is log entry 14, and that words in flight
count as not delivered is log entry 37. -/
def Obligations.ChannelStateAndClosure : Prop := ChannelQueries ∧ ChannelClosure

/-- R229, R235 to R237: an accepted vector instruction joins its core's queue with the steps of its destination's run, its
streams advance by what they supply or take, and the thread goes on; nothing else of the thread changes. -/
def Sys2Proof.Claims.VectorIssue : Prop :=
  ∀ (s : State) (i : Instr) (v : VIns), vecForm s i = some v → Ready s (vecUse i) → (v.op = 0x20 ∨ v.op = 0x21 → s.caps.getLsbD 9 = true) →
    Accepted s v →
    ∃ t j, exec i s = .next t ∧ GoesOn s t ∧ t.mem = s.mem ∧ t.myCore.vjobs = s.myCore.vjobs ++ [j] ∧ j.ctx = s.cur.2 ∧ j.op = v.op ∧
      j.fmt = v.fmt ∧ j.step = 0 ∧ j.started = false ∧ j.flags = 0 ∧ j.splat = v.splat ∧ j.total = v.steps s.me ∧
      j.dst = takeStream s.myCore v.d (s.me.stream v.d) true ∧ j.srcs = v.srcs.map (fun n => takeStream s.myCore n (s.me.stream n) false) ∧
      j.mask = (if v.m then some (takeStream s.myCore 7 (s.me.stream 7) false) else none) ∧ j.sfmt = (s.me.stream (v.srcs.headD 0)).fmt ∧
      j.rm = s.me.fpctl.extractLsb' 8 2 ∧ j.shared = v.srcs.contains v.d ∧ j.lanes = [] ∧ j.recent = [] ∧
      (∀ n, t.me.stream n = if (v.uses (v.steps s.me)).any (fun u => decide (u.n = n)) then
        (s.me.stream n).advance (mostOf (v.uses (v.steps s.me)) n) else s.me.stream n) ∧ ∀ g k, (g, k) ≠ s.cur → t.ctx g k = s.ctx g k

/-- R230, R238, R242, R244, R247: a step of an instruction that works element by element (the arithmetic, logical and shift
instructions, VSACC and VCOPY), in every format it accepts, masked or not: each admitted element of the destination's vector is
the instruction's result of the sources' elements, with its flags, a masked-off one keeps its bits, and no other byte changes. -/
def Sys2Proof.Claims.VectorElements : Prop :=
  ∀ (s : State) (g : Nat) (j : VJob), StepsNext s g j → laneFormat j.op j.fmt = true → 1 ≤ j.srcs.length → j.srcs.length ≤ 3 →
    ∃ t j', exec (if j.started then .vectorCompletion g else .vectorExecutionStart g) s = .next t ∧ Results s t g j j' j.fmt (fmtCount j.fmt) (onLane s g j) (fun k =>
      laneResult j.op j.fmt (RMode.ofCode j.rm)
        ((vecAt s g (if j.op = 0x1F then 5 else j.fmt) (j.srcs.getD 0 j.dst) j.step).getD k 0)
        (((j.srcs[1]?).map fun v => (vecAt s g j.fmt v j.step).getD k 0).getD 0)
        (((j.srcs[2]?).map fun v => (vecAt s g j.fmt v j.step).getD k 0).getD 0))

/-- R243, R244: a step of a comparison writes a mask vector, whose bits from the element count up are 0; VSEL takes each element of
the first or the second source by the third's mask; VPERM takes the element that the second source's element names. -/
def Sys2Proof.Claims.VectorMasksAndMoves : Prop :=
  (∀ (s : State) (g : Nat) (j : VJob) (a b : VOp), StepsNext s g j → 0x15 ≤ j.op → j.op ≤ 0x17 → j.fmt ≤ 8 → j.srcs = [a, b] →
    ∃ t j', exec (if j.started then .vectorCompletion g else .vectorExecutionStart g) s = .next t ∧ Results s t g j j' 11 (fmtCount j.fmt) (onLane s g j) (fun k =>
      ((if (relates j.op j.fmt ((vecAt s g j.fmt a j.step).getD k 0) ((vecAt s g j.fmt b j.step).getD k 0)).1 then 1 else 0),
        (relates j.op j.fmt ((vecAt s g j.fmt a j.step).getD k 0) ((vecAt s g j.fmt b j.step).getD k 0)).2))) ∧
  (∀ (s : State) (g : Nat) (j : VJob) (a b c : VOp), StepsNext s g j → j.op = 0x18 → j.fmt ≤ 11 → j.srcs = [a, b, c] →
    ∃ t j', exec (if j.started then .vectorCompletion g else .vectorExecutionStart g) s = .next t ∧ Results s t g j j' j.fmt (fmtCount j.fmt) (onLane s g j) (fun k =>
      ((vecAt s g j.fmt (if (vecAt s g 11 c j.step).getD k 0 = 1 then a else b) j.step).getD k 0, 0))) ∧
  (∀ (s : State) (g : Nat) (j : VJob) (a b : VOp), StepsNext s g j → j.op = 0x23 → j.fmt ≤ 8 → j.srcs = [a, b] →
    ∃ t j', exec (if j.started then .vectorCompletion g else .vectorExecutionStart g) s = .next t ∧ Results s t g j j' j.fmt (fmtCount j.fmt) (onLane s g j) (fun k =>
      ((vecAt s g j.fmt a j.step).getD ((vecAt s g j.fmt b j.step).getD k 0 % fmtCount j.fmt) 0, 0)))

/-- R245: a step of VCVT, VPACK and VUNPACK converts elements from the source's format: VPACK those of both sources, in order, and
VUNPACK the lower half of its source's in even steps and the upper half in odd ones. -/
def Sys2Proof.Claims.VectorConversions : Prop :=
  (∀ (s : State) (g : Nat) (j : VJob) (a : VOp), StepsNext s g j → j.op = 0x19 → pairOk 0x19 j.sfmt j.fmt = true → j.srcs = [a] →
    ∃ t j', exec (if j.started then .vectorCompletion g else .vectorExecutionStart g) s = .next t ∧ Results s t g j j' j.fmt (fmtCount j.fmt) (onLane s g j) (fun k =>
      converted j.sfmt j.fmt (RMode.ofCode j.rm) ((vecAt s g j.sfmt a j.step).getD k 0))) ∧
  (∀ (s : State) (g : Nat) (j : VJob) (a b : VOp), StepsNext s g j → j.op = 0x1A → pairOk 0x1A j.sfmt j.fmt = true → j.srcs = [a, b] →
    ∃ t j', exec (if j.started then .vectorCompletion g else .vectorExecutionStart g) s = .next t ∧ Results s t g j j' j.fmt (fmtCount j.fmt) (onLane s g j) (fun k =>
      converted j.sfmt j.fmt (RMode.ofCode j.rm) (if k < fmtCount j.fmt / 2 then (vecAt s g j.sfmt a j.step).getD k 0
        else (vecAt s g j.sfmt b j.step).getD (k - fmtCount j.fmt / 2) 0))) ∧
  (∀ (s : State) (g : Nat) (j : VJob) (a : VOp), StepsNext s g j → j.op = 0x1B → pairOk 0x1B j.sfmt j.fmt = true → j.srcs = [a] →
    ∃ t j', exec (if j.started then .vectorCompletion g else .vectorExecutionStart g) s = .next t ∧ Results s t g j j' j.fmt (fmtCount j.fmt) (onLane s g j) (fun k =>
      converted j.sfmt j.fmt (RMode.ofCode j.rm)
        ((vecAt s g j.sfmt a (if j.shared then j.step else j.step / 2)).getD (j.step % 2 * fmtCount j.fmt + k) 0)))

/-- R248, R249, R253: a step of VXACC adds each accumulator's lanes exactly, saturating once, and always writes it; one of VXCVT
rounds the elements of four x128 vectors to fp32, raising inexact alone; one of VSPLAT fills the vector with the register's
value. -/
def Sys2Proof.Claims.VectorExactSums : Prop :=
  (∀ (s : State) (g : Nat) (j : VJob) (a b c : VOp), StepsNext s g j → j.op = 0x20 → j.fmt = 9 → j.srcs = [a, b, c] →
    ∃ t j', exec (if j.started then .vectorCompletion g else .vectorExecutionStart g) s = .next t ∧ Results s t g j j' 9 4 (fun _ => true) (fun k =>
      accumulated (vecAt s g 5 a j.step) (vecAt s g 5 b j.step) (onLane s g j) k ((vecAt s g 9 c j.step).getD k 0))) ∧
  (∀ (s : State) (g : Nat) (j : VJob) (a : VOp), StepsNext s g j → j.op = 0x21 → j.fmt = 0 → j.srcs = [a] →
    ∃ t j', exec (if j.started then .vectorCompletion g else .vectorExecutionStart g) s = .next t ∧ Results s t g j j' 0 16 (onLane s g j) (fun k =>
      let v := signedAt 128 ((vecAt s g 9 a (4 * j.step + k / 4)).getD (k % 4) 0)
      ((roundF fp32 .rne (decide (v < 0)) v.natAbs (-64)).1, (roundF fp32 .rne (decide (v < 0)) v.natAbs (-64)).2 &&& flagNX))) ∧
  (∀ (s : State) (g : Nat) (j : VJob), StepsNext s g j → j.op = 64 → j.fmt ≤ 11 → j.mask = none → j.srcs = [] →
    ∃ t j', exec (if j.started then .vectorCompletion g else .vectorExecutionStart g) s = .next t ∧ Results s t g j j' j.fmt (fmtCount j.fmt) (fun _ => true) (fun _ =>
      (if j.fmt = 9 then j.splat.toNat * 2 ^ 64 else j.splat.toNat % 2 ^ fmtBits j.fmt, 0)))

/-- R228, R246: a step of VRADD adds its vector's elements to the lanes, of VRMAX and VRMIN takes the extreme of the admitted
elements so far; the last step writes the result in element 0, with zeros in the others: VRADD's lanes summed by halves and
rounded once more to the element's format, VRMAX's and VRMIN's extreme, or its limit where every element is masked off. -/
def Sys2Proof.Claims.VectorReductions : Prop :=
  (∀ (s : State) (g : Nat) (j : VJob) (a : VOp) (ins lanes : List Nat) (p : List (Nat × FFlags)) (h q : Nat × FFlags), StepsNext s g j →
    j.op = 0x1C → j.fmt ≤ 8 → j.srcs = [a] → (j.step ≠ 0 → j.lanes.length = fmtCount j.fmt) →
    ins = (List.range (fmtCount j.fmt)).map (fun k => laneIn32 j.fmt (RMode.ofCode j.rm) (onLane s g j k) ((vecAt s g j.fmt a j.step).getD k 0)) →
    p = List.zipWith (laneSum j.fmt (RMode.ofCode j.rm)) j.lanes ins → lanes = (if j.step = 0 then ins else p.map Prod.fst) →
    h = halved (laneSum j.fmt (RMode.ofCode j.rm)) (Nat.log2 (fmtCount j.fmt)) lanes →
    q = (if j.fmt = 1 ∨ j.fmt = 2 then convF (ffmtOf j.fmt) (RMode.ofCode j.rm) (decodeF fp32 h.1) else (h.1, 0)) →
    ∃ t j', exec (if j.started then .vectorCompletion g else .vectorExecutionStart g) s = .next t ∧ j'.lanes = lanes ∧
      (j.step + 1 < j.total → t.mem = s.mem ∧ Stepped s t g j j' 0 0 (if j.step = 0 then 0 else orAll p)) ∧
      (j.total ≤ j.step + 1 → Stepped s t g j j' (j.dst.offset 0).toNat 64 ((if j.step = 0 then 0 else orAll p) ||| (h.2 ||| q.2)) ∧
        vecAt t g j.fmt j.dst 0 = q.1 % 2 ^ fmtBits j.fmt :: List.replicate (fmtCount j.fmt - 1) 0)) ∧
  (∀ (s : State) (g : Nat) (j : VJob) (a : VOp) (mx : Bool) (e : Option (Nat × FFlags)) (fl : FFlags), StepsNext s g j → j.op = (if mx then 0x1D else 0x1E) → j.fmt ≤ 8 →
    j.srcs = [a] → j.lanes.length ≤ 1 →
    e = extremeOf j.fmt mx (j.lanes ++ ((List.range (fmtCount j.fmt)).filter (onLane s g j)).map fun k => (vecAt s g j.fmt a j.step).getD k 0) →
    fl = (e.map Prod.snd).getD 0 →
    ∃ t j', exec (if j.started then .vectorCompletion g else .vectorExecutionStart g) s = .next t ∧ j'.lanes = (e.map Prod.fst).toList ∧
      (j.step + 1 < j.total → t.mem = s.mem ∧ Stepped s t g j j' 0 0 fl) ∧
      (j.total ≤ j.step + 1 → Stepped s t g j j' (j.dst.offset 0).toNat 64 fl ∧ vecAt t g j.fmt j.dst 0 = (match e with
        | some v => if j.fmt ≤ 2 ∧ isNanBits (ffmtOf j.fmt) v.1 = true then canonNaN (ffmtOf j.fmt) else v.1 % 2 ^ fmtBits j.fmt
        | none => extremeEmpty j.fmt mx) :: List.replicate (fmtCount j.fmt - 1) 0))

/-- What a step of each vector instruction leaves in its destination, masked and unmasked. R230, R238, R242 to R244, R247: the
element-wise instructions, comparisons, VSEL, VCOPY and VPERM. R245: the conversions. R248, R249, R253: VXACC, VXCVT and VSPLAT.
R228, R246: the reductions. -/
def Obligations.VectorStepResults : Prop :=
  VectorElements ∧ VectorMasksAndMoves ∧ VectorConversions ∧ VectorExactSums ∧ VectorReductions

/-- R216, R230: an instruction that has made its steps and owes no ring advance completes: its flags are ORed into its thread's
FPCTL. -/
def Sys2Proof.Claims.VectorCompletes : Prop :=
  ∀ (s : State) (g : Nat) (j : VJob) (l : List VJob), (s.core g).vjobs = j :: l → j.started = true → j.total ≤ j.step → (s.core g).resv = [] →
    (∀ k ∈ l, ¬ (k.started = true ∧ k.step < k.total)) →
    ∃ t, exec (.vectorCompletion g) s = .next t ∧ (t.core g).vjobs = (j :: l).filter (fun k => decide (k.id ≠ j.id)) ∧
      (t.ctx g j.ctx).fpctl = (s.ctx g j.ctx).fpctl ||| j.flags.zeroExtend 64 ∧ (t.ctx g j.ctx).regs = (s.ctx g j.ctx).regs ∧
      (t.ctx g j.ctx).pc = (s.ctx g j.ctx).pc ∧ t.mem = s.mem ∧ ∀ h k, (h, k) ≠ (g, j.ctx) → t.ctx h k = s.ctx h k

/-- R232 to R235, R251, R252, R254: STRSET of an accepted value writes the field, and any field but pos rewinds the stream;
STRGET reads a field; STRREW rewinds; STRADV advances a stream as if its vectors had been delivered. R281: RINGSET writes a
field of a ring that is not in use, and any field but a pointer sets both pointers to 0; RINGGET reads one; R279: RINGPUSH and
RINGPOP advance a pointer and write it; R286: the pointer block follows each change. -/
def Obligations.StreamsAndRings : Prop :=
  (∀ (s : State) (o : Fld), Ready s o.useSrc → o.i.toNat ≤ 12 → (s.me.stream o.s).accepts o.i.toNat (s.g o.g) = true →
    ∃ t, exec (.strset o) s = .next t ∧ GoesOn s t ∧ t.mem = s.mem ∧ (t.me.stream o.s).read o.i.toNat = s.g o.g ∧
      (o.i.toNat ≠ 12 → (t.me.stream o.s).pos = 0) ∧ (∀ f, f < 12 → f ≠ o.i.toNat → (t.me.stream o.s).read f = (s.me.stream o.s).read f) ∧
      ∀ n, n ≠ o.s → t.me.stream n = s.me.stream n) ∧
  (∀ (s : State) (o : Fld), Ready s o.useDst →
    ∃ t, exec (.strget o) s = .next t ∧ Answers s t o.g ((s.me.stream o.s).read o.i.toNat) ∧ Keeps s t [o.g] s.me.fpctl) ∧
  (∀ (s : State) (o : Fn), ∃ t, exec (.strrew o) s = .next t ∧ GoesOn s t ∧ t.me.stream o.s = { s.me.stream o.s with pos := 0 } ∧ t.mem = s.mem ∧
    ∀ n, n ≠ o.s → t.me.stream n = s.me.stream n) ∧
  (∀ (s : State) (o : Sg), Ready s o.use → ((s.me.stream o.s).ringv = true → (s.me.stream o.s).broadcast = true ∨ (s.me.stream o.s).pos + (s.g o.g).toNat < (s.me.stream o.s).total) →
    ∃ t, exec (.stradv o) s = .next t ∧ GoesOn s t ∧ t.mem = s.mem ∧ (∀ n, n ≠ o.s → t.me.stream n = s.me.stream n) ∧
      t.me.stream o.s = (s.me.stream o.s).advance (s.g o.g).toNat) ∧
  (∀ (s : State) (o : Fld), Ready s o.useSrc → o.i.toNat ≤ 4 → Memory.wf s.mem = true →
    ringAccepts (s.myCore.ring o.s.toNat) o.i.toNat (s.g o.g).toNat = true → ringBusy s.myCore o.s.toNat = false →
    ∃ t, exec (.ringset o) s = .next t ∧ GoesOn s t ∧ BitVec.ofNat 64 ((t.myCore.ring o.s.toNat).read o.i.toNat) = s.g o.g ∧
      (∀ m, m ≠ o.s.toNat → t.myCore.ring m = s.myCore.ring m) ∧
      (∀ f, f < 3 → f ≠ o.i.toNat → (t.myCore.ring o.s.toNat).read f = (s.myCore.ring o.s.toNat).read f) ∧
      (o.i.toNat ≤ 2 → (t.myCore.ring o.s.toNat).head = 0 ∧ (t.myCore.ring o.s.toNat).tail = 0) ∧
      (o.i.toNat = 3 → (t.myCore.ring o.s.toNat).tail = (s.myCore.ring o.s.toNat).tail) ∧
      (o.i.toNat = 4 → (t.myCore.ring o.s.toNat).head = (s.myCore.ring o.s.toNat).head) ∧ BlockFollows s t s.cur.1 o.s.toNat) ∧
  (∀ (s : State) (o : Fld), Ready s o.useDst →
    ∃ t, exec (.ringget o) s = .next t ∧ Answers s t o.g (BitVec.ofNat 64 ((s.myCore.ring o.s.toNat).read o.i.toNat)) ∧ Keeps s t [o.g] s.me.fpctl) ∧
  (∀ (s : State) (i : Instr) (o : R3) (push : Bool) (r : Ring), (i = .ringpush o ∧ push = true ∨ i = .ringpop o ∧ push = false) → Ready s o.use → Memory.wf s.mem = true →
    (s.g o.a).toNat ≤ 7 → r = s.myCore.ring (s.g o.a).toNat → 1 ≤ (s.g o.b).toNat → (s.g o.b).toNat ≤ r.slots →
    vectorBusy s s.cur.1 s.cur.2 = false → s.me.relMark = none → visibleAt s 1 s.cur.1 s.serial = true → (push = true → r.occupied + (s.g o.b).toNat ≤ r.slots) → (push = false → (s.g o.b).toNat ≤ r.occupied) →
    ∃ t, exec i s = .next t ∧ Answers s t o.d (BitVec.ofNat 64 (advancePtr r.slots (if push then r.tail else r.head) (s.g o.b).toNat)) ∧
      t.myCore.ring (s.g o.a).toNat = (if push then { r with tail := advancePtr r.slots r.tail (s.g o.b).toNat }
        else { r with head := advancePtr r.slots r.head (s.g o.b).toNat }) ∧ BlockFollows s t s.cur.1 (s.g o.a).toNat)

/-- R229, R235 to R237: an accepted vector instruction joins its core's queue with the steps of its destination's run, its
streams advance by what they supply or take, and the thread goes on; nothing else of the thread changes. R216, R230: an
instruction that has made its steps and owes no ring advance completes: its flags are ORed into its thread's FPCTL. That a stream
named both as a source and as the destination advances by the larger number is the model's reading (log entry 39). -/
def Obligations.VectorIssueAndCompletion : Prop := VectorIssue ∧ VectorCompletes

/-- R255, R256, R272, R273, R280: TBIND of a free engine binds it with the default settings and accumulators of zeros, and
writes 0, or 1 for the binder; TFREE of an empty queue releases it; TSET writes a setting, TGET reads one, the status or the
steps. -/
def Sys2Proof.Claims.TileBinding : Prop :=
  (∀ (s : State) (o : Rd), Ready s o.use → s.myCore.tile.binder = none → (s.myCore.tile.waiters = [] ∨ s.myCore.tile.waiters.head? = some s.cur.2) →
    ∃ t, exec (.tbind o) s = .next t ∧ Answers s t o.d 0 ∧ t.myCore.tile.binder = some s.cur.2 ∧ t.myCore.tile.set = ⟨0, 0, 8, 8, 0, 1⟩ ∧
      t.myCore.tile.queue = [] ∧ t.myCore.tile.ov = 0 ∧ (∀ n, t.myCore.tile.acc n = List.replicate 1024 0) ∧ t.mem = s.mem) ∧
  (∀ (s : State) (o : Rd), Ready s o.use → s.myCore.tile.binder = some s.cur.2 →
    ∃ t, exec (.tbind o) s = .next t ∧ Answers s t o.d 1 ∧ Keeps s t [o.d] s.me.fpctl) ∧
  (∀ (s : State) (o : Rd), Ready s o.use → s.myCore.tile.binder = some s.cur.2 → s.myCore.tile.queue = [] →
    ∃ t, exec (.tfree o) s = .next t ∧ Answers s t o.d 0 ∧ t.myCore.tile.binder = none ∧ t.mem = s.mem) ∧
  (∀ (s : State) (o : Fone), Ready s o.useSrc → tsetAbsent s.caps o.i.toNat (s.g o.g).toNat = false → s.myCore.tile.binder = some s.cur.2 →
    o.i.toNat ≤ 5 → setAccepts o.i.toNat (s.g o.g).toNat = true →
    ∃ t, exec (.tset o) s = .next t ∧ GoesOn s t ∧ t.mem = s.mem ∧ t.myCore.tile.set.get o.i.toNat = (s.g o.g).toNat ∧
      (∀ f, f ≤ 5 → f ≠ o.i.toNat → t.myCore.tile.set.get f = s.myCore.tile.set.get f) ∧ t.myCore.tile.queue = s.myCore.tile.queue) ∧
  (∀ (s : State) (o : Fone), Ready s o.useDst →
    ∃ t, exec (.tget o) s = .next t ∧ Keeps s t [o.g] s.me.fpctl ∧ Answers s t o.g (if o.i.toNat = 6 then s.myCore.tile.status
      else if o.i.toNat = 7 then BitVec.ofNat 64 (match s.myCore.tile.queue with
        | q :: _ => q.done
        | [] => 0)
      else BitVec.ofNat 64 (s.myCore.tile.set.get o.i.toNat)))

/-- R258, R264, R275 to R278: TZERO sets an accumulator to its semiring's identity; TLOAD and TSTORE move its 4 KiB image from
and to the own scratchpad; TWAIT of a FULL one reads the status; TPEEK writes the image of a live one, at once where it is FULL
and else at the next K-step boundary, with the K-steps completed. -/
def Sys2Proof.Claims.TileAccumulators : Prop :=
  (∀ (s : State) (o : Ra) (n : Nat), Ready s o.use → NamesAcc s o.a n →
    ∃ t, exec (.tzero o) s = .next t ∧ GoesOn s t ∧ t.mem = s.mem ∧ t.myCore.tile.acc n = List.replicate 1024 (identityOf s.myCore.tile.set.semi) ∧
      t.myCore.tile.ov.getLsbD n = false ∧ ∀ m, m ≠ n → t.myCore.tile.acc m = s.myCore.tile.acc m) ∧
  (∀ (s : State) (o : Rab) (n off : Nat), Ready s o.use → NamesAcc s o.a n → NamesImage s o.b false off →
    ∃ t, exec (.tload o) s = .next t ∧ GoesOn s t ∧ t.mem = s.mem ∧ t.myCore.tile.ov.getLsbD n = false ∧
      ∀ e, e < 1024 → (t.myCore.tile.acc n)[e]? = some (BitVec.ofNat 32 (leNat (readBytes s.mem (windowOf s.cur.1 + off + 4 * e) 4)))) ∧
  (∀ (s : State) (o : Rab) (n off : Nat), Ready s o.use → NamesAcc s o.a n → NamesImage s o.b true off → Memory.wf s.mem = true →
    (s.myCore.tile.acc n).length = 1024 → s.me.fences = [] →
    ∃ t, exec (.tstore o) s = .next t ∧ GoesOn s t ∧ Outside s t (windowOf s.cur.1 + off) 4096 ∧
      ∀ e v, (s.myCore.tile.acc n)[e]? = some v → leNat (readBytes t.mem (windowOf s.cur.1 + off + 4 * e) 4) = v.toNat) ∧
  (∀ (s : State) (o : R2) (n : Nat), Ready s o.use → NamesAcc s o.a n →
    ∃ t, exec (.twait o) s = .next t ∧ Answers s t o.d s.myCore.tile.status ∧ Keeps s t [o.d] s.me.fpctl) ∧
  (∀ (s : State) (o : R3) (n off : Nat), Allowed s .s false → Ready s o.use → (s.g o.a).toNat = n → n ≤ 3 → NamesImage s o.b true off →
    Memory.wf s.mem = true → (s.myCore.tile.acc n).length = 1024 → s.me.fences = [] → s.myCore.tile.isFull n = true →
    ∃ t, exec (.tpeek o) s = .next t ∧ Outside s t (windowOf s.cur.1 + off) 4096 ∧ Answers s t o.d 0 ∧
      ∀ e v, (s.myCore.tile.acc n)[e]? = some v → leNat (readBytes t.mem (windowOf s.cur.1 + off + 4 * e) 4) = v.toNat) ∧
  (∀ (s : State) (o : R3) (n off : Nat), Allowed s .s false → Ready s o.use → (s.g o.a).toNat = n → n ≤ 3 → NamesImage s o.b true off →
    s.me.fences = [] → s.myCore.tile.isFull n = false →
    ∃ t, exec (.tpeek o) s = .next t ∧ t.me.park = some (.peek n off o.d) ∧ t.me.pc = s.me.pc ∧ t.mem = s.mem) ∧
  (∀ (s : State) (g k n off : Nat) (d : RegNo) (q : Tmma) (r : List Tmma) (x : TileSet) (a b : List Byte) (l : List (TileSet × List Byte × List Byte)),
    (s.core g).tile.queue = q :: r → (s.core g).tile.loads = (x, a, b) :: l → q.done < q.k → visibleAt s 1 g q.mark = true →
    peekers (s.core g) = [(k, n, off, d)] → protectedAt (s.core g) off 4096 = false → Memory.wf s.mem = true →
    (∀ m, ((s.core g).tile.acc m).length = 1024) →
    ∃ t, exec (.kstepComplete g) s = .next t ∧ (t.ctx g k).park = none ∧ (t.ctx g k).pc = (s.ctx g k).pc + 4 ∧
      (d ≠ 0 → (t.ctx g k).reg d = GReg.of (BitVec.ofNat 64 (fget 0 (t.core g).tile.chain n)) false) ∧
      ∀ e v, ((t.core g).tile.acc n)[e]? = some v → leNat (readBytes t.mem (windowOf g + off + 4 * e) 4) = v.toNat)

/-- R219 to R221, R231, R257, R259, R261 to R265, R274: TMMA queues K K-steps with a copy of the settings and leaves rd pending; a
K-step's tiles are read when its rings hold them, two slots where it names one ring twice, once the vector instructions that its
TMMA follows have ended; once what its thread did before is visible at core scope, as its pops release it (R285), a K-step of each
legal combination of mode and semiring gives each element the value of R259, kept in 32 bits, and sets OV where a sum does not fit;
a finished TMMA fills its register with its K-steps and its OV bit. -/
def Obligations.TileMultiply : Prop :=
  (∀ (s : State) (o : R3) (n k : Nat), Ready s o.use → s.myCore.tile.binder = some s.cur.2 → (s.g o.a).toNat = n → (s.g o.b).toNat = k → n ≤ 3 →
    k ≤ 65535 → s.myCore.tile.set.legal = true → ringFault s.myCore s.me.mode s.myCore.tile.set = none → s.myCore.tile.queue.length < 4 →
    ∃ t, exec (.tmma o) s = .next t ∧ t.me.pc = s.me.pc + 4 ∧ (o.d ≠ 0 → (t.me.reg o.d).st = .pending) ∧ t.mem = s.mem ∧
      t.myCore.tile.queue = s.myCore.tile.queue ++ [⟨n, k, s.myCore.tile.set, 0, s.cur.1, s.cur.2, inShadow s.me.ih o.d, o.d, s.serial⟩] ∧
      t.myCore.tile.isFull n = false ∧ ∀ m, m ≠ o.d → t.me.reg m = s.me.reg m) ∧
  (∀ (s : State) (g : Nat) (q : Tmma) (x : TileSet), (s.core g).tile.loads = [] → nextLoad (s.core g).tile.queue 0 = some q → x = q.set →
    (if x.ra = x.rb then 2 else 1) ≤ ((s.core g).ring x.ra).occupied → (if x.ra = x.rb then 2 else 1) ≤ ((s.core g).ring x.rb).occupied →
    (∀ j ∈ (s.core g).vjobs, j.ctx = q.ctx → q.mark ≤ j.id) →
    ∃ t, exec (.kstepLoadStart g) s = .next t ∧ t.mem = s.mem ∧ (t.core g).tile.loads = [(x, readSpad s g (slotOff (s.core g) x.ra 0) x.aBytes,
      readSpad s g (slotOff (s.core g) x.rb (if x.ra = x.rb then 1 else 0)) x.bBytes)]) ∧
  (∀ (s : State) (g : Nat) (q : Tmma) (r : List Tmma) (x : TileSet) (a b : List Byte) (l : List (TileSet × List Byte × List Byte)),
    (s.core g).tile.queue = q :: r → (s.core g).tile.loads = (x, a, b) :: l → q.done < q.k → q.acc ≤ 3 → x.mode ≤ 1 → x.legal = true →
    visibleAt s 1 g q.mark = true →
    ∃ t, exec (.kstepComplete g) s = .next t ∧ (t.core g).tile.loads = l ∧ (t.core g).tile.queue = { q with done := q.done + 1 } :: r ∧
      (∀ (e : Nat) (v : BitVec 32), ((s.core g).tile.acc q.acc)[e]? = some v →
        ((t.core g).tile.acc q.acc)[e]? = some (BitVec.ofInt 32 (kExact x (leNat a) (leNat b) (e / 32) (e % 32) v.toInt))) ∧
      ((t.core g).tile.ov.getLsbD q.acc = true ↔ (s.core g).tile.ov.getLsbD q.acc = true ∨
        ∃ (e : Nat) (v : BitVec 32), ((s.core g).tile.acc q.acc)[e]? = some v ∧
          Beyond32 (kExact x (leNat a) (leNat b) (e / 32) (e % 32) v.toInt)) ∧
      (∀ n, n < 4 → n ≠ q.acc → (t.core g).tile.ov.getLsbD n = (s.core g).tile.ov.getLsbD n) ∧
      ∀ n, n ≠ q.acc → (t.core g).tile.acc n = (s.core g).tile.acc n) ∧
  (∀ (s : State) (g : Nat) (q : Tmma) (r : List Tmma), (s.core g).tile.queue = q :: r → q.k ≤ q.done → q.core < 4096 → BankReg q.shadow q.rd →
    ∃ t, exec (.tmmaRetire g) s = .next t ∧ (t.core g).tile.queue = r ∧ t.mem = s.mem ∧
      (t.ctx q.core q.ctx).regIn q.shadow q.rd = filled (s.ctx q.core q.ctx) q.shadow q.rd
        (GReg.of (BitVec.ofNat 64 ((if (s.core g).tile.ov.getLsbD q.acc then 2 ^ 16 else 0) + q.done)) false) ∧
      (t.ctx q.core q.ctx).pc = (s.ctx q.core q.ctx).pc)

/-- R255, R256, R272, R273, R280: TBIND of a free engine binds it with the default settings and accumulators of zeros, and
writes 0, or 1 for the binder; TFREE of an empty queue releases it; TSET writes a setting, TGET reads one, the status or the
steps. R258, R264, R275 to R278: TZERO sets an accumulator to its semiring's identity; TLOAD and TSTORE move its 4 KiB image
from and to the own scratchpad; TWAIT of a FULL one reads the status; TPEEK writes the image of a live one, at once where it is
FULL and else at the next K-step boundary, with the K-steps completed. -/
def Obligations.TileState : Prop := TileBinding ∧ TileAccumulators

/-- R288, R295 to R298: CPGO of a legal staged descriptor accepts a copy and writes its ticket; CPSTAT reads a copy's state; CPABORT
of one that has not begun or has paused removes it and writes the bytes written once what its advances release is visible (R285),
of one that runs waits until it stops, and of none writes 2^63; CPSET and CPGET write and read a field of the descriptor. -/
def Sys2Proof.Claims.CopyInstructions : Prop :=
  (∀ (s : State) (o : R3), Ready s o.use → vectorBusy s s.cur.1 s.cur.2 = false → (o.a = 0 ∨ (s.g o.a).toNat % 8 = 0) →
    (∀ f, f < 11 → fieldBad s.myCore s.me.desc f = false) → badRing s.myCore s.me.mode s.me.desc = none →
    (pushV s.me.desc = true → (s.myCore.ring (pushRing s.me.desc)).occupied + s.myCore.pending (pushRing s.me.desc) true + 1 ≤
      (s.myCore.ring (pushRing s.me.desc)).slots) →
    (popV s.me.desc = true → 1 ≤ (s.myCore.ring (popRing s.me.desc)).occupied - s.myCore.pending (popRing s.me.desc) false) →
    s.myCore.copies.length < 16 →
    ∃ t c, exec (.cpgo o) s = .next t ∧ Answers s t o.d (BitVec.ofNat 64 s.myCore.ticket) ∧ t.mem = s.mem ∧
      t.myCore.copies = s.myCore.copies ++ [c] ∧ c.ticket = s.myCore.ticket ∧ c.desc = s.me.desc ∧ c.n = 0 ∧ c.running = false ∧ c.paused = none ∧
      c.mode = s.me.mode ∧ c.word = (if o.a = 0 then none else some (s.g o.a, s.g o.b)) ∧ t.myCore.ticket = (s.myCore.ticket + 1) % 2 ^ 16) ∧
  (∀ (s : State) (o : R3) (f : Nat), Ready s o.use → vectorBusy s s.cur.1 s.cur.2 = false → (o.a = 0 ∨ (s.g o.a).toNat % 8 = 0) →
    (List.range 11).find? (fieldBad s.myCore s.me.desc) = some f →
    ∃ t, exec (.cpgo o) s = .next t ∧ Answers s t o.d (BitVec.ofNat 64 (2 ^ 63 + f * 256 + 1)) ∧ Keeps s t [o.d] s.me.fpctl) ∧
  (∀ (s : State) (o : R2), Ready s o.use → (s.g o.a).toNat < 2 ^ 16 →
    ∃ t, exec (.cpstat o) s = .next t ∧ Keeps s t [o.d] s.me.fpctl ∧ Answers s t o.d (match findCopy s (s.g o.a).toNat with
      | none => 0
      | some c => BitVec.ofNat 64 (match c.paused with
        | some p => 3 * 2 ^ 62 + p.1 * 2 ^ 48 + c.n
        | none => if c.running then 2 * 2 ^ 62 + c.n else 2 ^ 62 + c.n))) ∧
  (∀ (s : State) (o : R2), Ready s o.use → (s.g o.a).toNat < 2 ^ 16 → findCopy s (s.g o.a).toNat = none →
    ∃ t, exec (.cpabort o) s = .next t ∧ Answers s t o.d 0x8000000000000000 ∧ Keeps s t [o.d] s.me.fpctl) ∧
  (∀ (s : State) (o : R2) (c : Copy), Ready s o.use → (s.g o.a).toNat < 2 ^ 16 → findCopy s (s.g o.a).toNat = some c →
    (c.running = false ∨ c.paused ≠ none) → c.finished = false → c.visible s s.cur.1 = true → s.me.park = none →
    ∃ t, exec (.cpabort o) s = .next t ∧ t.me.pc = s.me.pc + 4 ∧ Written t o.d (BitVec.ofNat 64 c.n) false ∧
      t.myCore.copies = s.myCore.copies.filter fun x => decide (x.id ≠ c.id)) ∧
  (∀ (s : State) (o : R2) (c : Copy), Ready s o.use → (s.g o.a).toNat < 2 ^ 16 → findCopy s (s.g o.a).toNat = some c →
    (c.running = false ∨ c.paused ≠ none) → c.visible s s.cur.1 = false →
    ∃ t, exec (.cpabort o) s = .next t ∧ t.me.pc = s.me.pc ∧ t.me.park = some (.copy (s.g o.a).toNat o.d) ∧ t.mem = s.mem ∧
      ∃ c' ∈ t.myCore.copies, c'.id = c.id ∧ c'.finished = true ∧ c'.n = c.n) ∧
  (∀ (s : State) (o : R2) (c : Copy), Ready s o.use → (s.g o.a).toNat < 2 ^ 16 → findCopy s (s.g o.a).toNat = some c → c.running = true →
    c.paused = none →
    ∃ t, exec (.cpabort o) s = .next t ∧ t.me.pc = s.me.pc ∧ t.me.park = some (.copy (s.g o.a).toNat o.d) ∧ t.mem = s.mem ∧
      ∃ c' ∈ t.myCore.copies, c'.id = c.id ∧ c'.abort = true ∧ c'.n = c.n) ∧
  (∀ (s : State) (o : Fone), Ready s o.useSrc → o.i.toNat < 11 →
    ∃ t, exec (.cpset o) s = .next t ∧ GoesOn s t ∧ t.mem = s.mem ∧ descAt t.me.desc o.i.toNat = s.g o.g ∧
      ∀ f, f ≠ o.i.toNat → descAt t.me.desc f = descAt s.me.desc f) ∧
  (∀ (s : State) (o : Fone), Ready s o.useDst →
    ∃ t, exec (.cpget o) s = .next t ∧ Answers s t o.g (descAt s.me.desc o.i.toNat) ∧ Keeps s t [o.g] s.me.fpctl)

/-- R285, R287, R290, R291, R297: a piece of a copy writes the destination's bytes with the source's and no others; one that is to
stop ends at a multiple of 4,096, is over, and completes the CPABORTs that wait for it; a copy whose bytes are written makes its
reserved pop and push once its stores are visible at its scope, each after the earlier reserved advances of its pointer, then
stores its completion word, and is live no more. -/
def Sys2Proof.Claims.CopyProgress : Prop :=
  (∀ (s s1 : State) (g m h off : Nat) (c : Copy) (a b : Where) (bs : List Byte), (s.core g).copies.find? (fun c => decide (c.paused = none) && !c.finished && decide (c.n < copyTotal c.desc)) = some c →
    c.abort = false → fillV c.desc = false → m = c.piece → m ≤ 64 - (c.srcAt c.n).toNat % 64 → Memory.wf s.mem = true → 1 ≤ m →
    copyPlace s g { c with running := true } (popV c.desc) (c.srcAt c.n) m .load = (some (.ok a), s) →
    forkWaits s g { c with running := true } a.pa m false = false → copyRead s g { c with running := true } a m = (bs, s1) →
    copyPlace s1 g { c with running := true } (pushV c.desc) (c.dstAt c.n) m .store = (some (.ok b), s1) → placeOf s1 b.pa = .spad h off →
    forkWaits s1 g { c with running := true } b.pa m true = false → copyLeaves s1 g b = false →
    ∃ t, exec (.copyRun g) s = .next t ∧ readBytes t.mem b.pa m = bs ∧ Outside s t b.pa m ∧
      (∃ c' ∈ (t.core g).copies, c'.id = c.id ∧ c'.n = c.n + m ∧ c'.running = true) ∧ ∀ h k, t.ctx h k = s.ctx h k) ∧
  (∀ (s : State) (g : Nat) (c : Copy), (s.core g).copies.find? (fun c => decide (c.paused = none) && !c.finished && decide (c.n < copyTotal c.desc)) = some c →
    c.abort = true → c.n % 4096 = 0 →
    ∃ t, exec (.copyRun g) s = .next t ∧ t.mem = s.mem ∧ (∀ h k, t.ctx h k = s.ctx h k) ∧
      (t.core g).copies = (s.core g).copies.map fun x => if x.id = c.id then { c with finished := true } else x) ∧
  (∀ (s : State) (g n k : Nat) (rd : RegNo) (c : Copy), (s.core g).copies.find? (fun c => decide (c.ticket = n)) = some c → c.finished = true →
    c.visible s g = true → (s.ctx g k).park = some (.copy n rd) →
    ∃ t, exec (.copyCompletion g n) s = .next t ∧ (t.core g).copies = (s.core g).copies.filter (fun x => decide (x.id ≠ c.id)) ∧
      (t.ctx g k).park = none ∧ (t.ctx g k).pc = (s.ctx g k).pc + 4 ∧ (rd ≠ 0 → (t.ctx g k).reg rd = GReg.of (BitVec.ofNat 64 c.n) false)) ∧
  (∀ (s : State) (g n : Nat) (c : Copy), (s.core g).copies.find? (fun c => decide (c.ticket = n)) = some c → c.paused = none → copyTotal c.desc ≤ c.n →
    c.visible s g = true → (s.core g).resv = [] → c.word = none →
    ∃ t, exec (.copyCompletion g n) s = .next t ∧ t.mem = s.mem ∧ (t.core g).copies.all (fun x => decide (x.id ≠ c.id)) = true) ∧
  (∀ (s : State) (g n h off : Nat) (c : Copy) (va x : Word) (w : Where), (s.core g).copies.find? (fun c => decide (c.ticket = n)) = some c → c.paused = none →
    copyTotal c.desc ≤ c.n → c.finished = false → c.visible s g = true → (s.core g).resv = [] → c.advanced = true →
    c.word = some (va, x) → copyPlace s g c false va 8 .store = (some (.ok w), s) → placeOf s w.pa = .spad h off → Memory.wf s.mem = true →
    forkWaits s g c w.pa 8 true = false → copyLeaves s g w = false →
    ∃ t, exec (.copyCompletion g n) s = .next t ∧ read64 t.mem w.pa = x ∧ Outside s t w.pa 8 ∧
      (t.core g).copies.all (fun x => decide (x.id ≠ c.id)) = true) ∧
  (∀ (s : State) (g n : Nat) (c : Copy) (l1 l2 l3 : List Resv), (s.core g).copies.find? (fun c => decide (c.ticket = n)) = some c → c.paused = none →
    copyTotal c.desc ≤ c.n → c.finished = false → c.advanced = false → c.visible s g = true → c.word = none →
    (s.core g).resv = l1 ++ ⟨c.id, popRing c.desc, false, false, false⟩ :: l2 ++ ⟨c.id, pushRing c.desc, true, false, false⟩ :: l3 →
    (∀ r ∈ l1 ++ l2 ++ l3, r.owner ≠ c.id ∧ r.ready = false ∧ (r.ring, r.push) ≠ (popRing c.desc, false) ∧ (r.ring, r.push) ≠ (pushRing c.desc, true)) →
    ∃ t, exec (.copyCompletion g n) s = .next t ∧ (t.core g).resv = l1 ++ l2 ++ l3 ∧
      ((t.core g).ring (popRing c.desc)).head = advancePtr ((s.core g).ring (popRing c.desc)).slots ((s.core g).ring (popRing c.desc)).head 1 ∧
      ((t.core g).ring (pushRing c.desc)).tail = advancePtr ((s.core g).ring (pushRing c.desc)).slots ((s.core g).ring (pushRing c.desc)).tail 1 ∧
      (∀ m, m ≠ popRing c.desc → ((t.core g).ring m).head = ((s.core g).ring m).head) ∧
      (∀ m, m ≠ pushRing c.desc → ((t.core g).ring m).tail = ((s.core g).ring m).tail) ∧
      (t.core g).copies.all (fun x => decide (x.id ≠ c.id)) = true) ∧
  (∀ (s : State) (g n : Nat) (c : Copy) (r : Resv), (s.core g).copies.find? (fun c => decide (c.ticket = n)) = some c → c.paused = none →
    copyTotal c.desc ≤ c.n → c.finished = false → c.advanced = false → c.visible s g = true →
    (s.core g).resv = [r, ⟨c.id, popRing c.desc, false, false, false⟩, ⟨c.id, pushRing c.desc, true, false, false⟩] →
    r.owner ≠ c.id → r.ready = false → r.ring = popRing c.desc → r.push = false →
    ∃ t, exec (.copyCompletion g n) s = .next t ∧ t.mem = s.mem ∧
      (t.core g).resv = [r, ⟨c.id, popRing c.desc, false, false, true⟩, ⟨c.id, pushRing c.desc, true, false, true⟩] ∧
      (∀ m, (t.core g).ring m = (s.core g).ring m) ∧ ∃ c' ∈ (t.core g).copies, c'.id = c.id ∧ c'.advanced = true)

/-- R288, R295 to R298: CPGO of a legal staged descriptor accepts a copy and writes its ticket; CPSTAT reads a copy's state;
CPABORT of one that has not begun or has paused removes it and writes the bytes written once what its advances release is
visible (R285), of one that runs waits until it stops, and of none writes 2^63; CPSET and CPGET write and read a field of the
descriptor. R285, R287, R290, R291, R297: a piece of a copy writes the destination's bytes with the source's and no others; one
that is to stop ends at a multiple of 4,096, is over, and completes the CPABORTs that wait for it; a copy whose bytes are
written makes its reserved pop and push once its stores are visible at its scope, each after the earlier reserved advances of
its pointer, then stores its completion word, and is live no more. -/
def Obligations.CopyEngine : Prop := CopyInstructions ∧ CopyProgress

/-- R309, R320, R321, R313: PREEMPT of a context asks for its save and waits for the answer, and of a WAITING or STOPPED grid
stops it and writes 0; RESUME lets a stopped context go on, a STOPPED grid run and a paused copy continue, each writing 0. -/
def Sys2Proof.Claims.PreemptAndResume : Prop :=
  (∀ (s : State) (o : R3) (g k : Nat), Allowed s .s false → Ready s o.use → s.g o.b = 0 → targetCtx s (s.g o.a) = some (g, k) → (g, k) ≠ s.cur →
    ∃ t, exec (.preempt o) s = .next t ∧ t.me.park = some (.answer s.serial) ∧ t.me.pc = s.me.pc ∧ t.mem = s.mem ∧ t.me.regs = s.me.regs ∧
      t.saves = s.saves ++ [⟨s.serial, g, k, 1, some (s.cur.1, s.cur.2, o.d), false, false, false, none, false⟩]) ∧
  (∀ (s : State) (o : R3) (key : Nat) (x : Grid), Allowed s .s false → Ready s o.use → s.g o.b = 1 →
    liveGrid s (s.g o.a) (recordBasin s) = some (key, x) → (x.st = .waiting ∨ x.st = .stopped) →
    ∃ t, exec (.preempt o) s = .next t ∧ Answers s t o.d 0 ∧ (x.st = .waiting → t.grid key = some { x with halt := true }) ∧
      (x.st = .stopped → t.grid key = s.grid key)) ∧
  (∀ (s : State) (o : R3), Allowed s .s false → Ready s o.use → 1 < (s.g o.b).toNat →
    ∃ t, exec (.preempt o) s = .next t ∧ Answers s t o.d 4 ∧ Keeps s t [o.d] s.me.fpctl) ∧
  (∀ (s : State) (o : R3) (g k : Nat), Allowed s .s false → Ready s o.use → s.g o.b = 2 → vectorBusy s s.cur.1 s.cur.2 = false →
    s.me.relMark = none → visibleAt s 3 s.cur.1 s.serial = true → targetCtx s (s.g o.a) = some (g, k) → (g, k) ≠ s.cur →
    (s.ctx g k).phase = .run → ((s.ctx g k).stop = some .fault ∨ (s.ctx g k).stop = some .halted) →
    ∃ t, exec (.resume o) s = .next t ∧ Answers s t o.d 0 ∧ (t.ctx g k).stop = none ∧ (t.ctx g k).regs = (s.ctx g k).regs ∧
      (t.ctx g k).pc = (if (s.ctx g k).stop = some .halted then (s.ctx g k).pc + 4 else (s.ctx g k).pc) ∧ t.mem = s.mem) ∧
  (∀ (s : State) (o : R3) (key : Nat) (x : Grid), Allowed s .s false → Ready s o.use → s.g o.b = 1 → vectorBusy s s.cur.1 s.cur.2 = false →
    s.me.relMark = none → visibleAt s 3 s.cur.1 s.serial = true → liveGrid s (s.g o.a) (recordBasin s) = some (key, x) → x.st = .stopped →
    ∃ t y, exec (.resume o) s = .next t ∧ Answers s t o.d 0 ∧ t.grid key = some y ∧ y.st = .running ∧ t.mem = s.mem) ∧
  (∀ (s : State) (o : R3) (g : Nat) (c : Copy), Allowed s .s false → Ready s o.use → s.g o.b = 3 → vectorBusy s s.cur.1 s.cur.2 = false →
    s.me.relMark = none → visibleAt s 3 s.cur.1 s.serial = true → (s.g o.a).toNat < 2 ^ 32 →
    targetCore s ((s.g o.a).toNat / 2 ^ 16) = some g → s.me.mode = .m →
    (s.core g).copies.find? (fun c => decide (c.ticket = (s.g o.a).toNat % 2 ^ 16) && c.paused.isSome) = some c →
    ∃ t, exec (.resume o) s = .next t ∧ Answers s t o.d 0 ∧ ∃ c' ∈ (t.core g).copies, c'.id = c.id ∧ c'.paused = none ∧ c'.n = c.n)

/-- R309 to R312, R407, R408: a requested save of a thread at a boundary with no open packet writes its frame, frees its context
and completes the PREEMPT with the save handle; after its time a save whose packet stays open is withdrawn with 3; a deferred
save is attempted again once a frame of its area has been freed; a restore takes the registers and the PC from the frame and
frees it. -/
def Sys2Proof.Claims.SavesAndRestores : Prop :=
  (∀ (s s1 : State) (n h j : Nat) (r : SaveReq) (f : Frame) (rd : RegNo), s.saves[n]? = some r → r.why = 1 → r.group = none → r.deferred = false → firstSave s n r = true →
    (s.ctx r.core r.ctx).phase = .run → (s.ctx r.core r.ctx).grid = none → openEnd s r.core r.ctx = none → saveable s r.core r.ctx = true →
    (∀ c v, (s.ctx r.core r.ctx).stop ≠ some (.double c v)) → r.answer = some (h, j, rd) → (h, j) ≠ (r.core, r.ctx) →
    trySave s r.core r.ctx false = .saved s1 f →
    ∃ t, exec (.contextSave n) s = .next t ∧ t.ctx r.core r.ctx = Ctx.fresh ∧ f ∈ (t.core r.core).frames ∧ t.mem = s1.mem ∧
      (t.ctx h j).reg rd = (if rd = 0 then GReg.zero else GReg.of (handleFor s r.answer r.core f.off) false) ∧
      (t.ctx h j).pc = (s1.ctx h j).pc + 4 ∧ (t.ctx h j).park = none) ∧
  (∀ (s : State) (n h j : Nat) (r : SaveReq) (rd : RegNo), s.saves[n]? = some r → r.why = 1 → r.group = none → firstSave s n r = true → (openEnd s r.core r.ctx).isSome = true → r.waited = false →
    r.answer = some (h, j, rd) →
    ∃ t, exec (.packetWaitExpiry n) s = .next t ∧ (t.ctx h j).reg rd = (if rd = 0 then GReg.zero else GReg.of 3 false) ∧
      (t.ctx h j).pc = (s.ctx h j).pc + 4 ∧ (∀ x ∈ t.saves, x.id ≠ r.id) ∧ t.mem = s.mem) ∧
  (∀ (s : State) (n : Nat) (r : SaveReq), s.saves[n]? = some r → r.deferred = true → r.freed = true →
    ∃ t, exec (.deferredSaveRetry n) s = .next t ∧ { r with deferred := false, freed := false } ∈ t.saves ∧ t.mem = s.mem ∧ ∀ g k, t.ctx g k = s.ctx g k) ∧
  (∀ (s : State) (g k id h : Nat) (f : Frame), (s.ctx g k).park = some (.restore id) → findFrame s id = some (h, f) →
    (s.core g).tile.waiters.contains k = false → (s.core g).deque.length + f.dq.length ≤ 64 → f.tile = none →
    ∃ t, exec (.contextRestore g k) s = .next t ∧ (t.ctx g k).phase = .run ∧ (t.ctx g k).park = none ∧
      (t.ctx g k).pc = frameWord s f 64 &&& ~~~(3#64) ∧ (t.ctx g k).mode = f.mode ∧ (t.ctx g k).epc = frameWord s f 88 ∧
      (∀ n : RegNo, 0 < n.toNat → n.toNat < 32 → ((t.ctx g k).regIn false n).val = frameWord s f (192 + 8 * n.toNat)) ∧
      ∀ x ∈ (t.core h).frames, x.id ≠ f.id)

/-- R309 to R312, R408: the words of the frame that a save writes, with no byte outside it changed; and the round trip: from a
state that still holds the frame's bytes and tags, its restore into a context of any core gives the thread back. -/
def Sys2Proof.Claims.FramesRecordThreads : Prop :=
  (∀ (s : State) (n off : Nat) (r : SaveReq), SavesAt s n r off →
    ∃ t, exec (.contextSave n) s = .next t ∧ FrameHolds s t r.core r.ctx off (s.ctx r.core r.ctx) ∧
      Outside s t (windowOf r.core + off) (if (s.core r.core).wide then 1792 else 1536) ∧ t.ctx r.core r.ctx = Ctx.fresh) ∧
  (∀ (s t u : State) (n off g k : Nat) (r : SaveReq) (f : Frame) (b : Bool), SavesAt s n r off → exec (.contextSave n) s = .next t →
    f ∈ (t.core r.core).frames → f ∉ (s.core r.core).frames → findFrame u f.id = some (r.core, { f with placed := b }) →
    (∀ a, windowOf r.core + off ≤ a → a < windowOf r.core + off + 1792 → readByte u.mem a = readByte t.mem a) →
    (∀ o, off ≤ o → o < off + 1792 → tagAt u r.core o = tagAt t r.core o) → (u.ctx g k).park = some (.restore f.id) →
    (u.core g).tile.waiters.contains k = false → (u.core g).deque.length ≤ 64 →
    ∃ v, exec (.contextRestore g k) u = .next v ∧ Restored (s.ctx r.core r.ctx) (v.ctx g k) (s.core r.core).wide)

/-- R309, R320, R321, R313: PREEMPT of a context asks for its save and waits for the answer, and of a WAITING or STOPPED grid
stops it and writes 0; RESUME lets a stopped context go on, a STOPPED grid run and a paused copy continue, each writing 0. R309
to R312, R407, R408: a requested save of a thread at a boundary with no open packet writes its frame, frees its context and
completes the PREEMPT with the save handle; after its time a save whose packet stays open is withdrawn with 3; a deferred save
is attempted again once a frame of its area has been freed; a restore takes the registers and the PC from the frame and frees
it. R310, R408: the words of the frame that a save writes, and the round trip of a save and a restore. The group arrival state word
is the model's choice, log entry 11 (DESIGN CHOICE). -/
def Obligations.PreemptionAndSaves : Prop := PreemptAndResume ∧ SavesAndRestores ∧ FramesRecordThreads

/-- R20, R21, R81: a word that has been fetched reaches its thread; a parked thread whose reason has gone re-executes; JT beyond
its bound goes on; within it an entry in the own scratchpad jumps at once, and one in DRAM parks for its arrival, which jumps. -/
def Sys2Proof.Claims.FetchAndReexecute : Prop :=
  (∀ (s : State) (g k : Nat) (w : Where), alive s g k = true → (s.ctx g k).park = some .fetch →
    translate s ⟨g, (s.ctx g k).mode, (coreBasin s g).getD 64⟩ (s.ctx g k).pc .fetch 4 = .ok w → canRead s g (lineOf w.pa) = true →
    overlaps s g (gctx g k) w.pa 4 = false →
    ∃ t, exec (.fetchWordArrival g k) s = .next t ∧ t.ctx g k = { s.ctx g k with park := none, fetched := some ((s.ctx g k).pc, fetchWord s g k false w.pa) } ∧
      t.mem = s.mem ∧ ∀ h j, (h, j) ≠ (g, k) → t.ctx h j = s.ctx h j) ∧
  (∀ (s : State) (g k : Nat), mayWake s g k = true →
    ∃ t, exec (.parkedReexecute g k) s = .next t ∧ t.ctx g k = { s.ctx g k with park := none } ∧ t.mem = s.mem ∧
      ∀ h j, (h, j) ≠ (g, k) → t.ctx h j = s.ctx h j) ∧
  (∀ (s : State) (o : Jt), Ready s o.use → o.c.toNat ≤ (s.g o.a).toNat →
    ∃ t, exec (.jt o) s = .next t ∧ t.me.pc = s.me.pc + 4 ∧ Keeps s t [] s.me.fpctl) ∧
  (∀ (s : State) (o : Jt) (w : Where) (off : Nat), Ready s o.use → (s.g o.a).toNat < o.c.toNat →
    (s.g o.b + BitVec.ofNat 64 (4 * (s.g o.a).toNat)).toNat % 4 = 0 →
    translate s s.who (s.g o.b + BitVec.ofNat 64 (4 * (s.g o.a).toNat)) .load 4 = .ok w → placeOf s w.pa = .spad s.cur.1 off → Unhindered s w 0 →
    (s.g o.b + (BitVec.ofNat 32 (leNat (readBytes s.mem w.pa 4))).signExtend 64).toNat % 4 = 0 →
    ∃ t, exec (.jt o) s = .next t ∧ t.me.pc = s.g o.b + (BitVec.ofNat 32 (leNat (readBytes s.mem w.pa 4))).signExtend 64 ∧ Keeps s t [] s.me.fpctl) ∧
  (∀ (s : State) (o : Jt) (w : Where), Ready s o.use → (s.g o.a).toNat < o.c.toNat →
    (s.g o.b + BitVec.ofNat 64 (4 * (s.g o.a).toNat)).toNat % 4 = 0 →
    translate s s.who (s.g o.b + BitVec.ofNat 64 (4 * (s.g o.a).toNat)) .load 4 = .ok w → placeOf s w.pa = .dram →
    lineBusy s s.cur.1 s.cur.2 (lineOf w.pa) = false → overlaps s s.cur.1 (gctx s.cur.1 s.cur.2) w.pa 4 = false →
    ∃ t, exec (.jt o) s = .next t ∧ t.me.park = some (.load ⟨w.pa, w.vault, 4, true, 0, false, 0, false, some (s.g o.b)⟩) ∧
      t.me.pc = s.me.pc ∧ t.me.regs = s.me.regs ∧ t.me.shadow = s.me.shadow ∧ ∀ a, readByte t.mem a = readByte s.mem a) ∧
  (∀ (s : State) (g k : Nat) (op : LoadOp) (base : Word), alive s g k = true → (s.ctx g k).park = some (.load op) → op.table = some base →
    overlaps s g (gctx g k) op.addr op.size = false → canRead s g (lineOf op.addr) = true →
    (base + op.value (seenBytes s g (gctx g k) false op.addr op.size)).toNat % 4 = 0 →
    ∃ t, exec (.loadDataArrival g k false) s = .next t ∧ (t.ctx g k).park = none ∧
      (t.ctx g k).pc = base + op.value (seenBytes s g (gctx g k) false op.addr op.size) ∧ t.mem = s.mem ∧
      (∀ n, (t.ctx g k).reg n = (s.ctx g k).reg n) ∧ ∀ h j, (h, j) ≠ (g, k) → t.ctx h j = s.ctx h j)

/-- R134, R135, R141 to R145, R151, R158, R406: the oldest store of a bank is performed at its home slice when that is the
tower's own and holds all tokens, and queued towards its home otherwise, while the outbound buffer has room, or on its own tower
behind a store of its line; a queued store is performed at its home; a walk fills the TLB and lets its thread go on, or is its
page fault; a prefetch takes its next line; an escalation drains the releasing core up to its mark, and its answer lets the
acquirer go on. -/
def Sys2Proof.Claims.MemoryPathEvents : Prop :=
  (∀ (s s2 : State) (g bank : Nat) (e : WEntry) (c : Core), popBank s (s.core g) (sliceTower s g) bank = some (e, c) → e.home / 256 = sliceTower s g →
    (∀ x ∈ outQueue (s.tower (sliceTower s g)) (sliceTower s g), x.line ≠ e.line) →
    homeWrite (s.setCore g c) e.line e.home (basinMask s e.basin) = some s2 →
    ∃ t, exec (.writeBufferDrain g bank) s = .next t ∧ (t.core g).wbuf = (s.core g).wbuf.erase e ∧
      t.mem = e.bytes.foldl (fun m b => writeByte m (128 * e.line + b.off) b.val) s2.mem ∧ ∀ h k, t.ctx h k = s.ctx h k) ∧
  (∀ (s : State) (g bank : Nat) (e : WEntry) (c : Core), popBank s (s.core g) (sliceTower s g) bank = some (e, c) → e.home / 256 ≠ sliceTower s g →
    ∃ t, exec (.writeBufferDrain g bank) s = .next t ∧ (t.core g).wbuf = (s.core g).wbuf.erase e ∧ t.mem = s.mem ∧
      (t.tower (sliceTower s g)).outbound = (s.tower (sliceTower s g)).outbound ++ [{ e with sent := s.serial }]) ∧
  (∀ (s : State) (g bank : Nat) (e : WEntry) (c : Core), popBank s (s.core g) (sliceTower s g) bank = some (e, c) → e.home / 256 = sliceTower s g →
    ((∃ x ∈ outQueue (s.tower (sliceTower s g)) (sliceTower s g), x.line = e.line) ∨
      homeWrite (s.setCore g c) e.line e.home (basinMask s e.basin) = none) →
    ∃ t, exec (.writeBufferDrain g bank) s = .next t ∧ (t.core g).wbuf = (s.core g).wbuf.erase e ∧ t.mem = s.mem ∧
      (t.tower (sliceTower s g)).outbound = (s.tower (sliceTower s g)).outbound ++ [{ e with sent := s.serial }]) ∧
  (∀ (s s0 : State) (n d : Nat) (e : WEntry), nextStore s n d = some e → heldBack s n d e.sent = false → wrNext s n d e.sent = true →
    (∀ x ∈ (s.tower n).outbound, x.unitBefore e = false) →
    homeWrite s e.line e.home (basinMask s e.basin) = some s0 →
    ∃ t, exec (.outboundDelivery n d) s = .next t ∧ (t.tower n).outbound = (s.tower n).outbound.erase e ∧
      t.mem = e.bytes.foldl (fun m b => writeByte m (128 * e.line + b.off) b.val) s0.mem ∧ ∀ h k, t.ctx h k = s.ctx h k) ∧
  (∀ (s : State) (g k cause entry : Nat) (va : Word) (acc : Access) (x : Xlat), alive s g k = true → (s.ctx g k).park = some (.walk va acc cause) →
    (s.tower (sliceTower s g)).tcache.find? (fun x => x.covers ((coreBasin s g).getD 64) va.toNat) = none →
    walk s g ((coreBasin s g).getD 64) va.toNat = .leaf x entry false false → x.permits (s.ctx g k).mode acc = true →
    ∃ t, exec (.pageWalk g k) s = .next t ∧ t.ctx g k = { s.ctx g k with park := none } ∧ x ∈ (t.core g).tlb ∧ t.mem = s.mem) ∧
  (∀ (s : State) (g k cause : Nat) (va : Word) (acc : Access), alive s g k = true → (s.ctx g k).park = some (.walk va acc cause) →
    (s.tower (sliceTower s g)).tcache.find? (fun x => x.covers ((coreBasin s g).getD 64) va.toNat) = none →
    walk s g ((coreBasin s g).getD 64) va.toNat = .fault → (s.ctx g k).mode ≠ .s → (s.ctx g k).th = false →
    ∃ t, exec (.pageWalk g k) s = .next t ∧ (t.ctx g k).cause = BitVec.ofNat 8 cause ∧ (t.ctx g k).tval = va ∧ (t.ctx g k).epc = (s.ctx g k).pc ∧
      (t.ctx g k).pc = (s.core g).tvec ∧ t.mem = s.mem) ∧
  (∀ (s : State) (g : Nat) (p : Prefetch) (r : List Prefetch), (s.core g).prefetch = p :: r →
    (translateNow (s.setCore g { s.core g with prefetch := if p.left ≤ 1 then r else ⟨p.va + 128, p.left - 1, p.mode, p.basin⟩ :: r })
      ⟨g, p.mode, p.basin⟩ p.va .load 8).1 ≠ .miss →
    ∃ t, exec (.prefetchProgress g) s = .next t ∧ (∀ h k, t.ctx h k = s.ctx h k) ∧
      (t.core g).prefetch = (if p.left ≤ 1 then r else ⟨p.va + 128, p.left - 1, p.mode, p.basin⟩ :: r)) ∧
  (∀ (s : State) (n : Nat) (e : Esc), s.escs[n]? = some e → (s.guard (sliceTower s e.rel)).on = false →
    (∀ d, atomStamps s (sliceTower s e.rel) d = []) →
    (∀ x ∈ (s.core e.rel).wbuf ++ (s.tower (sliceTower s e.rel)).outbound, ∀ b ∈ x.bytes, b.gctx < 2 ^ 21) →
    ∃ t, exec (.escalationDrainRequest n) s = .next t ∧ t.escs[n]? = some { e with drained := true } ∧ (∀ x ∈ (t.core e.rel).wbuf, x.upTo e.mark = false) ∧
      (∀ x ∈ (t.tower (sliceTower s e.rel)).outbound, x.upTo e.mark = false) ∧ ∀ h k, t.ctx h k = s.ctx h k) ∧
  (∀ (s : State) (n : Nat) (e : Esc), s.escs[n]? = some e → e.drained = true → visibleAt s (scopeOf e.rel e.core) e.rel e.mark = true →
    (s.ctx e.core e.ctx).park = some (.escalation e.id) →
    ∃ t, exec (.escalationAnswer n) s = .next t ∧ t.escs = s.escs.eraseIdx n ∧ t.ctx e.core e.ctx = { s.ctx e.core e.ctx with park := none } ∧ t.mem = s.mem)

/-- R20, R21, R81: a word that has been fetched reaches its thread; a parked thread whose reason has gone re-executes; JT beyond
its bound goes on; within it an entry in the own scratchpad jumps at once, and one in DRAM parks for its arrival, which jumps. R134,
R135, R141 to R145, R151, R158, R406: the oldest store of a bank is performed at its home slice when that is the tower's own and
holds all tokens, and queued otherwise: towards its home, while the outbound buffer has room, or on its own tower behind a
queued store of its line or until the tokens are there; a queued store is performed at its home; a walk fills the TLB and lets
its thread go on, or is its page fault; a prefetch takes its next line; an escalation drains the releasing core up to its mark,
and its answer lets the acquirer go on. That a walk of several tables is one event is the model's reading (log entry 9). -/
def Obligations.FetchAndMemoryPath : Prop := FetchAndReexecute ∧ MemoryPathEvents

/-- R346 (Conservation): a reception or a timeout of the token protocol neither makes nor loses a token of any line, counting
holders and messages in flight; only what is in one place counts once (no line lists a slice twice, which the event keeps). -/
def Obligations.TokensConserved : Prop :=
  ∀ (i : Instr) (s : State), tokenEvent i = true → SlicesOk s →
    ∃ t, exec i s = .next t ∧ SlicesOk t ∧ (∀ l, tokensOf t l = tokensOf s l) ∧ t.mem = s.mem

/-- R348, R354, R355: the controller answers a write request with all its tokens and a read, as owner with two or more, with
one; a replica slice gives a write all of its own; the controller adds tokens that reach it, a slice adds them to its tag; DMARK
sets HD; after the first failure of a request the second TREQ goes out, after the second PREQ. -/
def Sys2Proof.Claims.TransientRequests : Prop :=
  (∀ (s : State) (n q : Nat) (m : TokMsg), Arrives s n m (.treq true q) → m.toCtl = true → (s.line m.line).activeAt 8 = none →
    (s.line m.line).maker = none → (s.line m.line).due = [] → 0 < (s.line m.line).ctl.tok →
    ∃ t, exec (.treqReceive n) s = .next t ∧ (t.line m.line).ctl.tok = 0 ∧ (t.line m.line).ctl.own = false ∧ t.mem = s.mem ∧
      InFlight t (ctlTower m.line) q false m.line (.tok (s.line m.line).ctl.tok (s.line m.line).ctl.own
        ((s.line m.line).ctl.own && (s.line m.line).ctl.zero) ((s.line m.line).ctl.own && !(s.line m.line).ctl.zero)
        (if (s.line m.line).ctl.own then (s.line m.line).ctl.rset else 0))) ∧
  (∀ (s : State) (n q : Nat) (m : TokMsg), Arrives s n m (.treq false q) → m.toCtl = true → (s.line m.line).activeAt 8 = none →
    (s.line m.line).maker = none → (s.line m.line).ctl.own = true → 2 ≤ (s.line m.line).ctl.tok →
    ∃ t, exec (.treqReceive n) s = .next t ∧ (t.line m.line).ctl.tok = (s.line m.line).ctl.tok - 1 ∧ (t.line m.line).ctl.own = true ∧
      InFlight t (ctlTower m.line) q false m.line (.tok 1 false (s.line m.line).ctl.zero (!(s.line m.line).ctl.zero) 0)) ∧
  (∀ (s : State) (n q : Nat) (m : TokMsg) (g : SliceTag), Arrives s n m (.treq true q) → m.toCtl = false →
    (s.line m.line).activeAt m.dst = none → (s.line m.line).maker = none → flook (s.line m.line).slices m.dst = some g → m.dst ≠ m.home / 256 →
    ∃ t, exec (.treqReceive n) s = .next t ∧ InFlight t m.dst q false m.line (.tok g.tok g.owner (g.owner && decide (g.form = .zero))
      (g.owner && decide (g.form = .data)) 0)) ∧
  (∀ (s : State) (n c r : Nat) (o z d : Bool) (m : TokMsg), Arrives s n m (.tok c o z d r) → m.toCtl = true → (s.line m.line).activeAt 8 = none →
    ∃ t, exec (.tokReceive n) s = .next t ∧ (t.line m.line).ctl.tok = (s.line m.line).ctl.tok + c ∧
      (t.line m.line).ctl.own = ((s.line m.line).ctl.own || o)) ∧
  (∀ (s : State) (n c r : Nat) (o z d : Bool) (m : TokMsg) (g : SliceTag), Arrives s n m (.tok c o z d r) → m.toCtl = false →
    (s.line m.line).activeAt m.dst = none → flook (s.line m.line).slices m.dst = some g → flook (s.line m.line).reqs m.dst = none →
    ∃ t g', exec (.tokReceive n) s = .next t ∧ flook (t.line m.line).slices m.dst = some g' ∧ g'.tok = g.tok + c ∧ g'.owner = (g.owner || o) ∧
      (d = true → g'.form = .data)) ∧
  (∀ (s : State) (n : Nat) (m : TokMsg), Arrives s n m .dmark →
    ∃ t, exec (.dmarkReceive n) s = .next t ∧ (t.line m.line).ctl = { (s.line m.line).ctl with hd := true }) ∧
  (∀ (s : State) (tower line : Nat) (r : TokReq), flook (s.line line).reqs tower = some r → r.stage = 1 →
    ∃ t, exec (.treqTimeout tower line) s = .next t ∧ flook (t.line line).reqs tower = some { r with stage := 2 } ∧
      InFlight t tower (ctlTower line) true line (.treq r.write tower) ∧
      ∀ d, d < 8 → towerPresent s d = true → d ≠ tower → InFlight t tower d false line (.treq r.write tower)) ∧
  (∀ (s : State) (tower line : Nat) (r : TokReq), flook (s.line line).reqs tower = some r → r.stage = 2 →
    weirRoom s r.home tower = true →
    ∃ t, exec (.treqTimeout tower line) s = .next t ∧ flook (t.line line).reqs tower = some { r with stage := 3 } ∧
      InFlight t tower (r.home / 256) false line (.preq r.write tower))

/-- R350, R356: the weir places a request while the requester has an entry free and keeps it in its FIFO otherwise; the first entry
of a line is activated with PACT to every recipient; a recipient activates it, acknowledges and sends its tokens, and an owner that
has only the owner token the data by itself, which a tag that has tokens only takes; the last PACK makes it active; PDONE sends
PDEACT to every recipient; a recipient deactivates and acknowledges. That the data travels alone is log entry 66. -/
def Obligations.PersistentRequests : Prop :=
  (∀ (s : State) (n q : Nat) (w : Bool) (m : TokMsg), Arrives s n m (.preq w q) → weirCount s m.home q < 2 → (s.line m.line).weir = [] →
    (s.line m.line).maker = none → (w = false ∨ (s.line m.line).due = []) →
    ∃ t e, exec (.preqReceive n) s = .next t ∧ (t.line m.line).weir = [e] ∧ e.requester = q ∧ e.write = w ∧ e.st = .activating ∧
      InFlight t (m.home / 256) (ctlTower m.line) true m.line (.pact w q) ∧
      ∀ d, d < 8 → towerPresent s d = true → InFlight t (m.home / 256) d false m.line (.pact w q)) ∧
  (∀ (s : State) (n q : Nat) (w : Bool) (m : TokMsg), Arrives s n m (.preq w q) → 2 ≤ weirCount s m.home q → weirWaiting s m.home < 32 →
    ∃ t, exec (.preqReceive n) s = .next t ∧ (t.line m.line).fifo = (s.line m.line).fifo ++ [⟨m.home, q, w, s.clock⟩] ∧
      (t.line m.line).weir = (s.line m.line).weir) ∧
  (∀ (s : State) (n q : Nat) (m : TokMsg) (g : SliceTag), Arrives s n m (.pact false q) → m.toCtl = false → m.dst ≠ q → m.dst ≠ 8 →
    flook (s.line m.line).slices m.dst = some g → g.owner = true → g.tok = 1 →
    ∃ t, exec (.pactReceive n) s = .next t ∧ InFlight t m.dst q false m.line (.data (decide (g.form = .zero))) ∧
      ∃ g', flook (t.line m.line).slices m.dst = some g' ∧ g'.tok = 1 ∧ g'.owner = true) ∧
  (∀ (s : State) (n : Nat) (z : Bool) (m : TokMsg) (g : SliceTag), Arrives s n m (.data z) → flook (s.line m.line).slices m.dst = some g →
    g.form = .tokenOnly → flook (s.line m.line).reqs m.dst = none →
    ∃ t g', exec (.tokReceive n) s = .next t ∧ flook (t.line m.line).slices m.dst = some g' ∧ g'.tok = g.tok ∧ g'.form = if z then .zero else .data) ∧
  (∀ (s : State) (n q : Nat) (w : Bool) (m : TokMsg), Arrives s n m (.pact w q) →
    ∃ t, exec (.pactReceive n) s = .next t ∧ (recipientOf m, q, w) ∈ (t.line m.line).active ∧ InFlight t m.dst m.src false m.line .pack) ∧
  (∀ (s : State) (n q : Nat) (m : TokMsg) (g : SliceTag), Arrives s n m (.pact true q) → m.toCtl = false → m.dst ≠ q → m.dst ≠ 8 →
    flook (s.line m.line).slices m.dst = some g → 0 < g.tok →
    ∃ t, exec (.pactReceive n) s = .next t ∧ InFlight t m.dst q false m.line (.tok g.tok g.owner (g.owner && decide (g.form = .zero))
      (g.owner && decide (g.form = .data)) (if g.owner then g.rset else 0))) ∧
  (∀ (s : State) (n : Nat) (m : TokMsg) (e : WeirEntry) (r : List WeirEntry), Arrives s n m .pack → (s.line m.line).weir = e :: r →
    1 < e.acks → ∃ t, exec (.packReceive n) s = .next t ∧ (t.line m.line).weir = { e with acks := e.acks - 1 } :: r) ∧
  (∀ (s : State) (n : Nat) (m : TokMsg) (e : WeirEntry) (r : List WeirEntry), Arrives s n m .pack → (s.line m.line).weir = e :: r →
    e.acks = 1 → e.st = .activating → ∃ t, exec (.packReceive n) s = .next t ∧ (t.line m.line).weir = { e with acks := 0, st := .active } :: r) ∧
  (∀ (s : State) (n : Nat) (m : TokMsg) (e : WeirEntry) (r : List WeirEntry), Arrives s n m .pdone → (s.line m.line).weir = e :: r →
    ∃ t e', exec (.pdoneReceive n) s = .next t ∧ (t.line m.line).weir = e' :: r ∧ e'.st = .deactivating ∧
      InFlight t (m.home / 256) (ctlTower m.line) true m.line (.pdeact e.write e.requester) ∧
      ∀ d, d < 8 → towerPresent s d = true → InFlight t (m.home / 256) d false m.line (.pdeact e.write e.requester)) ∧
  (∀ (s : State) (n q : Nat) (w : Bool) (m : TokMsg), Arrives s n m (.pdeact w q) →
    ∃ t, exec (.pdeactReceive n) s = .next t ∧ (∀ p ∈ (t.line m.line).active, p.1 ≠ recipientOf m) ∧
      InFlight t m.dst m.src false m.line .pack)

/-- R351, R367: the owner holder of a line that is due, the controller or the home slice, sends CENSUS to every slice and the
controller, and awaits the reply of each but the slice of the tower under census and itself; a recipient answers with all its tokens
and keeps none; the maker adds them; once every reply is in and nothing else is left it makes the tokens that are missing, and the
line has eight. -/
def Sys2Proof.Claims.Census : Prop :=
  (∀ (s : State) (line r : Nat) (l : List Nat), (s.line line).ctl.own = true → pageSaved s (line / 512) = true →
    (s.line line).maker = none → (s.line line).due = r :: l → (s.line line).ownerSlice = none → (∀ e ∈ (s.line line).weir, e.st = .placed) →
    ∃ t, exec (.censusScan (ctlTower line) line) s = .next t ∧ (t.line line).maker = some (r, ((presentTowers s).filter fun d => decide (d ≠ r)).length) ∧
      InFlight t (ctlTower line) (ctlTower line) true line (.census false) ∧
      ∀ d, d < 8 → towerPresent s d = true → InFlight t (ctlTower line) d false line (.census false)) ∧
  (∀ (s : State) (line r h : Nat) (l : List Nat), pageSaved s (line / 512) = true → (s.line line).maker = none → (s.line line).due = r :: l →
    (s.line line).ownerSlice = some h → (∀ e ∈ (s.line line).weir, e.st = .placed) →
    ∃ t, exec (.censusScan h line) s = .next t ∧
      (t.line line).maker = some (r, ((presentTowers s).filter fun d => decide (d ≠ r) && decide (d ≠ h)).length + 1) ∧
      InFlight t h (ctlTower line) true line (.census true) ∧ ∀ d, d < 8 → towerPresent s d = true → InFlight t h d false line (.census true)) ∧
  (∀ (s : State) (n r k : Nat) (b : Bool) (m : TokMsg), Arrives s n m (.census b) → m.toCtl = false → (s.line m.line).maker = some (r, k) → m.dst ≠ r →
    (b = true → m.dst ≠ m.src) →
    ∃ t, exec (.censusReceive n) s = .next t ∧ t.mem = s.mem ∧ flook (t.line m.line).slices m.dst = none ∧
      InFlight t m.dst m.src (!b) m.line (.reply (((flook (s.line m.line).slices m.dst).map SliceTag.tok).getD 0))) ∧
  (∀ (s : State) (n r k : Nat) (m : TokMsg), Arrives s n m (.census true) → m.toCtl = true → (s.line m.line).maker = some (r, k) →
    ∃ t, exec (.censusReceive n) s = .next t ∧ t.mem = s.mem ∧ (t.line m.line).ctl.tok = 0 ∧
      InFlight t (ctlTower m.line) m.src false m.line (.reply (s.line m.line).ctl.tok)) ∧
  (∀ (s : State) (n c r k : Nat) (m : TokMsg), Arrives s n m (.reply c) → m.toCtl = true → (s.line m.line).maker = some (r, k) →
    ∃ t, exec (.tokReceive n) s = .next t ∧ (t.line m.line).ctl.tok = (s.line m.line).ctl.tok + c ∧ (t.line m.line).maker = some (r, k - 1)) ∧
  (∀ (s : State) (n c r k : Nat) (m : TokMsg) (g : SliceTag), Arrives s n m (.reply c) → m.toCtl = false → (s.line m.line).maker = some (r, k) →
    (s.line m.line).activeAt m.dst = none → flook (s.line m.line).slices m.dst = some g → flook (s.line m.line).reqs m.dst = none →
    ∃ t g', exec (.tokReceive n) s = .next t ∧ flook (t.line m.line).slices m.dst = some g' ∧ g'.tok = g.tok + c ∧
      (t.line m.line).maker = some (r, k - 1)) ∧
  (∀ (s : State) (line r : Nat), (s.line line).ctl.own = true → pageSaved s (line / 512) = true → (s.line line).maker = some (r, 0) →
    (s.line line).slices = [] → flying s line = 0 → (∀ m ∈ s.msgs, m.line = line → m.body ≠ .census false) →
    ∃ t, exec (.censusScan (ctlTower line) line) s = .next t ∧ tokensOf t line = 8 ∧ (t.line line).ctl.own = true ∧ (t.line line).ctl.rset = 0 ∧
      (t.line line).maker = none) ∧
  (∀ (s : State) (line r h : Nat) (g : SliceTag), pageSaved s (line / 512) = true → (s.line line).maker = some (r, 0) →
    (s.line line).slices = [(h, g)] → g.owner = true → (s.line line).ctl.tok = 0 → flying s line = 0 →
    (∀ m ∈ s.msgs, m.line = line → m.body ≠ .census true) → flook (s.line line).reqs h = none →
    ∃ t, exec (.censusScan h line) s = .next t ∧ tokensOf t line = 8 ∧ (t.line line).slices = [(h, { g with tok := 8, rset := 0 })] ∧
      (t.line line).maker = none)

/-- R348, R354, R355: the controller answers a write request with all its tokens and a read, as owner with two or more, with
one; a replica slice gives a write all of its own; the controller adds tokens that reach it, a slice adds them to its tag; DMARK
sets HD; after the first failure of a request the second TREQ goes out, after the second PREQ, once the weir has room for it (R350;
log entry 66). R351, R367: the owner holder of a line that is due, the controller or the home slice, sends CENSUS to every slice and
the controller, and awaits the reply of each but the slice of the tower under census and itself; a recipient answers with all its
tokens and keeps none; the maker adds them; once every reply is in and nothing else is left it makes the tokens that are missing,
and the line has eight. -/
def Obligations.TransientRequestsAndCensus : Prop := TransientRequests ∧ Census

/-- R352, R392: a resent flit raises LINKRETRY, which stays at its greatest value; after 16 consecutive resends that failed a
link is down at both its ends. -/
def Sys2Proof.Claims.PackageLinks : Prop :=
  (∀ (s : State) (tower link : Nat) (bad : Bool), linkUp s tower link = true →
    ∃ t, exec (.flitResend tower link bad) s = .next t ∧ fget 0 (t.guard tower).retry link = min (fget 0 (s.guard tower).retry link + 1) 0xFFFF ∧
      fget 0 (t.guard tower).bad link = (if bad then fget 0 (s.guard tower).bad link + 1 else 0) ∧ t = { s with guards := t.guards }) ∧
  (∀ (s : State) (tower link : Nat), linkUp s tower link = true → 16 ≤ fget 0 (s.guard tower).bad link →
    ∃ t, exec (.linkFailure tower link) s = .next t ∧ linkUp t tower link = false ∧ linkUp t (linkPeer tower link) link = false ∧
      t = { s with guards := t.guards })

/-- R360 to R362, R364: a due checkpoint of a quiet guarded tower is cut and captures the tower's cores, and of another stops
its issue; once stored it is in force and what its cut covers is released; abandoned it leaves the stored one; a page's
before-image is copied once. -/
def Sys2Proof.Claims.Checkpoints : Prop :=
  (∀ (s : State) (r : Nat), (s.guard r).on = true → (s.guard r).pending = none → towerQuiet s r = true →
    ∃ t c, exec (.checkpointIntervalExpiry r) s = .next t ∧ (t.guard r).pending = some c ∧ c.no = (s.guard r).count + 1 ∧
      (∀ g, g / 256 = r → fget Core.fresh c.cores g = s.core g) ∧ (t.guard r).stopping = false ∧ (t.guard r).stored = (s.guard r).stored ∧
      t.mem = s.mem ∧ ∀ g k, t.ctx g k = s.ctx g k) ∧
  (∀ (s : State) (r : Nat), (s.guard r).on = true → (s.guard r).pending = none → towerQuiet s r = false →
    ∃ t, exec (.checkpointIntervalExpiry r) s = .next t ∧ (t.guard r).stopping = true ∧ t = { s with guards := t.guards }) ∧
  (∀ (s : State) (r : Nat) (c : Ckpt), (s.guard r).pending = some c → buddyStands s r = true →
    ∃ t, exec (.checkpointStored r 0) s = .next t ∧ (t.guard r).stored = some c ∧ (t.guard r).pending = none ∧
      (t.guard r).covered = c.stamp ∧ ∀ g k, t.ctx g k = s.ctx g k) ∧
  (∀ (s : State) (r n : Nat) (c : Ckpt), (s.guard r).pending = some c → (n = 1 ∨ n = 2) →
    ∃ t, exec (.checkpointStored r n) s = .next t ∧ (t.guard r).stored = (s.guard r).stored ∧ (t.guard r).pending = none ∧
      (t.guard r).covered = (s.guard r).covered ∧ ∀ g k, t.ctx g k = s.ctx g k) ∧
  (∀ (s : State) (page : Nat), page * 65536 / 2 ^ 35 < 8 →
    ∃ t, exec (.beforeImageCopy (page * 65536 / 2 ^ 35) page) s = .next t ∧ pageSaved t page = true ∧ t.mem = s.mem ∧
      ∀ g k, t.ctx g k = s.ctx g k)

/-- R365, R366, R369, R370: a tower that is not guarded is reset cold: its cores are as after reset; a guarded tower with a stored
checkpoint and a buddy that stands goes on from that, every core as the checkpoint has it; the cores of the other towers go on.
The values a reset leaves in a core where the spec gives none, and that a cold reset of a tower gives its cores all the values of
the part's own reset, are the model's choice (log entries 1 and 26). -/
def Obligations.TowerResets : Prop :=
  (∀ (s : State) (r : Nat), towerPresent s r = true → (s.guard r).on = false →
    ∃ t, exec (.towerResetTrigger r 1) s = .next t ∧ (∀ g, g / 256 = r → t.core g = Core.fresh) ∧
      (∀ g, g / 256 ≠ r → t.core g = s.core g) ∧ (t.guard r).pending = none ∧ (t.guard r).resetDue = false) ∧
  (∀ (s : State) (r : Nat) (c : Ckpt), towerPresent s r = true → (s.guard r).resetDue = true → (s.guard r).on = true → s.caps.getLsbD 10 = true →
    buddyStands s r = true → (s.guard r).stored = some c → (c.cores.map Prod.fst).Pairwise (· < ·) → (∀ p ∈ c.cores, p.1 / 256 = r) →
    ∃ t, exec (.towerResetTrigger r 2) s = .next t ∧ (∀ g, g / 256 = r → t.core g = fget Core.fresh c.cores g) ∧
      (∀ g, g / 256 ≠ r → t.core g = s.core g) ∧ (t.guard r).resetDue = false ∧ (t.guard r).stored = some c) ∧
  (∀ (s : State) (r : Nat), towerPresent s r = true → (s.guard r).resetDue = false → exec (.towerResetTrigger r 2) s = .next s)

/-- R391, R392: what a store to a tower's device registers does: GUARDCTL sets guarded mode and its interval, CKPTREQ takes a
checkpoint, RESETREQ asks for a reset, BEDCTL starts a bed's move, or cleans a bed that belongs to no basin; the store is no
longer due. -/
def Sys2Proof.Claims.TowerRegisters : Prop :=
  (∀ (s : State) (n : Nat) (v : Word) (r : RemoteOp), DueWrite s (towerAddr n 0x008) v r → towerPresent s n = true →
    (v.getLsbD 0 = true → s.caps.getLsbD 10 = true) → (v.toNat / 2 ^ 32 = 0 ∨ 100 ≤ v.toNat / 2 ^ 32 ∧ v.toNat / 2 ^ 32 ≤ 100000) →
    ∃ t, exec (.guardctlWrite n v) s = .next t ∧ Performed t r ∧ (t.guard n).on = v.getLsbD 0 ∧ (t.guard n).interval = v.toNat / 2 ^ 32 ∧
      t.mem = s.mem) ∧
  (∀ (s : State) (n : Nat) (r : RemoteOp), DueWrite s (towerAddr n 0x010) 1 r → towerPresent s n = true → (s.guard n).on = true →
    (s.guard n).pending = none → towerQuiet s n = true →
    ∃ t, exec (.ckptreqWrite n 1) s = .next t ∧ Performed t r ∧ (t.guard n).pending.isSome = true ∧ t.mem = s.mem) ∧
  (∀ (s : State) (n : Nat) (v : Word) (r : RemoteOp), DueWrite s (towerAddr n 0x018) v r → towerPresent s n = true →
    ∃ t, exec (.resetreqWrite n v) s = .next t ∧ Performed t r ∧
      (t.guard n).resetDue = (decide (v = 0x52455345) || (s.guard n).resetDue) ∧ t.mem = s.mem) ∧
  (∀ (s : State) (n bed : Nat) (v : Word) (r : RemoteOp), DueWrite s (towerAddr n (0x100 + 8 * bed)) v r → r.idle = false → bedExists s n bed = true →
    moving s n bed = false →
    (v.getLsbD 6 = true ∧ (bedOwner s n bed).getLsbD 6 = false ∨ v.getLsbD 6 = false ∧ (s.basin (v.toNat % 64)).isOpen = true) →
    ∃ t, exec (.bedctlWrite n bed v) s = .next t ∧ Performed t r ∧
      t.bedMoves = s.bedMoves ++ [⟨n, bed, if v.getLsbD 6 then 0x40 else v &&& 0x7F, false, false, false⟩] ∧ t.mem = s.mem) ∧
  (∀ (s : State) (n bed : Nat) (v : Word) (r : RemoteOp), DueWrite s (towerAddr n (0x100 + 8 * bed)) v r → r.idle = false → bedExists s n bed = true →
    moving s n bed = false → v.getLsbD 6 = true → (bedOwner s n bed).getLsbD 6 = true →
    ∃ t, exec (.bedctlWrite n bed v) s = .next t ∧ Performed t r ∧ t.bedMoves = s.bedMoves ∧
      ∀ g ∈ bedCores n bed, (t.core g).tenant = 0x40 ∧ (t.core g).deque = [] ∧ (t.ctx g 0).stop = none ∧ (t.ctx g 0).mode = .m)

/-- R391, R393, R394, R395: what a store to a basin's or an easel's device registers does: PTROOT and VTMAP change only while
the basin is closed, WAYMASK and QUANTUM take their fields, MAPPED = 0 unmaps an easel; a store of eight bytes reaches its
register, and one to an address outside every block of registers changes nothing. -/
def Sys2Proof.Claims.BasinRegisters : Prop :=
  (∀ (s : State) (b : Nat) (v : Word) (r : RemoteOp), DueWrite s (basinAddr b 0x008) v r →
    ∃ t, exec (.ptrootWrite b v) s = .next t ∧ Performed t r ∧
      (t.basin b).ptroot = (if (s.basin b).isOpen then (s.basin b).ptroot else v &&& ~~~(0x1FFF#64)) ∧ t.mem = s.mem) ∧
  (∀ (s : State) (b : Nat) (v : Word) (r : RemoteOp), DueWrite s (basinAddr b 0x020) v r → vtmapOk s (v &&& 0xFFFFFFFF).toNat = true →
    ∃ t, exec (.vtmapWrite b v) s = .next t ∧ Performed t r ∧
      (t.basin b).vtmap = (if (s.basin b).isOpen then (s.basin b).vtmap else v &&& 0xFFFFFFFF) ∧ t.mem = s.mem) ∧
  (∀ (s : State) (b : Nat) (v : Word) (r : RemoteOp), DueWrite s (basinAddr b 0x010) v r →
    ∃ t, exec (.waymaskWrite b v) s = .next t ∧ Performed t r ∧ t.basin b = { s.basin b with waymask := v &&& 0xFFFF } ∧ t.mem = s.mem) ∧
  (∀ (s : State) (b : Nat) (v : Word) (r : RemoteOp), DueWrite s (basinAddr b 0x018) v r →
    ∃ t, exec (.quantumWrite b v) s = .next t ∧ Performed t r ∧ t.mem = s.mem ∧
      (t.basin b).quantum = (if 1 ≤ v.toNat % 1024 ∧ v.toNat % 1024 ≤ 1000 then v &&& 0x3FF else (s.basin b).quantum)) ∧
  (∀ (s : State) (e n : Nat) (v : Word) (r : RemoteOp) (u : UQueue), DueWrite s (easelAddr e 8) v r → (s.easel e).que = some n →
    s.queue n = some u → u.easel = some e → v.getLsbD 0 = false →
    ∃ t, exec (.ectlWrite e v) s = .next t ∧ Performed t r ∧ (t.easel e).que = none ∧
      QueueIs t n { u with easel := none, st := if u.st = 2 then 2 else 0 }) ∧
  (∀ (s : State) (b : Nat) (v : Word) (r : RemoteOp), b < 64 → DueWrite s (basinAddr b 0) v r → r.addr = basinAddr b 0 → r.size = 8 →
    r.store = some (leBytes 8 v.toNat) →
    ∃ t, exec (.deviceRegisterWrite (basinAddr b 0) 8 v) s = .next t ∧ (t.basin b).fqhdr = v &&& ~~~(0x3F#64) ∧ t.mem = s.mem ∧
      t.remotes.length < s.remotes.length) ∧
  (∀ (s : State) (a : Nat) (v : Word) (r : RemoteOp), a % 8 = 0 → devReg a = .none → DueWrite s a v r → r.addr = a → r.size = 8 →
    r.store = some (leBytes 8 v.toNat) →
    ∃ t, exec (.deviceRegisterWrite a 8 v) s = .next t ∧ t = { s with remotes := t.remotes } ∧ t.remotes.length < s.remotes.length)

/-- R352, R392: a resent flit raises LINKRETRY, which stays at its greatest value; after 16 consecutive resends that failed a
link is down at both its ends. R360 to R362, R364: a due checkpoint of a quiet guarded tower is cut and captures the tower's
cores, and of another stops its issue; once stored it is in force and what its cut covers is released; abandoned it leaves the
stored one; a page's before-image is copied once. That a cut is one stamp, and that what bears a lower one is released, is the
model's choice (log entry 25). -/
def Obligations.LinksAndCheckpoints : Prop := PackageLinks ∧ Checkpoints

/-- R391, R392: what a store to a tower's device registers does: GUARDCTL sets guarded mode and its interval, CKPTREQ takes a
checkpoint, RESETREQ asks for a reset, BEDCTL starts a bed's move, or cleans a bed that belongs to no basin; the store is no
longer due. R391, R393, R394, R395: what a store to a basin's or an easel's device registers does: PTROOT and VTMAP change only
while the basin is closed, WAYMASK and QUANTUM take their fields, MAPPED = 0 unmaps an easel; a store of eight bytes reaches its
register, and one to an address outside every block of registers changes nothing. -/
def Obligations.DeviceRegisters : Prop := TowerRegisters ∧ BasinRegisters

/-- R345, R371, R372: an RMA message that names no window, exceeds it or lacks the right is answered with the access error and
changes nothing; an unsupported request with the unsupported-operation error; a write of one aligned unit is performed, or
queued in the tower of its port where that keeps it back, and its acknowledgement is due, which is sent once no unit of it is
queued; a message of an ordered connection waits for the earlier ones; a read returns the units in order. -/
def Obligations.RmaMessages : Prop :=
  (∀ (s : State) (m : RmaMsg), s.booted = true → rodWaits s m = false → windowFor s m m.bytes.length true = none →
    exec (.rmaWrite m) s = .next (Sent s (.error m.port m.conn 1))) ∧
  (∀ (s : State) (m : RmaMsg), s.booted = true → rodWaits s m = false → windowFor s m m.count false = none →
    exec (.rmaRead m) s = .next (Sent s (.error m.port m.conn 1))) ∧
  (∀ (s : State) (m : RmaMsg), s.booted = true → exec (.unsupportedRequest m) s = .next (Sent s (.error m.port m.conn 0))) ∧
  (∀ (s s1 : State) (m : RmaMsg) (w : Window) (x : Where), s.booted = true → rodWaits s m = false → windowFor s m m.bytes.length true = some w →
    m.bytes.length = 8 → (w.va + m.offset) % 8 = 0 →
    unitPlaces s (portTower s m.port) w.basin .store (w.va + m.offset) [8] = some ([(x, 8)], s1) → Memory.wf s1.mem = true →
    (portFree s1 (portTower s m.port) x = true →
      ∃ t n, exec (.rmaWrite m) s = .next t ∧ readBytes t.mem x.pa 8 = m.bytes ∧ Outside s1 t x.pa 8 ∧
        t.acks = s.acks ++ [⟨m.port, m.conn, n⟩] ∧ t.outbox = s.outbox) ∧
    (portFree s1 (portTower s m.port) x = false → outFull s1 (portTower s m.port) = false →
      ∃ t n e, exec (.rmaWrite m) s = .next t ∧ t.mem = s1.mem ∧ t.acks = s.acks ++ [⟨m.port, m.conn, n⟩] ∧ t.outbox = s.outbox ∧
        (t.tower (portTower s m.port)).outbound = (s1.tower (portTower s m.port)).outbound ++ [e] ∧ e.line = lineOf x.pa ∧
        e.bytes.map (fun b => (b.off, b.val)) = (List.range 8).zipWith (fun i v => (x.pa % 128 + i, v)) m.bytes)) ∧
  (∀ (s : State) (m : RmaMsg), s.booted = true → rodWaits s m = true → exec (.rmaWrite m) s = .next s ∧ exec (.rmaRead m) s = .next s) ∧
  (∀ (s : State) (n : Nat) (a : RmaAck), s.acks[n]? = some a →
    (unitsQueued s (portTower s a.port) a.msg = false →
      ∃ t, exec (.rmaWriteAck n) s = .next t ∧ t.outbox = s.outbox ++ [.ack a.port a.conn] ∧ t.acks = s.acks.eraseIdx n ∧ t.mem = s.mem) ∧
    (unitsQueued s (portTower s a.port) a.msg = true → exec (.rmaWriteAck n) s = .next s)) ∧
  (∀ (s s1 : State) (m : RmaMsg) (w : Window) (l : List (Where × Nat)), s.booted = true → rodWaits s m = false → windowFor s m m.count false = some w →
    unitPlaces s (portTower s m.port) w.basin .load (w.va + m.offset) (unitsFrom m.count (w.va + m.offset) m.count) = some (l, s1) →
    ∃ t, exec (.rmaRead m) s = .next t ∧ t.mem = s1.mem ∧
      t.outbox = s1.outbox ++ [.data m.port m.conn (l.flatMap fun p => readBytes s1.mem p.1.pa p.2)])

/-- R373, R375: a request of another domain than it needs is DENIED, one of no open basin or with a reserved bit set is BADARG,
one of a basin under a reset or a bed move is BUSY; every request is answered, and one that is answered with a status other than
0 has no other effect. The order of these answers (log entry 30) and the limit on long bodies (log entry 81) are the model's
reading. -/
def Obligations.RequestRefusals : Prop :=
  (∀ (i : Instr) (s : State) (q : Req) (code : Nat) (operator : Bool), basinRequest i = some (q, code, operator) → s.booted = true →
    (¬ (q.domain = none ∨ (operator = false ∧ q.domain = some q.basin.toNat)) → exec i s = .next (Sent s (replyTo q code 1 [] []))) ∧
    ((q.domain = none ∨ (operator = false ∧ q.domain = some q.basin.toNat)) →
      (q.reserved = true ∨ 4032 < q.body.length ∨ 64 ≤ q.basin.toNat ∨ (s.basin q.basin.toNat).isOpen = false → exec i s = .next (Sent s (replyTo q code 2 [] []))) ∧
      (q.reserved = false → q.body.length ≤ 4032 → q.basin.toNat < 64 → (s.basin q.basin.toNat).isOpen = true → busy s q.basin.toNat = true →
        exec i s = .next (Sent s (replyTo q code 6 [] [])))) ∧
    ∃ t status results body, exec i s = .next t ∧ t.outbox.getLast? = some (replyTo q code status results body) ∧
      (status ≠ 0 → t = Sent s (replyTo q code status [] []))) ∧
  (∀ (s : State) (q : Req), s.booted = true → q.domain.isSome = true →
    exec (.openReq q) s = .next (Sent s (replyTo q 1 1 [] [])) ∧ exec (.updateReq q) s = .next (Sent s (replyTo q 16 1 [] [])))

/-- R374, R389: what CLOSE, RESET, REGISTER, DEREGISTER, GUARD, CHECKPOINT, ATTEST, PEER and TARGET of a basin do when they are
answered with 0. -/
def Sys2Proof.Claims.BasinRequests : Prop :=
  (∀ (s : State) (q : Req), MayAsk s q true →
    ∃ t, exec (.closeReq q) s = .next t ∧ t.outbox = s.outbox ++ [replyTo q 2 0 [] []] ∧ t.basin q.basin.toNat = Basin.fresh ∧
      (∀ p ∈ t.queues, p.2.basin ≠ q.basin.toNat) ∧ (∀ w ∈ t.windows, w.basin ≠ q.basin.toNat) ∧ ∀ a ∈ t.allocs, a.basin ≠ q.basin.toNat) ∧
  (∀ (s : State) (q : Req) (p : Nat × Nat) (g : Nat), MayAsk s q false → p ∈ (s.basin q.basin.toNat).beds → g ∈ bedCores p.1 p.2 →
    ∃ t, exec (.resetReq q) s = .next t ∧ t.outbox = s.outbox ++ [replyTo q 3 0 [] []] ∧ (t.basin q.basin.toNat).resetting = false ∧
      (t.ctx g 0).mode = .s ∧ (t.ctx g 0).pc = (s.basin q.basin.toNat).entry ∧ (t.ctx g 0).stop = none ∧ ∀ k, k ≠ 0 → t.ctx g k = Ctx.fresh) ∧
  (∀ (s : State) (q : Req), MayAsk s q false → arg q 2 < 4 → arg q 0 + arg q 1 ≤ 0x00F0000000000000 →
    pagesHave s q.basin.toNat ((argOf q 2).getLsbD 0) ((argOf q 2).getLsbD 1) (if arg q 1 = 0 then 0 else (arg q 0 % 65536 + arg q 1 + 65535) / 65536)
      (arg q 0 / 65536 * 65536) = true →
    ∃ t, exec (.registerReq q) s = .next t ∧ t.outbox = s.outbox ++ [replyTo q 4 0 [BitVec.ofNat 64 (newKey s)] []] ∧ t.mem = s.mem ∧
      newKey s < 2 ^ 32 ∧ t.windows = s.windows ++ [⟨newKey s, q.basin.toNat, arg q 0, arg q 1, (argOf q 2).getLsbD 0, (argOf q 2).getLsbD 1⟩]) ∧
  (∀ (s : State) (q : Req) (w : Window), MayAsk s q false → ownWindow s q.basin.toNat (argOf q 0) = some w →
    ∃ t, exec (.deregisterReq q) s = .next t ∧ t.outbox = s.outbox ++ [replyTo q 5 0 [] []] ∧ (∀ x ∈ t.windows, x.key ≠ arg q 0) ∧ t.mem = s.mem) ∧
  (∀ (s : State) (q : Req), MayAsk s q false → s.caps.getLsbD 10 = true → 100 ≤ arg q 1 → arg q 1 ≤ 100000 →
    ∃ t, exec (.guardReq q) s = .next t ∧ t.outbox = s.outbox ++ [replyTo q 11 0 [] []] ∧
      (∀ n ∈ maskedTowers s q.basin.toNat (arg q 0), (t.guard n).on = true ∧ (t.guard n).interval = arg q 1) ∧ t.mem = s.mem) ∧
  (∀ (s : State) (q : Req), MayAsk s q false → s.caps.getLsbD 10 = true →
    ∃ t, exec (.checkpointReq q) s = .next t ∧ t.outbox = s.outbox ++ [replyTo q 12 0 [] []] ∧ t.mem = s.mem ∧
      ∀ n ∈ basinTowers s q.basin.toNat, (s.guard n).on = true → (s.guard n).pending = none →
        ((t.guard n).pending.isSome = true ∨ (t.guard n).stopping = true)) ∧
  (∀ (s : State) (q : Req) (key rep : List Byte), MayAsk s q false → q.body.length = 32 → s.identity = some key →
    rep = leBytes 8 (q.basin.toNat * 2 ^ 16 + 1) ++ q.body ++ leBytes 8 s.caps.toNat ++ leBytes 8 s.ids.toNat ++ Config.digest s.flash.record ++
      Config.digest s.image ++ (s.basin q.basin.toNat).objects ++ key ++ leBytes 8 (Config.imageVersion s.image) ++ List.replicate 96 0 →
    exec (.attestReq q) s = .next (Sent s (replyTo q 13 0 [] (rep ++ Config.identitySign key rep)))) ∧
  (∀ (s : State) (q : Req), MayAsk s q false → q.body.length = 32 → s.identity = none → exec (.attestReq q) s = .next (Sent s (replyTo q 13 5 [] []))) ∧
  (∀ (s : State) (q : Req), MayAsk s q false → s.caps.getLsbD 11 = true →
    ∃ t, exec (.peerReq q) s = .next t ∧ t.outbox = s.outbox ++ [replyTo q 14 0 [] []] ∧
      t.peers = s.peers ++ [(q.basin.toNat, argOf q 0, argOf q 1)] ∧ t.mem = s.mem) ∧
  (∀ (s : State) (q : Req), MayAsk s q false → arg q 1 < 1024 → arg q 1 % 32 ≤ 16 → arg q 1 / 32 % 32 ≤ 16 → 1 ≤ arg q 2 → arg q 2 ≤ 1000 →
    ∃ t, exec (.targetReq q) s = .next t ∧ t.outbox = s.outbox ++ [replyTo q 15 0 [] []] ∧ t.mem = s.mem ∧
      t.basin q.basin.toNat = { s.basin q.basin.toNat with
        target := arg q 0, minBeds := arg q 1 % 32, maxBeds := arg q 1 / 32 % 32, quantum := argOf q 2 })

/-- R374, R379, R383, R401: what MAPQ of a stopped queue, FREEQ, MAP, LOAD, LAUNCH, UPDATE and OPEN do when they are answered
with 0. -/
def Sys2Proof.Claims.LaunchRequests : Prop :=
  (∀ (s : State) (q : Req) (u : UQueue) (e : Nat), MayAsk s q false → s.queue (arg q 0) = some u → arg q 0 ≠ 0xFFFFFFFF → u.basin = q.basin.toNat →
    u.st = 2 → u.easel = some e → powerIn (arg q 1) 4 65536 = true → arg q 2 ≤ 7 →
    ∃ t, exec (.mapqReq q) s = .next t ∧ t.outbox = s.outbox ++ [replyTo q 6 0 [BitVec.ofNat 64 (arg q 0), u.hdr] []] ∧
      QueueIs t (arg q 0) { u with head := tailOf s u, tail := tailOf s u, st := 1, pri := arg q 2 } ∧ (t.easel e).pri = arg q 2) ∧
  (∀ (s : State) (q : Req) (u : UQueue), MayAsk s q false → s.queue (arg q 0) = some u → u.basin = q.basin.toNat →
    (s.queues.map Prod.fst).Pairwise (· < ·) →
    ∃ t, exec (.freeqReq q) s = .next t ∧ t.outbox = s.outbox ++ [replyTo q 7 0 [] []] ∧ t.queue (arg q 0) = none) ∧
  (∀ (s : State) (q : Req), MayAsk s q false → arg q 0 + arg q 1 ≤ 0x00F0000000000000 → arg q 2 = 0 →
    ∃ t, exec (.mapReq q) s = .next t ∧ t.outbox = s.outbox ++ [replyTo q 8 0 [] []] ∧
      ∀ g, ∀ x ∈ (t.core g).tlb, x.dies 1 q.basin.toNat 0 = false) ∧
  (∀ (s : State) (q : Req) (b page : Nat), MayAsk s q false → b = q.basin.toNat → 1 ≤ arg q 1 → arg q 0 + arg q 1 ≤ 0x00F0000000000000 →
    page = arg q 0 / 65536 * 65536 → (arg q 0 % 65536 + arg q 1 + 65535) / 65536 = 1 → arg q 2 ≠ 0 → arg q 2 % 4 = 0 → arg q 2 < 512 →
    (argOf q 2).getLsbD 6 = false → Memory.wf s.mem = true →
    (∀ x ea z, walkFrom s b page 3 (s.basin b).ptroot.toNat = .leaf x ea z false → x.bits = 16 → x.vault = false →
      ∃ t, exec (.mapReq q) s = .next t ∧ t.outbox = s.outbox ++ [replyTo q 8 0 [] []] ∧ read64 t.mem ea = pteOf b (arg q 2) x.pbase true ∧
        Outside s t ea 8 ∧ t.allocs = s.allocs ∧ ∀ g, ∀ x ∈ (t.core g).tlb, x.dies 1 b 0 = false) ∧
    (∀ s1, walkFrom s b page 3 (s.basin b).ptroot.toNat = .fault → mapFresh (unmapPages s b 1 page) b (arg q 2) none 1 page = some s1 →
      ∃ t a ea, exec (.mapReq q) s = .next t ∧ t.outbox = s1.outbox ++ [replyTo q 8 0 [] []] ∧ a ∈ t.allocs ∧ a.bits = 16 ∧ a.basin = b ∧
        a.va = some page ∧ read64 t.mem ea = pteOf b (arg q 2) a.base true ∧ ∀ g, ∀ x ∈ (t.core g).tlb, x.dies 1 b 0 = false)) ∧
  (∀ (s s0 s1 : State) (q : Req) (w : Window) (img : List Byte) (addrs : List Nat), MayAsk s q false →
    ownWindow s q.basin.toNat (argOf q 0) = some w → arg q 1 < w.len →
    readRange s (portTower s q.port) q.basin.toNat (w.va + arg q 1) (w.len - arg q 1) = some (img, s0) →
    loadImage s0 q.basin.toNat img = .ok s1 addrs →
    exec (.loadReq q) s = .next (Sent s1 (replyTo q 9 0 [] (Config.imageSymbols img addrs)))) ∧
  (∀ (s : State) (q : Req), MayAsk s q false → q.body.length = 64 →
    parseRecord s q.basin.toNat .u ((wordsOf 8 q.body).map fun v => (v, false)) = none →
    exec (.launchReq q) s = .next (Sent s (replyTo q 10 0 [2] []))) ∧
  (∀ (s s1 : State) (q : Req), MayAsk s q false → q.body.length = 64 →
    placeFor s q.basin.toNat (portTower s q.port) (wordsOf 8 q.body) = (0, s1) →
    exec (.launchReq q) s = .next (Sent s1 (replyTo q 10 0 [0] []))) ∧
  (∀ (s : State) (q : Req), s.booted = true → q.domain = none → q.reserved = false → q.basin = 0xFFFF →
    (isRecord q.body = true → recordFollows s.flash.record q.body = true →
      ∃ t, exec (.updateReq q) s = .next t ∧ t.outbox = s.outbox ++ [replyTo q 16 0 [] []] ∧ t.flash = { s.flash with record := q.body }) ∧
    (isRecord q.body = false → imageOk (recMinver s.flash.record) q.body = true →
      ∃ t, exec (.updateReq q) s = .next t ∧ t.outbox = s.outbox ++ [replyTo q 16 0 [] []] ∧ t.image = s.image ∧
        (if s.running = some 1 then t.flash.image0 = q.body else t.flash.image1 = q.body)) ∧
    (isRecord q.body = true → recordFollows s.flash.record q.body = false → exec (.updateReq q) s = .next (Sent s (replyTo q 16 5 [] [])))) ∧
  (∀ (s : State) (q : Req), s.booted = true → q.domain = none → q.reserved = false → q.basin = 0xFFFF → powerIn (arg q 2) 4 65536 = false →
    exec (.openReq q) s = .next (Sent s (replyTo q 1 2 [] []))) ∧
  (∀ (s s1 : State) (q : Req) (results : List Word) (body : List Byte), s.booted = true → q.domain = none → q.reserved = false → q.body.length ≤ 4032 →
    q.basin = 0xFFFF →
    openEff s q = .ok s1 results body →
    ∃ b, freeBasin s = some b ∧ results.head? = some (BitVec.ofNat 64 b) ∧ (s1.basin b).isOpen = true ∧ (s1.basin b).waymask = argOf q 1 &&& 0xFFFF ∧
      results = [BitVec.ofNat 64 b, (s1.basin b).vtmap] ∧ exec (.openReq q) s = .next (Sent s1 (replyTo q 1 0 results body)))

/-- R377, R379, R383: a performed TAIL reaches the easel, and one beyond the ring stops the queue; a dispatch slot whose winner
has a record of KIND 2 to 15 or one that R99 refuses drops it, one that is placed is done with, one that finds every queue FULL
stays and is held back; the hold ends; a queue is mapped again and an idle one unmapped. -/
def Obligations.EaselsAndQueues : Prop :=
  (∀ (s : State) (e n : Nat) (u : UQueue), (s.easel e).que = some n → s.queue n = some u → u.st = 1 → tailOf s u ≠ u.tail →
    ∃ t u', exec (.easelTailNotify e) s = .next t ∧ t.queue n = some u' ∧ u'.tail = tailOf s u ∧ u'.head = u.head ∧
      u'.st = (if u.slots < (tailOf s u - u.head).toNat then 2 else 1)) ∧
  (∀ (s s0 : State) (die e n : Nat) (u : UQueue), Dispatches s s0 die e n u → 2 ≤ headKind s0 u →
    ∃ t, exec (.easelDispatch die) s = .next t ∧ QueueIs t n (droppedAt u)) ∧
  (∀ (s s0 s1 : State) (die e n : Nat) (u : UQueue), Dispatches s s0 die e n u → headKind s0 u = 0 →
    (placeFor (headRecord s0 u).2 u.basin (easelTower s e) (headRecord s0 u).1 = (0, s1) →
      ∃ t, exec (.easelDispatch die) s = .next t ∧ QueueIs t n { u with head := u.head + 1 } ∧
        ∀ k, (t.tower k).banks = (s1.tower k).banks) ∧
    (placeFor (headRecord s0 u).2 u.basin (easelTower s e) (headRecord s0 u).1 = (1, s1) →
      ∃ t, exec (.easelDispatch die) s = .next t ∧ QueueIs t n { u with held := 256 }) ∧
    (placeFor (headRecord s0 u).2 u.basin (easelTower s e) (headRecord s0 u).1 = (2, s1) →
      ∃ t, exec (.easelDispatch die) s = .next t ∧ QueueIs t n (droppedAt u))) ∧
  (∀ (s : State) (e n : Nat) (u : UQueue), (s.easel e).que = some n → s.queue n = some u →
    ∃ t, exec (.easelHoldbackExpiry e) s = .next t ∧ QueueIs t n { u with held := 0 }) ∧
  (∀ (s : State) (n e : Nat) (u : UQueue), s.queue n = some u → wantsEasel s u = true →
    freeEasel s (fun e => decide (easelTower s e = u.tower)) = some e →
    ∃ t, exec (.queueRemap n) s = .next t ∧ QueueIs t n { u with easel := some e, st := 1, held := 0 } ∧ (t.easel e).que = some n) ∧
  (∀ (s : State) (n e : Nat) (u : UQueue), s.queue n = some u → u.easel = some e → idle s u = true →
    (s.queues.any fun p => wantsEasel s p.2 && decide (p.2.tower = easelTower s e)) = true →
    freeEasel s (fun d => decide (easelTower s d = easelTower s e)) = none →
    (∀ p ∈ s.queues, idle s p.2 = true → u.tailAt ≤ p.2.tailAt) →
    ∃ t, exec (.queueIdleExpiry n) s = .next t ∧ QueueIs t n { u with easel := none, st := 0 } ∧ (t.easel e).que = none)

/-- R387, R388: the partition controller starts at most one move on a tower, and none where one is in progress; a move's grace
ends with a save of every context of the bed that still runs; once its contexts are free, its frames spilled, its records
placed, its buffers and copies gone, and context 0 at a boundary, the bed is the recipient's. -/
def Obligations.BedMoves : Prop :=
  (∀ (s : State), ∃ t l, exec .partitionEvaluation s = .next t ∧ t.bedMoves = s.bedMoves ++ l ∧ (l.map fun m => m.tower).Nodup ∧
    (∀ m ∈ l, ∀ x ∈ s.bedMoves, x.tower ≠ m.tower) ∧ t.mem = s.mem ∧ ∀ g k, t.ctx g k = s.ctx g k) ∧
  (∀ (s : State) (n b bed : Nat), towerPresent s n = true → (∀ x ∈ s.bedMoves, x.tower ≠ n) → needy s n = some b → spareBed s n = some bed →
    ∃ t m, exec .partitionEvaluation s = .next t ∧ m ∈ t.bedMoves ∧ m.tower = n ∧ m.bed = bed ∧ m.owner = BitVec.ofNat 64 b &&& 0x7F) ∧
  (∀ (s : State) (n bed : Nat) (m : BedMove), s.bedMoves.find? (fun m => decide (m.tower = n) && decide (m.bed = bed)) = some m → m.graced = false →
    ∃ t, exec (.bedMoveGraceExpiry n bed) s = .next t ∧ { m with graced := true } ∈ t.bedMoves ∧ t.mem = s.mem ∧
      ∀ g ∈ bedCores n bed, ∀ k, 0 < k → k < (s.core g).count → (s.ctx g k).phase = .run → ∃ r ∈ t.saves, r.core = g ∧ r.ctx = k ∧ r.why = 3) ∧
  (∀ (s : State) (n bed g : Nat) (m : BedMove), s.bedMoves.find? (fun m => decide (m.tower = n) && decide (m.bed = bed)) = some m → m.graced = false →
    g ∈ bedCores n bed → ∃ t, exec (.bedMoveGraceExpiry n bed) s = .next t ∧
      (t.core g).copies = (s.core g).copies.map fun c => if c.paused.isSome then { c with finished := true, paused := none } else c) ∧
  (∀ (s : State) (n bed : Nat) (m : BedMove), s.bedMoves.find? (fun m => decide (m.tower = n) && decide (m.bed = bed)) = some m →
    (∀ g ∈ bedCores n bed, emptied s g = true) → m.shed = true → m.moved = true → (∀ g ∈ bedCores n bed, shedDone s g = true) →
    (∀ g ∈ bedCores n bed, (s.core g).copies = []) → (∀ g ∈ bedCores n bed, atBoundary (s.ctx g 0) = true) →
    noBuffers s n bed = true →
    ((∃ g ∈ bedCores n bed, heldEnds s g 0 ≠ []) → ∃ t, exec (.bedMoveFinish n bed) s = .next t ∧ m ∈ t.bedMoves ∧ t.mem = s.mem ∧
      (∀ g ∈ bedCores n bed, t.ctx g 0 = Ctx.zero) ∧ ((s.chans.map Prod.fst).Pairwise (· < ·) → ∀ g ∈ bedCores n bed, heldEnds t g 0 = [])) ∧
    ((∀ g ∈ bedCores n bed, heldEnds s g 0 = []) → closingAt s (bedCores n bed) = true → exec (.bedMoveFinish n bed) s = .next s) ∧
    ((∀ g ∈ bedCores n bed, heldEnds s g 0 = []) → closingAt s (bedCores n bed) = false → ∃ t, exec (.bedMoveFinish n bed) s = .next t ∧ m ∉ t.bedMoves ∧
      bedOwner t n bed = m.owner &&& 0x7F ∧
      (∀ g ∈ bedCores n bed, (t.core g).tenant = m.owner &&& 0x7F ∧ (t.core g).deque = [] ∧ (t.ctx g 0).stop = none ∧
        (t.ctx g 0).mode = (if m.owner.getLsbD 6 then .m else .s)) ∧
      t.outbox = (match ownerBasin (bedOwner s n bed) with
        | some b => s.outbox ++ [.notice b n bed]
        | none => s.outbox))) ∧
  (∀ (s : State) (n bed g : Nat), g ∈ bedCores n bed → emptied s g = false → exec (.bedMoveFinish n bed) s = .next s)

/-- R396 to R398, R402, R403: power-on verifies the record and an image, sets CAPS and IDS and starts the atelier cores in M
mode, and otherwise leaves the part unbooted; the supply voltage derates, powers off and resets the module; a hot die issues
nothing until it has cooled. While the supply is off no other move does anything. What a cold reset by the supply leaves where the
spec gives no value (memory without a listed byte, cores as they are at reset) is the model's choice: log entries 1 and 2. -/
def Obligations.ModuleEvents : Prop :=
  (∀ s : State, s.powered = true → s.booted = false → recordOk s.flash.record = true →
    imageOk (recMinver s.flash.record) s.flash.image0 = true →
    ∃ t, exec .powerOnBoot s = .next t ∧ t.booted = true ∧ t.running = some 0 ∧ t.caps = recCaps s.flash.record ∧
      t.ids = BitVec.ofNat 64 (recSerial s.flash.record) ∧ t.mem = s.mem ∧
      t.identity = (if Config.identityDerived (recPufaux s.flash.record) then some (Config.identityKey (recPufaux s.flash.record)) else none) ∧
      ∀ g, 2048 ≤ g → g < 2064 → (t.ctx g 0).mode = .m ∧ (t.ctx g 0).stop = none ∧ (t.ctx g 0).pc = Config.imageEntry s.flash.image0) ∧
  (∀ s : State, s.booted = false → recordOk s.flash.record = false → exec .powerOnBoot s = .next s) ∧
  (∀ s : State, s.booted = false → imageOk (recMinver s.flash.record) s.flash.image0 = false →
    imageOk (recMinver s.flash.record) s.flash.image1 = false → exec .powerOnBoot s = .next s) ∧
  (∀ (s : State) (mv : Nat), s.powered = true → (45000 ≤ mv ∧ mv < 48000 ∨ 54000 < mv ∧ mv ≤ 57000) →
    exec (.voltageDerate mv) s = .next { s with derated := true }) ∧
  (∀ (s : State) (mv : Nat), (mv < 45000 ∨ 57000 < mv) → exec (.voltagePowerOff mv) s = .next { s with powered := false }) ∧
  (∀ (s : State) (mv : Nat), 48000 ≤ mv → mv ≤ 54000 →
    ∃ t, exec (.inputVoltageNormal mv) s = .next t ∧ t.powered = true ∧ t.derated = false ∧ (s.powered = true → t = { s with derated := false }) ∧
      (s.powered = false → t.booted = false ∧ t.cores = [] ∧ t.mem = [] ∧ t.flash = s.flash)) ∧
  (∀ (s : State) (m : Move) (r : List Move), s.powered = false → s.agenda = m :: r → ofSupply m = false →
    step s = .next { s with clock := s.clock + 1, agenda := r }) ∧
  (∀ (s : State) (n c : Nat), 105 < c → ∃ t, exec (.thermalHold n c) s = .next t ∧ n ∈ t.hot ∧ t = { s with hot := t.hot }) ∧
  (∀ (s : State) (n c : Nat), c ≤ 100 → ∃ t, exec (.thermalRelease n c) s = .next t ∧ n ∉ t.hot ∧ t = { s with hot := t.hot })

/-- R374, R389: what CLOSE, RESET, REGISTER, DEREGISTER, GUARD, CHECKPOINT, ATTEST, PEER and TARGET of a basin do when they are
answered with 0. R374, R379, R383, R401: what MAPQ of a stopped queue, FREEQ, MAP, LOAD, LAUNCH, UPDATE and OPEN do when they
are answered with 0. A basin's reset in one step (log entry 23), the basin that OPEN takes (29), LAUNCH's status as its first
result (32) and telling UPDATE's record by its magic (35) are the model's readings and choices. -/
def Obligations.HostRequests : Prop := BasinRequests ∧ LaunchRequests

/-! ### Obligations: the whole machine -/

/-- R22 to R24: encoding and decoding agree, for every instruction that has a word: what is well-formed decodes back from its
encoding, and what a word decodes to is well-formed and encodes to that word, so no bit of a word is dropped. -/
def Obligations.DecodeEncode : Prop :=
  (∀ (i : Instr) (w : BitVec 32), i.check = none → encode i = some w → decode w = .ok i) ∧
  (∀ (i : Instr) (w : BitVec 32), decode w = .ok i → i.check = none ∧ encode i = some w)

/-- R25: words that the spec writes out bit by bit decode to the instructions they stand for, and borderline words of R35 do not
decode. -/
def Obligations.DecodeWords : Prop :=
  decode 0x04518700#32 = .ok (.add ⟨5, 6, 7, false, false⟩) ∧ decode 0x04518780#32 = .ok (.add ⟨5, 6, 7, true, false⟩) ∧
  decode 0x0C409FF0#32 = .ok (.addi ⟨4, 2, false, 0x1FF0#13⟩) ∧ decode 0x34100010#32 = .ok (.jal ⟨1, 16⟩) ∧
  (∀ e, decode 0x00000000#32 ≠ .ok e) ∧ (∀ e, decode 0x0451872C#32 ≠ .ok e) ∧ (∀ e, decode 0x70829703#32 ≠ .ok e)

/-- R20, R94: when a core has its turn, the context that is next issues: with no acquire owed, the word at its PC, decoded, is
executed in the state whose executing context it is; a word that does not decode takes ILL through ILLEGAL_WORD. -/
def Obligations.StepRunsDecoded : Prop :=
  ∀ (s s1 : State) (g k : Nat) (r : List Move) (w : BitVec 32), s.powered = true → s.agenda = .issue g :: r → s.derated = false →
    nextCtx { s with clock := s.clock + 1, agenda := r } g = some k →
    s1 = { s with
      clock := s.clock + 1, agenda := r, cur := (g, k), cores := fset s.cores g { s.core g with
        lastIssue := k, recent := k :: ((s.core g).recent.filter fun j => decide (j ≠ k)).take 6 } } →
    (s.ctx g k).acqs = [] → fetchAt s1 = .word w →
    (∀ i, decode w = .ok i → step s = exec i s1) ∧ ((∀ i, decode w ≠ .ok i) → step s = exec (.illegalWord w) s1)

/-- Every step keeps the canonical form of memory: strictly rising addresses, and no listed byte of 0. The form, and 0 as what
an unlisted address reads as, are the model's own choice (log entry 2); the spec's part is that memory is an array of bytes
(R139). -/
def Obligations.StepKeepsMemory : Prop := ∀ s t : State, MemOk s → step s = .next t → MemOk t

/-- No instruction and no event stops a run, and the only step that does not go on is that of a module without power for which
the outside has chosen nothing (R402); that it is the fault poweredOff is the model's choice (log entry 63). -/
def Obligations.EveryStepGoesOn : Prop :=
  (∀ (i : Instr) (s : State), ∃ t, exec i s = .next t) ∧
  (∀ s : State, (s.powered = true ∨ s.agenda ≠ []) → ∃ t, step s = .next t) ∧
  (∀ s : State, s.powered = false → s.agenda = [] → step s = .fault .poweredOff)

/-- R38: g0 reads as zero, is full and has tag 0; a write to it is discarded; an instruction whose only empty source could be g0
never parks or traps on it, whatever its trap bit. -/
def Obligations.RegisterZero : Prop :=
  (∀ c : Ctx, (c.reg 0).val = 0 ∧ (c.reg 0).st = .full ∧ (c.reg 0).tag = false) ∧
  (∀ (c : Ctx) (v : GReg), c.setReg 0 v = c) ∧
  (∀ (s : State) (b : Bool) (k : State → Eff), gate s ⟨[0], [(0, b)], []⟩ k = gate s ⟨[0], [], []⟩ k)

/-- R21 steps 5 to 7, R37: an instruction of OP or of the immediate formats that names a register the context does not have
takes REGNONE with the first such number; with an empty source whose trap bit is 1, REGEMPTY; with another empty source or a
destination that awaits its fill it parks, and has no effect. With several empty sources the first in field order is the one that
TVAL names, which is the model's choice (log entry 42). -/
def Obligations.RegisterChecks : Prop :=
  ∀ (s : State) (i : Instr) (d : RegNo) (u : Use) (v : Word), scalarResult s i = some (d, u, v) → s.me.th = false →
    (∀ n, u.fields.find? (fun n => decide (s.myCore.regCount ≤ n.toNat)) = some n →
      ∃ t, exec i s = .next t ∧ Traps s t 0x05 (BitVec.ofNat 64 n.toNat)) ∧
    ((∀ n ∈ u.fields, n.toNat < s.myCore.regCount) →
      (∀ p, u.srcs.find? (fun p => (s.me.reg p.1).st != .full && p.2) = some p →
        ∃ t, exec i s = .next t ∧ Traps s t 0x04 (BitVec.ofNat 64 p.1.toNat)) ∧
      ((∀ p ∈ u.srcs, (s.me.reg p.1).st ≠ .full → p.2 = false) →
        ((∃ p ∈ u.srcs, (s.me.reg p.1).st ≠ .full) ∨ (∃ n ∈ u.dsts, (s.me.reg n).st = .pending)) →
        ∃ t l, exec i s = .next t ∧ t.me.park = some (if u.srcs.any (fun p => (s.me.reg p.1).st != .full) then .regs l else .dests l) ∧ t.me.pc = s.me.pc ∧ t.me.regs = s.me.regs ∧ t.me.shadow = s.me.shadow ∧
          t.mem = s.mem ∧ ∀ g j, (g, j) ≠ s.cur → t.ctx g j = s.ctx g j))

/-- R16, R126, R303: after a reset of the part PORTS of CAPS is 0xFF, every core has TVEC 0, SAVEBASE 0x8_0000, SAVESIZE
0x4_0000, PROBEINT 100, TENANT 0x40 and PTBASE 0, and a scratchpad of 768 KiB whose words are full with tag 0 (R131), every
accumulator is full (R255, R264), and the memory is in its canonical form (log entry 2). -/
def Obligations.ResetState : Prop :=
  MemOk State.reset ∧ State.reset.caps.extractLsb' 32 8 = 0xFF ∧
  (∀ g, (State.reset.core g).tvec = 0 ∧ (State.reset.core g).savebase = 0x80000 ∧ (State.reset.core g).savesize = 0x40000 ∧
    (State.reset.core g).probeint = 100 ∧ (State.reset.core g).tenant = 0x40 ∧ (State.reset.core g).ptbase = 0 ∧
    (State.reset.core g).units * 65536 = 768 * 1024) ∧
  (∀ g off, fullAt State.reset g off = true ∧ tagAt State.reset g off = false) ∧
  (∀ g n, (State.reset.core g).tile.isFull n = true)

/-- R303: the registers of a core that S or M mode may write, and CAPS and IDS, stay as they are whatever an instruction of a
thread in U mode does, and TENANT and PTBASE whatever one of a thread in S mode does. -/
def Obligations.PrivilegedStateKept : Prop :=
  ∀ (i : Instr) (s t : State) (g : Nat), isEvent i = false → exec i s = .next t →
    (s.me.mode ≠ .m → (t.core g).tenant = (s.core g).tenant ∧ (t.core g).ptbase = (s.core g).ptbase ∧ t.caps = s.caps ∧ t.ids = s.ids) ∧
    (s.me.mode = .u → (t.core g).tvec = (s.core g).tvec ∧ (t.core g).savebase = (s.core g).savebase ∧
      (t.core g).savesize = (s.core g).savesize ∧ (t.core g).probeint = (s.core g).probeint)

end
end

