-- ==== Sys2Proof/Laws/State.lean ====
section
/-! SUPPORT. The small lemmas of the state: what each update leaves in each field, and what reading a core, a tower or
a context gives after writing one. -/

namespace Sys2Proof.Machine

/-! ### Sparse collections -/

@[simp] theorem fget_fset_same {α : Type} (d : α) (m : FMap α) (k : Nat) (v : α) : fget d (fset m k v) k = v := by
  induction m with
  | nil => simp [fset, fget]
  | cons p r ih =>
    obtain ⟨j, w⟩ := p
    by_cases h1 : k < j
    · simp [fset, fget, h1]
    · by_cases h2 : k = j
      · simp [fset, fget, h2]
      · simp [fset, fget, h1, h2, Ne.symm h2, ih]

@[simp] theorem fget_fset_ne {α : Type} (d : α) (m : FMap α) (k j : Nat) (v : α) (h : j ≠ k) :
    fget d (fset m k v) j = fget d m j := by
  induction m with
  | nil => simp [fset, fget, Ne.symm h]
  | cons p r ih =>
    obtain ⟨i, w⟩ := p
    by_cases h1 : k < i
    · simp [fset, fget, h1, Ne.symm h]
    · by_cases h2 : k = i
      · subst h2; simp [fset, fget, Ne.symm h]
      · by_cases h3 : i = j
        · subst h3; simp [fset, fget, h1, h2]
        · simp [fset, fget, h1, h2, h3, ih]

@[simp] theorem flook_fset_same {α : Type} (m : FMap α) (k : Nat) (v : α) : flook (fset m k v) k = some v := by
  induction m with
  | nil => simp [fset, flook]
  | cons p r ih =>
    obtain ⟨j, w⟩ := p
    by_cases h1 : k < j
    · simp [fset, flook, h1]
    · by_cases h2 : k = j
      · simp [fset, flook, h2]
      · simp [fset, flook, h1, h2, Ne.symm h2, ih]

@[simp] theorem flook_fset_ne {α : Type} (m : FMap α) (k j : Nat) (v : α) (h : j ≠ k) :
    flook (fset m k v) j = flook m j := by
  induction m with
  | nil => simp [fset, flook, Ne.symm h]
  | cons p r ih =>
    obtain ⟨i, w⟩ := p
    by_cases h1 : k < i
    · simp [fset, flook, h1, Ne.symm h]
    · by_cases h2 : k = i
      · subst h2; simp [fset, flook, Ne.symm h]
      · by_cases h3 : i = j
        · subst h3; simp [fset, flook, h1, h2]
        · simp [fset, flook, h1, h2, h3, ih]

/-! ### setCore -/
@[simp] theorem State.setCore_cur (s : State) (g : Nat) (c : Core) : (s.setCore g c).cur = s.cur := rfl
@[simp] theorem State.setCore_agenda (s : State) (g : Nat) (c : Core) : (s.setCore g c).agenda = s.agenda := rfl
@[simp] theorem State.setCore_turn (s : State) (g : Nat) (c : Core) : (s.setCore g c).turn = s.turn := rfl
@[simp] theorem State.setCore_serial (s : State) (g : Nat) (c : Core) : (s.setCore g c).serial = s.serial := rfl
@[simp] theorem State.setCore_freeCtr (s : State) (g : Nat) (c : Core) : (s.setCore g c).freeCtr = s.freeCtr := rfl
@[simp] theorem State.setCore_clock (s : State) (g : Nat) (c : Core) : (s.setCore g c).clock = s.clock := rfl
@[simp] theorem State.setCore_powered (s : State) (g : Nat) (c : Core) : (s.setCore g c).powered = s.powered := rfl
@[simp] theorem State.setCore_booted (s : State) (g : Nat) (c : Core) : (s.setCore g c).booted = s.booted := rfl
@[simp] theorem State.setCore_caps (s : State) (g : Nat) (c : Core) : (s.setCore g c).caps = s.caps := rfl
@[simp] theorem State.setCore_ids (s : State) (g : Nat) (c : Core) : (s.setCore g c).ids = s.ids := rfl
@[simp] theorem State.setCore_mem (s : State) (g : Nat) (c : Core) : (s.setCore g c).mem = s.mem := rfl
@[simp] theorem State.setCore_stale (s : State) (g : Nat) (c : Core) : (s.setCore g c).stale = s.stale := rfl
@[simp] theorem State.setCore_towers (s : State) (g : Nat) (c : Core) : (s.setCore g c).towers = s.towers := rfl
@[simp] theorem State.setCore_remotes (s : State) (g : Nat) (c : Core) : (s.setCore g c).remotes = s.remotes := rfl
@[simp] theorem State.setCore_atoms (s : State) (g : Nat) (c : Core) : (s.setCore g c).atoms = s.atoms := rfl
@[simp] theorem State.setCore_feOps (s : State) (g : Nat) (c : Core) : (s.setCore g c).feOps = s.feOps := rfl
@[simp] theorem State.setCore_lines (s : State) (g : Nat) (c : Core) : (s.setCore g c).lines = s.lines := rfl
@[simp] theorem State.setCore_zeroed (s : State) (g : Nat) (c : Core) : (s.setCore g c).zeroed = s.zeroed := rfl
@[simp] theorem State.setCore_msgs (s : State) (g : Nat) (c : Core) : (s.setCore g c).msgs = s.msgs := rfl
@[simp] theorem State.setCore_linkSeq (s : State) (g : Nat) (c : Core) : (s.setCore g c).linkSeq = s.linkSeq := rfl
@[simp] theorem State.setCore_escs (s : State) (g : Nat) (c : Core) : (s.setCore g c).escs = s.escs := rfl
@[simp] theorem State.setCore_basins (s : State) (g : Nat) (c : Core) : (s.setCore g c).basins = s.basins := rfl
@[simp] theorem State.setCore_afqhdr (s : State) (g : Nat) (c : Core) : (s.setCore g c).afqhdr = s.afqhdr := rfl
@[simp] theorem State.setCore_afqlost (s : State) (g : Nat) (c : Core) : (s.setCore g c).afqlost = s.afqlost := rfl
@[simp] theorem State.setCore_faultWait (s : State) (g : Nat) (c : Core) : (s.setCore g c).faultWait = s.faultWait := rfl
@[simp] theorem State.setCore_saves (s : State) (g : Nat) (c : Core) : (s.setCore g c).saves = s.saves := rfl
@[simp] theorem State.setCore_chans (s : State) (g : Nat) (c : Core) : (s.setCore g c).chans = s.chans := rfl
@[simp] theorem State.setCore_slotReuse (s : State) (g : Nat) (c : Core) : (s.setCore g c).slotReuse = s.slotReuse := rfl
@[simp] theorem State.setCore_closures (s : State) (g : Nat) (c : Core) : (s.setCore g c).closures = s.closures := rfl
@[simp] theorem State.setCore_chReplies (s : State) (g : Nat) (c : Core) : (s.setCore g c).chReplies = s.chReplies := rfl
@[simp] theorem State.setCore_probes (s : State) (g : Nat) (c : Core) : (s.setCore g c).probes = s.probes := rfl
@[simp] theorem State.setCore_barriers (s : State) (g : Nat) (c : Core) : (s.setCore g c).barriers = s.barriers := rfl
@[simp] theorem State.setCore_arrivals (s : State) (g : Nat) (c : Core) : (s.setCore g c).arrivals = s.arrivals := rfl
@[simp] theorem State.setCore_bedMoves (s : State) (g : Nat) (c : Core) : (s.setCore g c).bedMoves = s.bedMoves := rfl
@[simp] theorem State.setCore_guards (s : State) (g : Nat) (c : Core) : (s.setCore g c).guards = s.guards := rfl
@[simp] theorem State.setCore_outbox (s : State) (g : Nat) (c : Core) : (s.setCore g c).outbox = s.outbox := rfl
@[simp] theorem State.setCore_acks (s : State) (g : Nat) (c : Core) : (s.setCore g c).acks = s.acks := rfl
@[simp] theorem State.setCore_windows (s : State) (g : Nat) (c : Core) : (s.setCore g c).windows = s.windows := rfl
@[simp] theorem State.setCore_allocs (s : State) (g : Nat) (c : Core) : (s.setCore g c).allocs = s.allocs := rfl
@[simp] theorem State.setCore_queues (s : State) (g : Nat) (c : Core) : (s.setCore g c).queues = s.queues := rfl
@[simp] theorem State.setCore_easels (s : State) (g : Nat) (c : Core) : (s.setCore g c).easels = s.easels := rfl
@[simp] theorem State.setCore_winners (s : State) (g : Nat) (c : Core) : (s.setCore g c).winners = s.winners := rfl
@[simp] theorem State.setCore_peers (s : State) (g : Nat) (c : Core) : (s.setCore g c).peers = s.peers := rfl
@[simp] theorem State.setCore_flash (s : State) (g : Nat) (c : Core) : (s.setCore g c).flash = s.flash := rfl
@[simp] theorem State.setCore_running (s : State) (g : Nat) (c : Core) : (s.setCore g c).running = s.running := rfl
@[simp] theorem State.setCore_identity (s : State) (g : Nat) (c : Core) : (s.setCore g c).identity = s.identity := rfl
@[simp] theorem State.setCore_derated (s : State) (g : Nat) (c : Core) : (s.setCore g c).derated = s.derated := rfl
@[simp] theorem State.setCore_hot (s : State) (g : Nat) (c : Core) : (s.setCore g c).hot = s.hot := rfl

/-! ### setTower -/
@[simp] theorem State.setTower_cur (s : State) (t : Nat) (w : Tower) : (s.setTower t w).cur = s.cur := rfl
@[simp] theorem State.setTower_agenda (s : State) (t : Nat) (w : Tower) : (s.setTower t w).agenda = s.agenda := rfl
@[simp] theorem State.setTower_turn (s : State) (t : Nat) (w : Tower) : (s.setTower t w).turn = s.turn := rfl
@[simp] theorem State.setTower_serial (s : State) (t : Nat) (w : Tower) : (s.setTower t w).serial = s.serial := rfl
@[simp] theorem State.setTower_freeCtr (s : State) (t : Nat) (w : Tower) : (s.setTower t w).freeCtr = s.freeCtr := rfl
@[simp] theorem State.setTower_clock (s : State) (t : Nat) (w : Tower) : (s.setTower t w).clock = s.clock := rfl
@[simp] theorem State.setTower_powered (s : State) (t : Nat) (w : Tower) : (s.setTower t w).powered = s.powered := rfl
@[simp] theorem State.setTower_booted (s : State) (t : Nat) (w : Tower) : (s.setTower t w).booted = s.booted := rfl
@[simp] theorem State.setTower_caps (s : State) (t : Nat) (w : Tower) : (s.setTower t w).caps = s.caps := rfl
@[simp] theorem State.setTower_ids (s : State) (t : Nat) (w : Tower) : (s.setTower t w).ids = s.ids := rfl
@[simp] theorem State.setTower_mem (s : State) (t : Nat) (w : Tower) : (s.setTower t w).mem = s.mem := rfl
@[simp] theorem State.setTower_stale (s : State) (t : Nat) (w : Tower) : (s.setTower t w).stale = s.stale := rfl
@[simp] theorem State.setTower_cores (s : State) (t : Nat) (w : Tower) : (s.setTower t w).cores = s.cores := rfl
@[simp] theorem State.setTower_remotes (s : State) (t : Nat) (w : Tower) : (s.setTower t w).remotes = s.remotes := rfl
@[simp] theorem State.setTower_atoms (s : State) (t : Nat) (w : Tower) : (s.setTower t w).atoms = s.atoms := rfl
@[simp] theorem State.setTower_feOps (s : State) (t : Nat) (w : Tower) : (s.setTower t w).feOps = s.feOps := rfl
@[simp] theorem State.setTower_lines (s : State) (t : Nat) (w : Tower) : (s.setTower t w).lines = s.lines := rfl
@[simp] theorem State.setTower_zeroed (s : State) (t : Nat) (w : Tower) : (s.setTower t w).zeroed = s.zeroed := rfl
@[simp] theorem State.setTower_msgs (s : State) (t : Nat) (w : Tower) : (s.setTower t w).msgs = s.msgs := rfl
@[simp] theorem State.setTower_linkSeq (s : State) (t : Nat) (w : Tower) : (s.setTower t w).linkSeq = s.linkSeq := rfl
@[simp] theorem State.setTower_escs (s : State) (t : Nat) (w : Tower) : (s.setTower t w).escs = s.escs := rfl
@[simp] theorem State.setTower_basins (s : State) (t : Nat) (w : Tower) : (s.setTower t w).basins = s.basins := rfl
@[simp] theorem State.setTower_afqhdr (s : State) (t : Nat) (w : Tower) : (s.setTower t w).afqhdr = s.afqhdr := rfl
@[simp] theorem State.setTower_afqlost (s : State) (t : Nat) (w : Tower) : (s.setTower t w).afqlost = s.afqlost := rfl
@[simp] theorem State.setTower_faultWait (s : State) (t : Nat) (w : Tower) : (s.setTower t w).faultWait = s.faultWait := rfl
@[simp] theorem State.setTower_saves (s : State) (t : Nat) (w : Tower) : (s.setTower t w).saves = s.saves := rfl
@[simp] theorem State.setTower_chans (s : State) (t : Nat) (w : Tower) : (s.setTower t w).chans = s.chans := rfl
@[simp] theorem State.setTower_slotReuse (s : State) (t : Nat) (w : Tower) : (s.setTower t w).slotReuse = s.slotReuse := rfl
@[simp] theorem State.setTower_closures (s : State) (t : Nat) (w : Tower) : (s.setTower t w).closures = s.closures := rfl
@[simp] theorem State.setTower_chReplies (s : State) (t : Nat) (w : Tower) : (s.setTower t w).chReplies = s.chReplies := rfl
@[simp] theorem State.setTower_probes (s : State) (t : Nat) (w : Tower) : (s.setTower t w).probes = s.probes := rfl
@[simp] theorem State.setTower_barriers (s : State) (t : Nat) (w : Tower) : (s.setTower t w).barriers = s.barriers := rfl
@[simp] theorem State.setTower_arrivals (s : State) (t : Nat) (w : Tower) : (s.setTower t w).arrivals = s.arrivals := rfl
@[simp] theorem State.setTower_bedMoves (s : State) (t : Nat) (w : Tower) : (s.setTower t w).bedMoves = s.bedMoves := rfl
@[simp] theorem State.setTower_guards (s : State) (t : Nat) (w : Tower) : (s.setTower t w).guards = s.guards := rfl
@[simp] theorem State.setTower_outbox (s : State) (t : Nat) (w : Tower) : (s.setTower t w).outbox = s.outbox := rfl
@[simp] theorem State.setTower_acks (s : State) (t : Nat) (w : Tower) : (s.setTower t w).acks = s.acks := rfl
@[simp] theorem State.setTower_windows (s : State) (t : Nat) (w : Tower) : (s.setTower t w).windows = s.windows := rfl
@[simp] theorem State.setTower_allocs (s : State) (t : Nat) (w : Tower) : (s.setTower t w).allocs = s.allocs := rfl
@[simp] theorem State.setTower_queues (s : State) (t : Nat) (w : Tower) : (s.setTower t w).queues = s.queues := rfl
@[simp] theorem State.setTower_easels (s : State) (t : Nat) (w : Tower) : (s.setTower t w).easels = s.easels := rfl
@[simp] theorem State.setTower_winners (s : State) (t : Nat) (w : Tower) : (s.setTower t w).winners = s.winners := rfl
@[simp] theorem State.setTower_peers (s : State) (t : Nat) (w : Tower) : (s.setTower t w).peers = s.peers := rfl
@[simp] theorem State.setTower_flash (s : State) (t : Nat) (w : Tower) : (s.setTower t w).flash = s.flash := rfl
@[simp] theorem State.setTower_running (s : State) (t : Nat) (w : Tower) : (s.setTower t w).running = s.running := rfl
@[simp] theorem State.setTower_identity (s : State) (t : Nat) (w : Tower) : (s.setTower t w).identity = s.identity := rfl
@[simp] theorem State.setTower_derated (s : State) (t : Nat) (w : Tower) : (s.setTower t w).derated = s.derated := rfl
@[simp] theorem State.setTower_hot (s : State) (t : Nat) (w : Tower) : (s.setTower t w).hot = s.hot := rfl

/-! ### setLine -/
@[simp] theorem State.setLine_cur (s : State) (l : Nat) (t : LineTok) : (s.setLine l t).cur = s.cur := rfl
@[simp] theorem State.setLine_agenda (s : State) (l : Nat) (t : LineTok) : (s.setLine l t).agenda = s.agenda := rfl
@[simp] theorem State.setLine_turn (s : State) (l : Nat) (t : LineTok) : (s.setLine l t).turn = s.turn := rfl
@[simp] theorem State.setLine_serial (s : State) (l : Nat) (t : LineTok) : (s.setLine l t).serial = s.serial := rfl
@[simp] theorem State.setLine_freeCtr (s : State) (l : Nat) (t : LineTok) : (s.setLine l t).freeCtr = s.freeCtr := rfl
@[simp] theorem State.setLine_clock (s : State) (l : Nat) (t : LineTok) : (s.setLine l t).clock = s.clock := rfl
@[simp] theorem State.setLine_powered (s : State) (l : Nat) (t : LineTok) : (s.setLine l t).powered = s.powered := rfl
@[simp] theorem State.setLine_booted (s : State) (l : Nat) (t : LineTok) : (s.setLine l t).booted = s.booted := rfl
@[simp] theorem State.setLine_caps (s : State) (l : Nat) (t : LineTok) : (s.setLine l t).caps = s.caps := rfl
@[simp] theorem State.setLine_ids (s : State) (l : Nat) (t : LineTok) : (s.setLine l t).ids = s.ids := rfl
@[simp] theorem State.setLine_mem (s : State) (l : Nat) (t : LineTok) : (s.setLine l t).mem = s.mem := rfl
@[simp] theorem State.setLine_stale (s : State) (l : Nat) (t : LineTok) : (s.setLine l t).stale = s.stale := rfl
@[simp] theorem State.setLine_cores (s : State) (l : Nat) (t : LineTok) : (s.setLine l t).cores = s.cores := rfl
@[simp] theorem State.setLine_towers (s : State) (l : Nat) (t : LineTok) : (s.setLine l t).towers = s.towers := rfl
@[simp] theorem State.setLine_remotes (s : State) (l : Nat) (t : LineTok) : (s.setLine l t).remotes = s.remotes := rfl
@[simp] theorem State.setLine_atoms (s : State) (l : Nat) (t : LineTok) : (s.setLine l t).atoms = s.atoms := rfl
@[simp] theorem State.setLine_feOps (s : State) (l : Nat) (t : LineTok) : (s.setLine l t).feOps = s.feOps := rfl
@[simp] theorem State.setLine_zeroed (s : State) (l : Nat) (t : LineTok) : (s.setLine l t).zeroed = s.zeroed := rfl
@[simp] theorem State.setLine_msgs (s : State) (l : Nat) (t : LineTok) : (s.setLine l t).msgs = s.msgs := rfl
@[simp] theorem State.setLine_linkSeq (s : State) (l : Nat) (t : LineTok) : (s.setLine l t).linkSeq = s.linkSeq := rfl
@[simp] theorem State.setLine_escs (s : State) (l : Nat) (t : LineTok) : (s.setLine l t).escs = s.escs := rfl
@[simp] theorem State.setLine_basins (s : State) (l : Nat) (t : LineTok) : (s.setLine l t).basins = s.basins := rfl
@[simp] theorem State.setLine_afqhdr (s : State) (l : Nat) (t : LineTok) : (s.setLine l t).afqhdr = s.afqhdr := rfl
@[simp] theorem State.setLine_afqlost (s : State) (l : Nat) (t : LineTok) : (s.setLine l t).afqlost = s.afqlost := rfl
@[simp] theorem State.setLine_faultWait (s : State) (l : Nat) (t : LineTok) : (s.setLine l t).faultWait = s.faultWait := rfl
@[simp] theorem State.setLine_saves (s : State) (l : Nat) (t : LineTok) : (s.setLine l t).saves = s.saves := rfl
@[simp] theorem State.setLine_chans (s : State) (l : Nat) (t : LineTok) : (s.setLine l t).chans = s.chans := rfl
@[simp] theorem State.setLine_slotReuse (s : State) (l : Nat) (t : LineTok) : (s.setLine l t).slotReuse = s.slotReuse := rfl
@[simp] theorem State.setLine_closures (s : State) (l : Nat) (t : LineTok) : (s.setLine l t).closures = s.closures := rfl
@[simp] theorem State.setLine_chReplies (s : State) (l : Nat) (t : LineTok) : (s.setLine l t).chReplies = s.chReplies := rfl
@[simp] theorem State.setLine_probes (s : State) (l : Nat) (t : LineTok) : (s.setLine l t).probes = s.probes := rfl
@[simp] theorem State.setLine_barriers (s : State) (l : Nat) (t : LineTok) : (s.setLine l t).barriers = s.barriers := rfl
@[simp] theorem State.setLine_arrivals (s : State) (l : Nat) (t : LineTok) : (s.setLine l t).arrivals = s.arrivals := rfl
@[simp] theorem State.setLine_bedMoves (s : State) (l : Nat) (t : LineTok) : (s.setLine l t).bedMoves = s.bedMoves := rfl
@[simp] theorem State.setLine_guards (s : State) (l : Nat) (t : LineTok) : (s.setLine l t).guards = s.guards := rfl
@[simp] theorem State.setLine_outbox (s : State) (l : Nat) (t : LineTok) : (s.setLine l t).outbox = s.outbox := rfl
@[simp] theorem State.setLine_acks (s : State) (l : Nat) (t : LineTok) : (s.setLine l t).acks = s.acks := rfl
@[simp] theorem State.setLine_windows (s : State) (l : Nat) (t : LineTok) : (s.setLine l t).windows = s.windows := rfl
@[simp] theorem State.setLine_allocs (s : State) (l : Nat) (t : LineTok) : (s.setLine l t).allocs = s.allocs := rfl
@[simp] theorem State.setLine_queues (s : State) (l : Nat) (t : LineTok) : (s.setLine l t).queues = s.queues := rfl
@[simp] theorem State.setLine_easels (s : State) (l : Nat) (t : LineTok) : (s.setLine l t).easels = s.easels := rfl
@[simp] theorem State.setLine_winners (s : State) (l : Nat) (t : LineTok) : (s.setLine l t).winners = s.winners := rfl
@[simp] theorem State.setLine_peers (s : State) (l : Nat) (t : LineTok) : (s.setLine l t).peers = s.peers := rfl
@[simp] theorem State.setLine_flash (s : State) (l : Nat) (t : LineTok) : (s.setLine l t).flash = s.flash := rfl
@[simp] theorem State.setLine_running (s : State) (l : Nat) (t : LineTok) : (s.setLine l t).running = s.running := rfl
@[simp] theorem State.setLine_identity (s : State) (l : Nat) (t : LineTok) : (s.setLine l t).identity = s.identity := rfl
@[simp] theorem State.setLine_derated (s : State) (l : Nat) (t : LineTok) : (s.setLine l t).derated = s.derated := rfl
@[simp] theorem State.setLine_hot (s : State) (l : Nat) (t : LineTok) : (s.setLine l t).hot = s.hot := rfl

/-! ### setGuard -/
@[simp] theorem State.setGuard_cur (s : State) (t : Nat) (x : Guard) : (s.setGuard t x).cur = s.cur := rfl
@[simp] theorem State.setGuard_agenda (s : State) (t : Nat) (x : Guard) : (s.setGuard t x).agenda = s.agenda := rfl
@[simp] theorem State.setGuard_turn (s : State) (t : Nat) (x : Guard) : (s.setGuard t x).turn = s.turn := rfl
@[simp] theorem State.setGuard_serial (s : State) (t : Nat) (x : Guard) : (s.setGuard t x).serial = s.serial := rfl
@[simp] theorem State.setGuard_freeCtr (s : State) (t : Nat) (x : Guard) : (s.setGuard t x).freeCtr = s.freeCtr := rfl
@[simp] theorem State.setGuard_clock (s : State) (t : Nat) (x : Guard) : (s.setGuard t x).clock = s.clock := rfl
@[simp] theorem State.setGuard_powered (s : State) (t : Nat) (x : Guard) : (s.setGuard t x).powered = s.powered := rfl
@[simp] theorem State.setGuard_booted (s : State) (t : Nat) (x : Guard) : (s.setGuard t x).booted = s.booted := rfl
@[simp] theorem State.setGuard_caps (s : State) (t : Nat) (x : Guard) : (s.setGuard t x).caps = s.caps := rfl
@[simp] theorem State.setGuard_ids (s : State) (t : Nat) (x : Guard) : (s.setGuard t x).ids = s.ids := rfl
@[simp] theorem State.setGuard_mem (s : State) (t : Nat) (x : Guard) : (s.setGuard t x).mem = s.mem := rfl
@[simp] theorem State.setGuard_stale (s : State) (t : Nat) (x : Guard) : (s.setGuard t x).stale = s.stale := rfl
@[simp] theorem State.setGuard_cores (s : State) (t : Nat) (x : Guard) : (s.setGuard t x).cores = s.cores := rfl
@[simp] theorem State.setGuard_towers (s : State) (t : Nat) (x : Guard) : (s.setGuard t x).towers = s.towers := rfl
@[simp] theorem State.setGuard_remotes (s : State) (t : Nat) (x : Guard) : (s.setGuard t x).remotes = s.remotes := rfl
@[simp] theorem State.setGuard_atoms (s : State) (t : Nat) (x : Guard) : (s.setGuard t x).atoms = s.atoms := rfl
@[simp] theorem State.setGuard_feOps (s : State) (t : Nat) (x : Guard) : (s.setGuard t x).feOps = s.feOps := rfl
@[simp] theorem State.setGuard_lines (s : State) (t : Nat) (x : Guard) : (s.setGuard t x).lines = s.lines := rfl
@[simp] theorem State.setGuard_zeroed (s : State) (t : Nat) (x : Guard) : (s.setGuard t x).zeroed = s.zeroed := rfl
@[simp] theorem State.setGuard_msgs (s : State) (t : Nat) (x : Guard) : (s.setGuard t x).msgs = s.msgs := rfl
@[simp] theorem State.setGuard_linkSeq (s : State) (t : Nat) (x : Guard) : (s.setGuard t x).linkSeq = s.linkSeq := rfl
@[simp] theorem State.setGuard_escs (s : State) (t : Nat) (x : Guard) : (s.setGuard t x).escs = s.escs := rfl
@[simp] theorem State.setGuard_basins (s : State) (t : Nat) (x : Guard) : (s.setGuard t x).basins = s.basins := rfl
@[simp] theorem State.setGuard_afqhdr (s : State) (t : Nat) (x : Guard) : (s.setGuard t x).afqhdr = s.afqhdr := rfl
@[simp] theorem State.setGuard_afqlost (s : State) (t : Nat) (x : Guard) : (s.setGuard t x).afqlost = s.afqlost := rfl
@[simp] theorem State.setGuard_faultWait (s : State) (t : Nat) (x : Guard) : (s.setGuard t x).faultWait = s.faultWait := rfl
@[simp] theorem State.setGuard_saves (s : State) (t : Nat) (x : Guard) : (s.setGuard t x).saves = s.saves := rfl
@[simp] theorem State.setGuard_chans (s : State) (t : Nat) (x : Guard) : (s.setGuard t x).chans = s.chans := rfl
@[simp] theorem State.setGuard_slotReuse (s : State) (t : Nat) (x : Guard) : (s.setGuard t x).slotReuse = s.slotReuse := rfl
@[simp] theorem State.setGuard_closures (s : State) (t : Nat) (x : Guard) : (s.setGuard t x).closures = s.closures := rfl
@[simp] theorem State.setGuard_chReplies (s : State) (t : Nat) (x : Guard) : (s.setGuard t x).chReplies = s.chReplies := rfl
@[simp] theorem State.setGuard_probes (s : State) (t : Nat) (x : Guard) : (s.setGuard t x).probes = s.probes := rfl
@[simp] theorem State.setGuard_barriers (s : State) (t : Nat) (x : Guard) : (s.setGuard t x).barriers = s.barriers := rfl
@[simp] theorem State.setGuard_arrivals (s : State) (t : Nat) (x : Guard) : (s.setGuard t x).arrivals = s.arrivals := rfl
@[simp] theorem State.setGuard_bedMoves (s : State) (t : Nat) (x : Guard) : (s.setGuard t x).bedMoves = s.bedMoves := rfl
@[simp] theorem State.setGuard_outbox (s : State) (t : Nat) (x : Guard) : (s.setGuard t x).outbox = s.outbox := rfl
@[simp] theorem State.setGuard_acks (s : State) (t : Nat) (x : Guard) : (s.setGuard t x).acks = s.acks := rfl
@[simp] theorem State.setGuard_windows (s : State) (t : Nat) (x : Guard) : (s.setGuard t x).windows = s.windows := rfl
@[simp] theorem State.setGuard_allocs (s : State) (t : Nat) (x : Guard) : (s.setGuard t x).allocs = s.allocs := rfl
@[simp] theorem State.setGuard_queues (s : State) (t : Nat) (x : Guard) : (s.setGuard t x).queues = s.queues := rfl
@[simp] theorem State.setGuard_easels (s : State) (t : Nat) (x : Guard) : (s.setGuard t x).easels = s.easels := rfl
@[simp] theorem State.setGuard_winners (s : State) (t : Nat) (x : Guard) : (s.setGuard t x).winners = s.winners := rfl
@[simp] theorem State.setGuard_peers (s : State) (t : Nat) (x : Guard) : (s.setGuard t x).peers = s.peers := rfl
@[simp] theorem State.setGuard_flash (s : State) (t : Nat) (x : Guard) : (s.setGuard t x).flash = s.flash := rfl
@[simp] theorem State.setGuard_running (s : State) (t : Nat) (x : Guard) : (s.setGuard t x).running = s.running := rfl
@[simp] theorem State.setGuard_identity (s : State) (t : Nat) (x : Guard) : (s.setGuard t x).identity = s.identity := rfl
@[simp] theorem State.setGuard_derated (s : State) (t : Nat) (x : Guard) : (s.setGuard t x).derated = s.derated := rfl
@[simp] theorem State.setGuard_hot (s : State) (t : Nat) (x : Guard) : (s.setGuard t x).hot = s.hot := rfl

/-! ### bump -/
@[simp] theorem State.bump_cur (s : State) : (s.bump).cur = s.cur := rfl
@[simp] theorem State.bump_agenda (s : State) : (s.bump).agenda = s.agenda := rfl
@[simp] theorem State.bump_turn (s : State) : (s.bump).turn = s.turn := rfl
@[simp] theorem State.bump_freeCtr (s : State) : (s.bump).freeCtr = s.freeCtr := rfl
@[simp] theorem State.bump_clock (s : State) : (s.bump).clock = s.clock := rfl
@[simp] theorem State.bump_powered (s : State) : (s.bump).powered = s.powered := rfl
@[simp] theorem State.bump_booted (s : State) : (s.bump).booted = s.booted := rfl
@[simp] theorem State.bump_caps (s : State) : (s.bump).caps = s.caps := rfl
@[simp] theorem State.bump_ids (s : State) : (s.bump).ids = s.ids := rfl
@[simp] theorem State.bump_mem (s : State) : (s.bump).mem = s.mem := rfl
@[simp] theorem State.bump_stale (s : State) : (s.bump).stale = s.stale := rfl
@[simp] theorem State.bump_cores (s : State) : (s.bump).cores = s.cores := rfl
@[simp] theorem State.bump_towers (s : State) : (s.bump).towers = s.towers := rfl
@[simp] theorem State.bump_remotes (s : State) : (s.bump).remotes = s.remotes := rfl
@[simp] theorem State.bump_atoms (s : State) : (s.bump).atoms = s.atoms := rfl
@[simp] theorem State.bump_feOps (s : State) : (s.bump).feOps = s.feOps := rfl
@[simp] theorem State.bump_lines (s : State) : (s.bump).lines = s.lines := rfl
@[simp] theorem State.bump_zeroed (s : State) : (s.bump).zeroed = s.zeroed := rfl
@[simp] theorem State.bump_msgs (s : State) : (s.bump).msgs = s.msgs := rfl
@[simp] theorem State.bump_linkSeq (s : State) : (s.bump).linkSeq = s.linkSeq := rfl
@[simp] theorem State.bump_escs (s : State) : (s.bump).escs = s.escs := rfl
@[simp] theorem State.bump_basins (s : State) : (s.bump).basins = s.basins := rfl
@[simp] theorem State.bump_afqhdr (s : State) : (s.bump).afqhdr = s.afqhdr := rfl
@[simp] theorem State.bump_afqlost (s : State) : (s.bump).afqlost = s.afqlost := rfl
@[simp] theorem State.bump_faultWait (s : State) : (s.bump).faultWait = s.faultWait := rfl
@[simp] theorem State.bump_saves (s : State) : (s.bump).saves = s.saves := rfl
@[simp] theorem State.bump_chans (s : State) : (s.bump).chans = s.chans := rfl
@[simp] theorem State.bump_slotReuse (s : State) : (s.bump).slotReuse = s.slotReuse := rfl
@[simp] theorem State.bump_closures (s : State) : (s.bump).closures = s.closures := rfl
@[simp] theorem State.bump_chReplies (s : State) : (s.bump).chReplies = s.chReplies := rfl
@[simp] theorem State.bump_probes (s : State) : (s.bump).probes = s.probes := rfl
@[simp] theorem State.bump_barriers (s : State) : (s.bump).barriers = s.barriers := rfl
@[simp] theorem State.bump_arrivals (s : State) : (s.bump).arrivals = s.arrivals := rfl
@[simp] theorem State.bump_bedMoves (s : State) : (s.bump).bedMoves = s.bedMoves := rfl
@[simp] theorem State.bump_guards (s : State) : (s.bump).guards = s.guards := rfl
@[simp] theorem State.bump_outbox (s : State) : (s.bump).outbox = s.outbox := rfl
@[simp] theorem State.bump_acks (s : State) : (s.bump).acks = s.acks := rfl
@[simp] theorem State.bump_windows (s : State) : (s.bump).windows = s.windows := rfl
@[simp] theorem State.bump_allocs (s : State) : (s.bump).allocs = s.allocs := rfl
@[simp] theorem State.bump_queues (s : State) : (s.bump).queues = s.queues := rfl
@[simp] theorem State.bump_easels (s : State) : (s.bump).easels = s.easels := rfl
@[simp] theorem State.bump_winners (s : State) : (s.bump).winners = s.winners := rfl
@[simp] theorem State.bump_peers (s : State) : (s.bump).peers = s.peers := rfl
@[simp] theorem State.bump_flash (s : State) : (s.bump).flash = s.flash := rfl
@[simp] theorem State.bump_running (s : State) : (s.bump).running = s.running := rfl
@[simp] theorem State.bump_identity (s : State) : (s.bump).identity = s.identity := rfl
@[simp] theorem State.bump_derated (s : State) : (s.bump).derated = s.derated := rfl
@[simp] theorem State.bump_hot (s : State) : (s.bump).hot = s.hot := rfl

/-! ### at -/
@[simp] theorem State.at_agenda (s : State) (q : Nat × Nat) : (s.at q).agenda = s.agenda := rfl
@[simp] theorem State.at_turn (s : State) (q : Nat × Nat) : (s.at q).turn = s.turn := rfl
@[simp] theorem State.at_serial (s : State) (q : Nat × Nat) : (s.at q).serial = s.serial := rfl
@[simp] theorem State.at_freeCtr (s : State) (q : Nat × Nat) : (s.at q).freeCtr = s.freeCtr := rfl
@[simp] theorem State.at_clock (s : State) (q : Nat × Nat) : (s.at q).clock = s.clock := rfl
@[simp] theorem State.at_powered (s : State) (q : Nat × Nat) : (s.at q).powered = s.powered := rfl
@[simp] theorem State.at_booted (s : State) (q : Nat × Nat) : (s.at q).booted = s.booted := rfl
@[simp] theorem State.at_caps (s : State) (q : Nat × Nat) : (s.at q).caps = s.caps := rfl
@[simp] theorem State.at_ids (s : State) (q : Nat × Nat) : (s.at q).ids = s.ids := rfl
@[simp] theorem State.at_mem (s : State) (q : Nat × Nat) : (s.at q).mem = s.mem := rfl
@[simp] theorem State.at_stale (s : State) (q : Nat × Nat) : (s.at q).stale = s.stale := rfl
@[simp] theorem State.at_cores (s : State) (q : Nat × Nat) : (s.at q).cores = s.cores := rfl
@[simp] theorem State.at_towers (s : State) (q : Nat × Nat) : (s.at q).towers = s.towers := rfl
@[simp] theorem State.at_remotes (s : State) (q : Nat × Nat) : (s.at q).remotes = s.remotes := rfl
@[simp] theorem State.at_atoms (s : State) (q : Nat × Nat) : (s.at q).atoms = s.atoms := rfl
@[simp] theorem State.at_feOps (s : State) (q : Nat × Nat) : (s.at q).feOps = s.feOps := rfl
@[simp] theorem State.at_lines (s : State) (q : Nat × Nat) : (s.at q).lines = s.lines := rfl
@[simp] theorem State.at_zeroed (s : State) (q : Nat × Nat) : (s.at q).zeroed = s.zeroed := rfl
@[simp] theorem State.at_msgs (s : State) (q : Nat × Nat) : (s.at q).msgs = s.msgs := rfl
@[simp] theorem State.at_linkSeq (s : State) (q : Nat × Nat) : (s.at q).linkSeq = s.linkSeq := rfl
@[simp] theorem State.at_escs (s : State) (q : Nat × Nat) : (s.at q).escs = s.escs := rfl
@[simp] theorem State.at_basins (s : State) (q : Nat × Nat) : (s.at q).basins = s.basins := rfl
@[simp] theorem State.at_afqhdr (s : State) (q : Nat × Nat) : (s.at q).afqhdr = s.afqhdr := rfl
@[simp] theorem State.at_afqlost (s : State) (q : Nat × Nat) : (s.at q).afqlost = s.afqlost := rfl
@[simp] theorem State.at_faultWait (s : State) (q : Nat × Nat) : (s.at q).faultWait = s.faultWait := rfl
@[simp] theorem State.at_saves (s : State) (q : Nat × Nat) : (s.at q).saves = s.saves := rfl
@[simp] theorem State.at_chans (s : State) (q : Nat × Nat) : (s.at q).chans = s.chans := rfl
@[simp] theorem State.at_slotReuse (s : State) (q : Nat × Nat) : (s.at q).slotReuse = s.slotReuse := rfl
@[simp] theorem State.at_closures (s : State) (q : Nat × Nat) : (s.at q).closures = s.closures := rfl
@[simp] theorem State.at_chReplies (s : State) (q : Nat × Nat) : (s.at q).chReplies = s.chReplies := rfl
@[simp] theorem State.at_probes (s : State) (q : Nat × Nat) : (s.at q).probes = s.probes := rfl
@[simp] theorem State.at_barriers (s : State) (q : Nat × Nat) : (s.at q).barriers = s.barriers := rfl
@[simp] theorem State.at_arrivals (s : State) (q : Nat × Nat) : (s.at q).arrivals = s.arrivals := rfl
@[simp] theorem State.at_bedMoves (s : State) (q : Nat × Nat) : (s.at q).bedMoves = s.bedMoves := rfl
@[simp] theorem State.at_guards (s : State) (q : Nat × Nat) : (s.at q).guards = s.guards := rfl
@[simp] theorem State.at_outbox (s : State) (q : Nat × Nat) : (s.at q).outbox = s.outbox := rfl
@[simp] theorem State.at_acks (s : State) (q : Nat × Nat) : (s.at q).acks = s.acks := rfl
@[simp] theorem State.at_windows (s : State) (q : Nat × Nat) : (s.at q).windows = s.windows := rfl
@[simp] theorem State.at_allocs (s : State) (q : Nat × Nat) : (s.at q).allocs = s.allocs := rfl
@[simp] theorem State.at_queues (s : State) (q : Nat × Nat) : (s.at q).queues = s.queues := rfl
@[simp] theorem State.at_easels (s : State) (q : Nat × Nat) : (s.at q).easels = s.easels := rfl
@[simp] theorem State.at_winners (s : State) (q : Nat × Nat) : (s.at q).winners = s.winners := rfl
@[simp] theorem State.at_peers (s : State) (q : Nat × Nat) : (s.at q).peers = s.peers := rfl
@[simp] theorem State.at_flash (s : State) (q : Nat × Nat) : (s.at q).flash = s.flash := rfl
@[simp] theorem State.at_running (s : State) (q : Nat × Nat) : (s.at q).running = s.running := rfl
@[simp] theorem State.at_identity (s : State) (q : Nat × Nat) : (s.at q).identity = s.identity := rfl
@[simp] theorem State.at_derated (s : State) (q : Nat × Nat) : (s.at q).derated = s.derated := rfl
@[simp] theorem State.at_hot (s : State) (q : Nat × Nat) : (s.at q).hot = s.hot := rfl

/-! ### setCtx -/
@[simp] theorem State.setCtx_cur (s : State) (g k : Nat) (x : Ctx) : (s.setCtx g k x).cur = s.cur := rfl
@[simp] theorem State.setCtx_agenda (s : State) (g k : Nat) (x : Ctx) : (s.setCtx g k x).agenda = s.agenda := rfl
@[simp] theorem State.setCtx_turn (s : State) (g k : Nat) (x : Ctx) : (s.setCtx g k x).turn = s.turn := rfl
@[simp] theorem State.setCtx_serial (s : State) (g k : Nat) (x : Ctx) : (s.setCtx g k x).serial = s.serial := rfl
@[simp] theorem State.setCtx_freeCtr (s : State) (g k : Nat) (x : Ctx) : (s.setCtx g k x).freeCtr = s.freeCtr := rfl
@[simp] theorem State.setCtx_clock (s : State) (g k : Nat) (x : Ctx) : (s.setCtx g k x).clock = s.clock := rfl
@[simp] theorem State.setCtx_powered (s : State) (g k : Nat) (x : Ctx) : (s.setCtx g k x).powered = s.powered := rfl
@[simp] theorem State.setCtx_booted (s : State) (g k : Nat) (x : Ctx) : (s.setCtx g k x).booted = s.booted := rfl
@[simp] theorem State.setCtx_caps (s : State) (g k : Nat) (x : Ctx) : (s.setCtx g k x).caps = s.caps := rfl
@[simp] theorem State.setCtx_ids (s : State) (g k : Nat) (x : Ctx) : (s.setCtx g k x).ids = s.ids := rfl
@[simp] theorem State.setCtx_mem (s : State) (g k : Nat) (x : Ctx) : (s.setCtx g k x).mem = s.mem := rfl
@[simp] theorem State.setCtx_stale (s : State) (g k : Nat) (x : Ctx) : (s.setCtx g k x).stale = s.stale := rfl
@[simp] theorem State.setCtx_towers (s : State) (g k : Nat) (x : Ctx) : (s.setCtx g k x).towers = s.towers := rfl
@[simp] theorem State.setCtx_remotes (s : State) (g k : Nat) (x : Ctx) : (s.setCtx g k x).remotes = s.remotes := rfl
@[simp] theorem State.setCtx_atoms (s : State) (g k : Nat) (x : Ctx) : (s.setCtx g k x).atoms = s.atoms := rfl
@[simp] theorem State.setCtx_feOps (s : State) (g k : Nat) (x : Ctx) : (s.setCtx g k x).feOps = s.feOps := rfl
@[simp] theorem State.setCtx_lines (s : State) (g k : Nat) (x : Ctx) : (s.setCtx g k x).lines = s.lines := rfl
@[simp] theorem State.setCtx_zeroed (s : State) (g k : Nat) (x : Ctx) : (s.setCtx g k x).zeroed = s.zeroed := rfl
@[simp] theorem State.setCtx_msgs (s : State) (g k : Nat) (x : Ctx) : (s.setCtx g k x).msgs = s.msgs := rfl
@[simp] theorem State.setCtx_linkSeq (s : State) (g k : Nat) (x : Ctx) : (s.setCtx g k x).linkSeq = s.linkSeq := rfl
@[simp] theorem State.setCtx_escs (s : State) (g k : Nat) (x : Ctx) : (s.setCtx g k x).escs = s.escs := rfl
@[simp] theorem State.setCtx_basins (s : State) (g k : Nat) (x : Ctx) : (s.setCtx g k x).basins = s.basins := rfl
@[simp] theorem State.setCtx_afqhdr (s : State) (g k : Nat) (x : Ctx) : (s.setCtx g k x).afqhdr = s.afqhdr := rfl
@[simp] theorem State.setCtx_afqlost (s : State) (g k : Nat) (x : Ctx) : (s.setCtx g k x).afqlost = s.afqlost := rfl
@[simp] theorem State.setCtx_faultWait (s : State) (g k : Nat) (x : Ctx) : (s.setCtx g k x).faultWait = s.faultWait := rfl
@[simp] theorem State.setCtx_saves (s : State) (g k : Nat) (x : Ctx) : (s.setCtx g k x).saves = s.saves := rfl
@[simp] theorem State.setCtx_chans (s : State) (g k : Nat) (x : Ctx) : (s.setCtx g k x).chans = s.chans := rfl
@[simp] theorem State.setCtx_slotReuse (s : State) (g k : Nat) (x : Ctx) : (s.setCtx g k x).slotReuse = s.slotReuse := rfl
@[simp] theorem State.setCtx_closures (s : State) (g k : Nat) (x : Ctx) : (s.setCtx g k x).closures = s.closures := rfl
@[simp] theorem State.setCtx_chReplies (s : State) (g k : Nat) (x : Ctx) : (s.setCtx g k x).chReplies = s.chReplies := rfl
@[simp] theorem State.setCtx_probes (s : State) (g k : Nat) (x : Ctx) : (s.setCtx g k x).probes = s.probes := rfl
@[simp] theorem State.setCtx_barriers (s : State) (g k : Nat) (x : Ctx) : (s.setCtx g k x).barriers = s.barriers := rfl
@[simp] theorem State.setCtx_arrivals (s : State) (g k : Nat) (x : Ctx) : (s.setCtx g k x).arrivals = s.arrivals := rfl
@[simp] theorem State.setCtx_bedMoves (s : State) (g k : Nat) (x : Ctx) : (s.setCtx g k x).bedMoves = s.bedMoves := rfl
@[simp] theorem State.setCtx_guards (s : State) (g k : Nat) (x : Ctx) : (s.setCtx g k x).guards = s.guards := rfl
@[simp] theorem State.setCtx_outbox (s : State) (g k : Nat) (x : Ctx) : (s.setCtx g k x).outbox = s.outbox := rfl
@[simp] theorem State.setCtx_acks (s : State) (g k : Nat) (x : Ctx) : (s.setCtx g k x).acks = s.acks := rfl
@[simp] theorem State.setCtx_windows (s : State) (g k : Nat) (x : Ctx) : (s.setCtx g k x).windows = s.windows := rfl
@[simp] theorem State.setCtx_allocs (s : State) (g k : Nat) (x : Ctx) : (s.setCtx g k x).allocs = s.allocs := rfl
@[simp] theorem State.setCtx_queues (s : State) (g k : Nat) (x : Ctx) : (s.setCtx g k x).queues = s.queues := rfl
@[simp] theorem State.setCtx_easels (s : State) (g k : Nat) (x : Ctx) : (s.setCtx g k x).easels = s.easels := rfl
@[simp] theorem State.setCtx_winners (s : State) (g k : Nat) (x : Ctx) : (s.setCtx g k x).winners = s.winners := rfl
@[simp] theorem State.setCtx_peers (s : State) (g k : Nat) (x : Ctx) : (s.setCtx g k x).peers = s.peers := rfl
@[simp] theorem State.setCtx_flash (s : State) (g k : Nat) (x : Ctx) : (s.setCtx g k x).flash = s.flash := rfl
@[simp] theorem State.setCtx_running (s : State) (g k : Nat) (x : Ctx) : (s.setCtx g k x).running = s.running := rfl
@[simp] theorem State.setCtx_identity (s : State) (g k : Nat) (x : Ctx) : (s.setCtx g k x).identity = s.identity := rfl
@[simp] theorem State.setCtx_derated (s : State) (g k : Nat) (x : Ctx) : (s.setCtx g k x).derated = s.derated := rfl
@[simp] theorem State.setCtx_hot (s : State) (g k : Nat) (x : Ctx) : (s.setCtx g k x).hot = s.hot := rfl

/-! ### setMe -/
@[simp] theorem State.setMe_cur (s : State) (x : Ctx) : (s.setMe x).cur = s.cur := rfl
@[simp] theorem State.setMe_agenda (s : State) (x : Ctx) : (s.setMe x).agenda = s.agenda := rfl
@[simp] theorem State.setMe_turn (s : State) (x : Ctx) : (s.setMe x).turn = s.turn := rfl
@[simp] theorem State.setMe_serial (s : State) (x : Ctx) : (s.setMe x).serial = s.serial := rfl
@[simp] theorem State.setMe_freeCtr (s : State) (x : Ctx) : (s.setMe x).freeCtr = s.freeCtr := rfl
@[simp] theorem State.setMe_clock (s : State) (x : Ctx) : (s.setMe x).clock = s.clock := rfl
@[simp] theorem State.setMe_powered (s : State) (x : Ctx) : (s.setMe x).powered = s.powered := rfl
@[simp] theorem State.setMe_booted (s : State) (x : Ctx) : (s.setMe x).booted = s.booted := rfl
@[simp] theorem State.setMe_caps (s : State) (x : Ctx) : (s.setMe x).caps = s.caps := rfl
@[simp] theorem State.setMe_ids (s : State) (x : Ctx) : (s.setMe x).ids = s.ids := rfl
@[simp] theorem State.setMe_mem (s : State) (x : Ctx) : (s.setMe x).mem = s.mem := rfl
@[simp] theorem State.setMe_stale (s : State) (x : Ctx) : (s.setMe x).stale = s.stale := rfl
@[simp] theorem State.setMe_towers (s : State) (x : Ctx) : (s.setMe x).towers = s.towers := rfl
@[simp] theorem State.setMe_remotes (s : State) (x : Ctx) : (s.setMe x).remotes = s.remotes := rfl
@[simp] theorem State.setMe_atoms (s : State) (x : Ctx) : (s.setMe x).atoms = s.atoms := rfl
@[simp] theorem State.setMe_feOps (s : State) (x : Ctx) : (s.setMe x).feOps = s.feOps := rfl
@[simp] theorem State.setMe_lines (s : State) (x : Ctx) : (s.setMe x).lines = s.lines := rfl
@[simp] theorem State.setMe_zeroed (s : State) (x : Ctx) : (s.setMe x).zeroed = s.zeroed := rfl
@[simp] theorem State.setMe_msgs (s : State) (x : Ctx) : (s.setMe x).msgs = s.msgs := rfl
@[simp] theorem State.setMe_linkSeq (s : State) (x : Ctx) : (s.setMe x).linkSeq = s.linkSeq := rfl
@[simp] theorem State.setMe_escs (s : State) (x : Ctx) : (s.setMe x).escs = s.escs := rfl
@[simp] theorem State.setMe_basins (s : State) (x : Ctx) : (s.setMe x).basins = s.basins := rfl
@[simp] theorem State.setMe_afqhdr (s : State) (x : Ctx) : (s.setMe x).afqhdr = s.afqhdr := rfl
@[simp] theorem State.setMe_afqlost (s : State) (x : Ctx) : (s.setMe x).afqlost = s.afqlost := rfl
@[simp] theorem State.setMe_faultWait (s : State) (x : Ctx) : (s.setMe x).faultWait = s.faultWait := rfl
@[simp] theorem State.setMe_saves (s : State) (x : Ctx) : (s.setMe x).saves = s.saves := rfl
@[simp] theorem State.setMe_chans (s : State) (x : Ctx) : (s.setMe x).chans = s.chans := rfl
@[simp] theorem State.setMe_slotReuse (s : State) (x : Ctx) : (s.setMe x).slotReuse = s.slotReuse := rfl
@[simp] theorem State.setMe_closures (s : State) (x : Ctx) : (s.setMe x).closures = s.closures := rfl
@[simp] theorem State.setMe_chReplies (s : State) (x : Ctx) : (s.setMe x).chReplies = s.chReplies := rfl
@[simp] theorem State.setMe_probes (s : State) (x : Ctx) : (s.setMe x).probes = s.probes := rfl
@[simp] theorem State.setMe_barriers (s : State) (x : Ctx) : (s.setMe x).barriers = s.barriers := rfl
@[simp] theorem State.setMe_arrivals (s : State) (x : Ctx) : (s.setMe x).arrivals = s.arrivals := rfl
@[simp] theorem State.setMe_bedMoves (s : State) (x : Ctx) : (s.setMe x).bedMoves = s.bedMoves := rfl
@[simp] theorem State.setMe_guards (s : State) (x : Ctx) : (s.setMe x).guards = s.guards := rfl
@[simp] theorem State.setMe_outbox (s : State) (x : Ctx) : (s.setMe x).outbox = s.outbox := rfl
@[simp] theorem State.setMe_acks (s : State) (x : Ctx) : (s.setMe x).acks = s.acks := rfl
@[simp] theorem State.setMe_windows (s : State) (x : Ctx) : (s.setMe x).windows = s.windows := rfl
@[simp] theorem State.setMe_allocs (s : State) (x : Ctx) : (s.setMe x).allocs = s.allocs := rfl
@[simp] theorem State.setMe_queues (s : State) (x : Ctx) : (s.setMe x).queues = s.queues := rfl
@[simp] theorem State.setMe_easels (s : State) (x : Ctx) : (s.setMe x).easels = s.easels := rfl
@[simp] theorem State.setMe_winners (s : State) (x : Ctx) : (s.setMe x).winners = s.winners := rfl
@[simp] theorem State.setMe_peers (s : State) (x : Ctx) : (s.setMe x).peers = s.peers := rfl
@[simp] theorem State.setMe_flash (s : State) (x : Ctx) : (s.setMe x).flash = s.flash := rfl
@[simp] theorem State.setMe_running (s : State) (x : Ctx) : (s.setMe x).running = s.running := rfl
@[simp] theorem State.setMe_identity (s : State) (x : Ctx) : (s.setMe x).identity = s.identity := rfl
@[simp] theorem State.setMe_derated (s : State) (x : Ctx) : (s.setMe x).derated = s.derated := rfl
@[simp] theorem State.setMe_hot (s : State) (x : Ctx) : (s.setMe x).hot = s.hot := rfl

/-! ### setMyCore -/
@[simp] theorem State.setMyCore_cur (s : State) (c : Core) : (s.setMyCore c).cur = s.cur := rfl
@[simp] theorem State.setMyCore_agenda (s : State) (c : Core) : (s.setMyCore c).agenda = s.agenda := rfl
@[simp] theorem State.setMyCore_turn (s : State) (c : Core) : (s.setMyCore c).turn = s.turn := rfl
@[simp] theorem State.setMyCore_serial (s : State) (c : Core) : (s.setMyCore c).serial = s.serial := rfl
@[simp] theorem State.setMyCore_freeCtr (s : State) (c : Core) : (s.setMyCore c).freeCtr = s.freeCtr := rfl
@[simp] theorem State.setMyCore_clock (s : State) (c : Core) : (s.setMyCore c).clock = s.clock := rfl
@[simp] theorem State.setMyCore_powered (s : State) (c : Core) : (s.setMyCore c).powered = s.powered := rfl
@[simp] theorem State.setMyCore_booted (s : State) (c : Core) : (s.setMyCore c).booted = s.booted := rfl
@[simp] theorem State.setMyCore_caps (s : State) (c : Core) : (s.setMyCore c).caps = s.caps := rfl
@[simp] theorem State.setMyCore_ids (s : State) (c : Core) : (s.setMyCore c).ids = s.ids := rfl
@[simp] theorem State.setMyCore_mem (s : State) (c : Core) : (s.setMyCore c).mem = s.mem := rfl
@[simp] theorem State.setMyCore_stale (s : State) (c : Core) : (s.setMyCore c).stale = s.stale := rfl
@[simp] theorem State.setMyCore_towers (s : State) (c : Core) : (s.setMyCore c).towers = s.towers := rfl
@[simp] theorem State.setMyCore_remotes (s : State) (c : Core) : (s.setMyCore c).remotes = s.remotes := rfl
@[simp] theorem State.setMyCore_atoms (s : State) (c : Core) : (s.setMyCore c).atoms = s.atoms := rfl
@[simp] theorem State.setMyCore_feOps (s : State) (c : Core) : (s.setMyCore c).feOps = s.feOps := rfl
@[simp] theorem State.setMyCore_lines (s : State) (c : Core) : (s.setMyCore c).lines = s.lines := rfl
@[simp] theorem State.setMyCore_zeroed (s : State) (c : Core) : (s.setMyCore c).zeroed = s.zeroed := rfl
@[simp] theorem State.setMyCore_msgs (s : State) (c : Core) : (s.setMyCore c).msgs = s.msgs := rfl
@[simp] theorem State.setMyCore_linkSeq (s : State) (c : Core) : (s.setMyCore c).linkSeq = s.linkSeq := rfl
@[simp] theorem State.setMyCore_escs (s : State) (c : Core) : (s.setMyCore c).escs = s.escs := rfl
@[simp] theorem State.setMyCore_basins (s : State) (c : Core) : (s.setMyCore c).basins = s.basins := rfl
@[simp] theorem State.setMyCore_afqhdr (s : State) (c : Core) : (s.setMyCore c).afqhdr = s.afqhdr := rfl
@[simp] theorem State.setMyCore_afqlost (s : State) (c : Core) : (s.setMyCore c).afqlost = s.afqlost := rfl
@[simp] theorem State.setMyCore_faultWait (s : State) (c : Core) : (s.setMyCore c).faultWait = s.faultWait := rfl
@[simp] theorem State.setMyCore_saves (s : State) (c : Core) : (s.setMyCore c).saves = s.saves := rfl
@[simp] theorem State.setMyCore_chans (s : State) (c : Core) : (s.setMyCore c).chans = s.chans := rfl
@[simp] theorem State.setMyCore_slotReuse (s : State) (c : Core) : (s.setMyCore c).slotReuse = s.slotReuse := rfl
@[simp] theorem State.setMyCore_closures (s : State) (c : Core) : (s.setMyCore c).closures = s.closures := rfl
@[simp] theorem State.setMyCore_chReplies (s : State) (c : Core) : (s.setMyCore c).chReplies = s.chReplies := rfl
@[simp] theorem State.setMyCore_probes (s : State) (c : Core) : (s.setMyCore c).probes = s.probes := rfl
@[simp] theorem State.setMyCore_barriers (s : State) (c : Core) : (s.setMyCore c).barriers = s.barriers := rfl
@[simp] theorem State.setMyCore_arrivals (s : State) (c : Core) : (s.setMyCore c).arrivals = s.arrivals := rfl
@[simp] theorem State.setMyCore_bedMoves (s : State) (c : Core) : (s.setMyCore c).bedMoves = s.bedMoves := rfl
@[simp] theorem State.setMyCore_guards (s : State) (c : Core) : (s.setMyCore c).guards = s.guards := rfl
@[simp] theorem State.setMyCore_outbox (s : State) (c : Core) : (s.setMyCore c).outbox = s.outbox := rfl
@[simp] theorem State.setMyCore_acks (s : State) (c : Core) : (s.setMyCore c).acks = s.acks := rfl
@[simp] theorem State.setMyCore_windows (s : State) (c : Core) : (s.setMyCore c).windows = s.windows := rfl
@[simp] theorem State.setMyCore_allocs (s : State) (c : Core) : (s.setMyCore c).allocs = s.allocs := rfl
@[simp] theorem State.setMyCore_queues (s : State) (c : Core) : (s.setMyCore c).queues = s.queues := rfl
@[simp] theorem State.setMyCore_easels (s : State) (c : Core) : (s.setMyCore c).easels = s.easels := rfl
@[simp] theorem State.setMyCore_winners (s : State) (c : Core) : (s.setMyCore c).winners = s.winners := rfl
@[simp] theorem State.setMyCore_peers (s : State) (c : Core) : (s.setMyCore c).peers = s.peers := rfl
@[simp] theorem State.setMyCore_flash (s : State) (c : Core) : (s.setMyCore c).flash = s.flash := rfl
@[simp] theorem State.setMyCore_running (s : State) (c : Core) : (s.setMyCore c).running = s.running := rfl
@[simp] theorem State.setMyCore_identity (s : State) (c : Core) : (s.setMyCore c).identity = s.identity := rfl
@[simp] theorem State.setMyCore_derated (s : State) (c : Core) : (s.setMyCore c).derated = s.derated := rfl
@[simp] theorem State.setMyCore_hot (s : State) (c : Core) : (s.setMyCore c).hot = s.hot := rfl

/-! ### put -/
@[simp] theorem State.put_cur (s : State) (n : RegNo) (v : Word) : (s.put n v).cur = s.cur := rfl
@[simp] theorem State.put_agenda (s : State) (n : RegNo) (v : Word) : (s.put n v).agenda = s.agenda := rfl
@[simp] theorem State.put_turn (s : State) (n : RegNo) (v : Word) : (s.put n v).turn = s.turn := rfl
@[simp] theorem State.put_serial (s : State) (n : RegNo) (v : Word) : (s.put n v).serial = s.serial := rfl
@[simp] theorem State.put_freeCtr (s : State) (n : RegNo) (v : Word) : (s.put n v).freeCtr = s.freeCtr := rfl
@[simp] theorem State.put_clock (s : State) (n : RegNo) (v : Word) : (s.put n v).clock = s.clock := rfl
@[simp] theorem State.put_powered (s : State) (n : RegNo) (v : Word) : (s.put n v).powered = s.powered := rfl
@[simp] theorem State.put_booted (s : State) (n : RegNo) (v : Word) : (s.put n v).booted = s.booted := rfl
@[simp] theorem State.put_caps (s : State) (n : RegNo) (v : Word) : (s.put n v).caps = s.caps := rfl
@[simp] theorem State.put_ids (s : State) (n : RegNo) (v : Word) : (s.put n v).ids = s.ids := rfl
@[simp] theorem State.put_mem (s : State) (n : RegNo) (v : Word) : (s.put n v).mem = s.mem := rfl
@[simp] theorem State.put_stale (s : State) (n : RegNo) (v : Word) : (s.put n v).stale = s.stale := rfl
@[simp] theorem State.put_towers (s : State) (n : RegNo) (v : Word) : (s.put n v).towers = s.towers := rfl
@[simp] theorem State.put_remotes (s : State) (n : RegNo) (v : Word) : (s.put n v).remotes = s.remotes := rfl
@[simp] theorem State.put_atoms (s : State) (n : RegNo) (v : Word) : (s.put n v).atoms = s.atoms := rfl
@[simp] theorem State.put_feOps (s : State) (n : RegNo) (v : Word) : (s.put n v).feOps = s.feOps := rfl
@[simp] theorem State.put_lines (s : State) (n : RegNo) (v : Word) : (s.put n v).lines = s.lines := rfl
@[simp] theorem State.put_zeroed (s : State) (n : RegNo) (v : Word) : (s.put n v).zeroed = s.zeroed := rfl
@[simp] theorem State.put_msgs (s : State) (n : RegNo) (v : Word) : (s.put n v).msgs = s.msgs := rfl
@[simp] theorem State.put_linkSeq (s : State) (n : RegNo) (v : Word) : (s.put n v).linkSeq = s.linkSeq := rfl
@[simp] theorem State.put_escs (s : State) (n : RegNo) (v : Word) : (s.put n v).escs = s.escs := rfl
@[simp] theorem State.put_basins (s : State) (n : RegNo) (v : Word) : (s.put n v).basins = s.basins := rfl
@[simp] theorem State.put_afqhdr (s : State) (n : RegNo) (v : Word) : (s.put n v).afqhdr = s.afqhdr := rfl
@[simp] theorem State.put_afqlost (s : State) (n : RegNo) (v : Word) : (s.put n v).afqlost = s.afqlost := rfl
@[simp] theorem State.put_faultWait (s : State) (n : RegNo) (v : Word) : (s.put n v).faultWait = s.faultWait := rfl
@[simp] theorem State.put_saves (s : State) (n : RegNo) (v : Word) : (s.put n v).saves = s.saves := rfl
@[simp] theorem State.put_chans (s : State) (n : RegNo) (v : Word) : (s.put n v).chans = s.chans := rfl
@[simp] theorem State.put_slotReuse (s : State) (n : RegNo) (v : Word) : (s.put n v).slotReuse = s.slotReuse := rfl
@[simp] theorem State.put_closures (s : State) (n : RegNo) (v : Word) : (s.put n v).closures = s.closures := rfl
@[simp] theorem State.put_chReplies (s : State) (n : RegNo) (v : Word) : (s.put n v).chReplies = s.chReplies := rfl
@[simp] theorem State.put_probes (s : State) (n : RegNo) (v : Word) : (s.put n v).probes = s.probes := rfl
@[simp] theorem State.put_barriers (s : State) (n : RegNo) (v : Word) : (s.put n v).barriers = s.barriers := rfl
@[simp] theorem State.put_arrivals (s : State) (n : RegNo) (v : Word) : (s.put n v).arrivals = s.arrivals := rfl
@[simp] theorem State.put_bedMoves (s : State) (n : RegNo) (v : Word) : (s.put n v).bedMoves = s.bedMoves := rfl
@[simp] theorem State.put_guards (s : State) (n : RegNo) (v : Word) : (s.put n v).guards = s.guards := rfl
@[simp] theorem State.put_outbox (s : State) (n : RegNo) (v : Word) : (s.put n v).outbox = s.outbox := rfl
@[simp] theorem State.put_acks (s : State) (n : RegNo) (v : Word) : (s.put n v).acks = s.acks := rfl
@[simp] theorem State.put_windows (s : State) (n : RegNo) (v : Word) : (s.put n v).windows = s.windows := rfl
@[simp] theorem State.put_allocs (s : State) (n : RegNo) (v : Word) : (s.put n v).allocs = s.allocs := rfl
@[simp] theorem State.put_queues (s : State) (n : RegNo) (v : Word) : (s.put n v).queues = s.queues := rfl
@[simp] theorem State.put_easels (s : State) (n : RegNo) (v : Word) : (s.put n v).easels = s.easels := rfl
@[simp] theorem State.put_winners (s : State) (n : RegNo) (v : Word) : (s.put n v).winners = s.winners := rfl
@[simp] theorem State.put_peers (s : State) (n : RegNo) (v : Word) : (s.put n v).peers = s.peers := rfl
@[simp] theorem State.put_flash (s : State) (n : RegNo) (v : Word) : (s.put n v).flash = s.flash := rfl
@[simp] theorem State.put_running (s : State) (n : RegNo) (v : Word) : (s.put n v).running = s.running := rfl
@[simp] theorem State.put_identity (s : State) (n : RegNo) (v : Word) : (s.put n v).identity = s.identity := rfl
@[simp] theorem State.put_derated (s : State) (n : RegNo) (v : Word) : (s.put n v).derated = s.derated := rfl
@[simp] theorem State.put_hot (s : State) (n : RegNo) (v : Word) : (s.put n v).hot = s.hot := rfl

/-! ### putTagged -/
@[simp] theorem State.putTagged_cur (s : State) (n : RegNo) (v : Word) (t : Bool) : (s.putTagged n v t).cur = s.cur := rfl
@[simp] theorem State.putTagged_agenda (s : State) (n : RegNo) (v : Word) (t : Bool) : (s.putTagged n v t).agenda = s.agenda := rfl
@[simp] theorem State.putTagged_turn (s : State) (n : RegNo) (v : Word) (t : Bool) : (s.putTagged n v t).turn = s.turn := rfl
@[simp] theorem State.putTagged_serial (s : State) (n : RegNo) (v : Word) (t : Bool) : (s.putTagged n v t).serial = s.serial := rfl
@[simp] theorem State.putTagged_freeCtr (s : State) (n : RegNo) (v : Word) (t : Bool) : (s.putTagged n v t).freeCtr = s.freeCtr := rfl
@[simp] theorem State.putTagged_clock (s : State) (n : RegNo) (v : Word) (t : Bool) : (s.putTagged n v t).clock = s.clock := rfl
@[simp] theorem State.putTagged_powered (s : State) (n : RegNo) (v : Word) (t : Bool) : (s.putTagged n v t).powered = s.powered := rfl
@[simp] theorem State.putTagged_booted (s : State) (n : RegNo) (v : Word) (t : Bool) : (s.putTagged n v t).booted = s.booted := rfl
@[simp] theorem State.putTagged_caps (s : State) (n : RegNo) (v : Word) (t : Bool) : (s.putTagged n v t).caps = s.caps := rfl
@[simp] theorem State.putTagged_ids (s : State) (n : RegNo) (v : Word) (t : Bool) : (s.putTagged n v t).ids = s.ids := rfl
@[simp] theorem State.putTagged_mem (s : State) (n : RegNo) (v : Word) (t : Bool) : (s.putTagged n v t).mem = s.mem := rfl
@[simp] theorem State.putTagged_stale (s : State) (n : RegNo) (v : Word) (t : Bool) : (s.putTagged n v t).stale = s.stale := rfl
@[simp] theorem State.putTagged_towers (s : State) (n : RegNo) (v : Word) (t : Bool) : (s.putTagged n v t).towers = s.towers := rfl
@[simp] theorem State.putTagged_remotes (s : State) (n : RegNo) (v : Word) (t : Bool) : (s.putTagged n v t).remotes = s.remotes := rfl
@[simp] theorem State.putTagged_atoms (s : State) (n : RegNo) (v : Word) (t : Bool) : (s.putTagged n v t).atoms = s.atoms := rfl
@[simp] theorem State.putTagged_feOps (s : State) (n : RegNo) (v : Word) (t : Bool) : (s.putTagged n v t).feOps = s.feOps := rfl
@[simp] theorem State.putTagged_lines (s : State) (n : RegNo) (v : Word) (t : Bool) : (s.putTagged n v t).lines = s.lines := rfl
@[simp] theorem State.putTagged_zeroed (s : State) (n : RegNo) (v : Word) (t : Bool) : (s.putTagged n v t).zeroed = s.zeroed := rfl
@[simp] theorem State.putTagged_msgs (s : State) (n : RegNo) (v : Word) (t : Bool) : (s.putTagged n v t).msgs = s.msgs := rfl
@[simp] theorem State.putTagged_linkSeq (s : State) (n : RegNo) (v : Word) (t : Bool) : (s.putTagged n v t).linkSeq = s.linkSeq := rfl
@[simp] theorem State.putTagged_escs (s : State) (n : RegNo) (v : Word) (t : Bool) : (s.putTagged n v t).escs = s.escs := rfl
@[simp] theorem State.putTagged_basins (s : State) (n : RegNo) (v : Word) (t : Bool) : (s.putTagged n v t).basins = s.basins := rfl
@[simp] theorem State.putTagged_afqhdr (s : State) (n : RegNo) (v : Word) (t : Bool) : (s.putTagged n v t).afqhdr = s.afqhdr := rfl
@[simp] theorem State.putTagged_afqlost (s : State) (n : RegNo) (v : Word) (t : Bool) : (s.putTagged n v t).afqlost = s.afqlost := rfl
@[simp] theorem State.putTagged_faultWait (s : State) (n : RegNo) (v : Word) (t : Bool) : (s.putTagged n v t).faultWait = s.faultWait := rfl
@[simp] theorem State.putTagged_saves (s : State) (n : RegNo) (v : Word) (t : Bool) : (s.putTagged n v t).saves = s.saves := rfl
@[simp] theorem State.putTagged_chans (s : State) (n : RegNo) (v : Word) (t : Bool) : (s.putTagged n v t).chans = s.chans := rfl
@[simp] theorem State.putTagged_slotReuse (s : State) (n : RegNo) (v : Word) (t : Bool) : (s.putTagged n v t).slotReuse = s.slotReuse := rfl
@[simp] theorem State.putTagged_closures (s : State) (n : RegNo) (v : Word) (t : Bool) : (s.putTagged n v t).closures = s.closures := rfl
@[simp] theorem State.putTagged_chReplies (s : State) (n : RegNo) (v : Word) (t : Bool) : (s.putTagged n v t).chReplies = s.chReplies := rfl
@[simp] theorem State.putTagged_probes (s : State) (n : RegNo) (v : Word) (t : Bool) : (s.putTagged n v t).probes = s.probes := rfl
@[simp] theorem State.putTagged_barriers (s : State) (n : RegNo) (v : Word) (t : Bool) : (s.putTagged n v t).barriers = s.barriers := rfl
@[simp] theorem State.putTagged_arrivals (s : State) (n : RegNo) (v : Word) (t : Bool) : (s.putTagged n v t).arrivals = s.arrivals := rfl
@[simp] theorem State.putTagged_bedMoves (s : State) (n : RegNo) (v : Word) (t : Bool) : (s.putTagged n v t).bedMoves = s.bedMoves := rfl
@[simp] theorem State.putTagged_guards (s : State) (n : RegNo) (v : Word) (t : Bool) : (s.putTagged n v t).guards = s.guards := rfl
@[simp] theorem State.putTagged_outbox (s : State) (n : RegNo) (v : Word) (t : Bool) : (s.putTagged n v t).outbox = s.outbox := rfl
@[simp] theorem State.putTagged_acks (s : State) (n : RegNo) (v : Word) (t : Bool) : (s.putTagged n v t).acks = s.acks := rfl
@[simp] theorem State.putTagged_windows (s : State) (n : RegNo) (v : Word) (t : Bool) : (s.putTagged n v t).windows = s.windows := rfl
@[simp] theorem State.putTagged_allocs (s : State) (n : RegNo) (v : Word) (t : Bool) : (s.putTagged n v t).allocs = s.allocs := rfl
@[simp] theorem State.putTagged_queues (s : State) (n : RegNo) (v : Word) (t : Bool) : (s.putTagged n v t).queues = s.queues := rfl
@[simp] theorem State.putTagged_easels (s : State) (n : RegNo) (v : Word) (t : Bool) : (s.putTagged n v t).easels = s.easels := rfl
@[simp] theorem State.putTagged_winners (s : State) (n : RegNo) (v : Word) (t : Bool) : (s.putTagged n v t).winners = s.winners := rfl
@[simp] theorem State.putTagged_peers (s : State) (n : RegNo) (v : Word) (t : Bool) : (s.putTagged n v t).peers = s.peers := rfl
@[simp] theorem State.putTagged_flash (s : State) (n : RegNo) (v : Word) (t : Bool) : (s.putTagged n v t).flash = s.flash := rfl
@[simp] theorem State.putTagged_running (s : State) (n : RegNo) (v : Word) (t : Bool) : (s.putTagged n v t).running = s.running := rfl
@[simp] theorem State.putTagged_identity (s : State) (n : RegNo) (v : Word) (t : Bool) : (s.putTagged n v t).identity = s.identity := rfl
@[simp] theorem State.putTagged_derated (s : State) (n : RegNo) (v : Word) (t : Bool) : (s.putTagged n v t).derated = s.derated := rfl
@[simp] theorem State.putTagged_hot (s : State) (n : RegNo) (v : Word) (t : Bool) : (s.putTagged n v t).hot = s.hot := rfl

/-! ### putPending -/
@[simp] theorem State.putPending_cur (s : State) (n : RegNo) : (s.putPending n).cur = s.cur := rfl
@[simp] theorem State.putPending_agenda (s : State) (n : RegNo) : (s.putPending n).agenda = s.agenda := rfl
@[simp] theorem State.putPending_turn (s : State) (n : RegNo) : (s.putPending n).turn = s.turn := rfl
@[simp] theorem State.putPending_serial (s : State) (n : RegNo) : (s.putPending n).serial = s.serial := rfl
@[simp] theorem State.putPending_freeCtr (s : State) (n : RegNo) : (s.putPending n).freeCtr = s.freeCtr := rfl
@[simp] theorem State.putPending_clock (s : State) (n : RegNo) : (s.putPending n).clock = s.clock := rfl
@[simp] theorem State.putPending_powered (s : State) (n : RegNo) : (s.putPending n).powered = s.powered := rfl
@[simp] theorem State.putPending_booted (s : State) (n : RegNo) : (s.putPending n).booted = s.booted := rfl
@[simp] theorem State.putPending_caps (s : State) (n : RegNo) : (s.putPending n).caps = s.caps := rfl
@[simp] theorem State.putPending_ids (s : State) (n : RegNo) : (s.putPending n).ids = s.ids := rfl
@[simp] theorem State.putPending_mem (s : State) (n : RegNo) : (s.putPending n).mem = s.mem := rfl
@[simp] theorem State.putPending_stale (s : State) (n : RegNo) : (s.putPending n).stale = s.stale := rfl
@[simp] theorem State.putPending_towers (s : State) (n : RegNo) : (s.putPending n).towers = s.towers := rfl
@[simp] theorem State.putPending_remotes (s : State) (n : RegNo) : (s.putPending n).remotes = s.remotes := rfl
@[simp] theorem State.putPending_atoms (s : State) (n : RegNo) : (s.putPending n).atoms = s.atoms := rfl
@[simp] theorem State.putPending_feOps (s : State) (n : RegNo) : (s.putPending n).feOps = s.feOps := rfl
@[simp] theorem State.putPending_lines (s : State) (n : RegNo) : (s.putPending n).lines = s.lines := rfl
@[simp] theorem State.putPending_zeroed (s : State) (n : RegNo) : (s.putPending n).zeroed = s.zeroed := rfl
@[simp] theorem State.putPending_msgs (s : State) (n : RegNo) : (s.putPending n).msgs = s.msgs := rfl
@[simp] theorem State.putPending_linkSeq (s : State) (n : RegNo) : (s.putPending n).linkSeq = s.linkSeq := rfl
@[simp] theorem State.putPending_escs (s : State) (n : RegNo) : (s.putPending n).escs = s.escs := rfl
@[simp] theorem State.putPending_basins (s : State) (n : RegNo) : (s.putPending n).basins = s.basins := rfl
@[simp] theorem State.putPending_afqhdr (s : State) (n : RegNo) : (s.putPending n).afqhdr = s.afqhdr := rfl
@[simp] theorem State.putPending_afqlost (s : State) (n : RegNo) : (s.putPending n).afqlost = s.afqlost := rfl
@[simp] theorem State.putPending_faultWait (s : State) (n : RegNo) : (s.putPending n).faultWait = s.faultWait := rfl
@[simp] theorem State.putPending_saves (s : State) (n : RegNo) : (s.putPending n).saves = s.saves := rfl
@[simp] theorem State.putPending_chans (s : State) (n : RegNo) : (s.putPending n).chans = s.chans := rfl
@[simp] theorem State.putPending_slotReuse (s : State) (n : RegNo) : (s.putPending n).slotReuse = s.slotReuse := rfl
@[simp] theorem State.putPending_closures (s : State) (n : RegNo) : (s.putPending n).closures = s.closures := rfl
@[simp] theorem State.putPending_chReplies (s : State) (n : RegNo) : (s.putPending n).chReplies = s.chReplies := rfl
@[simp] theorem State.putPending_probes (s : State) (n : RegNo) : (s.putPending n).probes = s.probes := rfl
@[simp] theorem State.putPending_barriers (s : State) (n : RegNo) : (s.putPending n).barriers = s.barriers := rfl
@[simp] theorem State.putPending_arrivals (s : State) (n : RegNo) : (s.putPending n).arrivals = s.arrivals := rfl
@[simp] theorem State.putPending_bedMoves (s : State) (n : RegNo) : (s.putPending n).bedMoves = s.bedMoves := rfl
@[simp] theorem State.putPending_guards (s : State) (n : RegNo) : (s.putPending n).guards = s.guards := rfl
@[simp] theorem State.putPending_outbox (s : State) (n : RegNo) : (s.putPending n).outbox = s.outbox := rfl
@[simp] theorem State.putPending_acks (s : State) (n : RegNo) : (s.putPending n).acks = s.acks := rfl
@[simp] theorem State.putPending_windows (s : State) (n : RegNo) : (s.putPending n).windows = s.windows := rfl
@[simp] theorem State.putPending_allocs (s : State) (n : RegNo) : (s.putPending n).allocs = s.allocs := rfl
@[simp] theorem State.putPending_queues (s : State) (n : RegNo) : (s.putPending n).queues = s.queues := rfl
@[simp] theorem State.putPending_easels (s : State) (n : RegNo) : (s.putPending n).easels = s.easels := rfl
@[simp] theorem State.putPending_winners (s : State) (n : RegNo) : (s.putPending n).winners = s.winners := rfl
@[simp] theorem State.putPending_peers (s : State) (n : RegNo) : (s.putPending n).peers = s.peers := rfl
@[simp] theorem State.putPending_flash (s : State) (n : RegNo) : (s.putPending n).flash = s.flash := rfl
@[simp] theorem State.putPending_running (s : State) (n : RegNo) : (s.putPending n).running = s.running := rfl
@[simp] theorem State.putPending_identity (s : State) (n : RegNo) : (s.putPending n).identity = s.identity := rfl
@[simp] theorem State.putPending_derated (s : State) (n : RegNo) : (s.putPending n).derated = s.derated := rfl
@[simp] theorem State.putPending_hot (s : State) (n : RegNo) : (s.putPending n).hot = s.hot := rfl

/-! ### goto -/
@[simp] theorem State.goto_cur (s : State) (pc : Word) : (s.goto pc).cur = s.cur := rfl
@[simp] theorem State.goto_agenda (s : State) (pc : Word) : (s.goto pc).agenda = s.agenda := rfl
@[simp] theorem State.goto_turn (s : State) (pc : Word) : (s.goto pc).turn = s.turn := rfl
@[simp] theorem State.goto_serial (s : State) (pc : Word) : (s.goto pc).serial = s.serial := rfl
@[simp] theorem State.goto_freeCtr (s : State) (pc : Word) : (s.goto pc).freeCtr = s.freeCtr := rfl
@[simp] theorem State.goto_clock (s : State) (pc : Word) : (s.goto pc).clock = s.clock := rfl
@[simp] theorem State.goto_powered (s : State) (pc : Word) : (s.goto pc).powered = s.powered := rfl
@[simp] theorem State.goto_booted (s : State) (pc : Word) : (s.goto pc).booted = s.booted := rfl
@[simp] theorem State.goto_caps (s : State) (pc : Word) : (s.goto pc).caps = s.caps := rfl
@[simp] theorem State.goto_ids (s : State) (pc : Word) : (s.goto pc).ids = s.ids := rfl
@[simp] theorem State.goto_mem (s : State) (pc : Word) : (s.goto pc).mem = s.mem := rfl
@[simp] theorem State.goto_stale (s : State) (pc : Word) : (s.goto pc).stale = s.stale := rfl
@[simp] theorem State.goto_towers (s : State) (pc : Word) : (s.goto pc).towers = s.towers := rfl
@[simp] theorem State.goto_remotes (s : State) (pc : Word) : (s.goto pc).remotes = s.remotes := rfl
@[simp] theorem State.goto_atoms (s : State) (pc : Word) : (s.goto pc).atoms = s.atoms := rfl
@[simp] theorem State.goto_feOps (s : State) (pc : Word) : (s.goto pc).feOps = s.feOps := rfl
@[simp] theorem State.goto_lines (s : State) (pc : Word) : (s.goto pc).lines = s.lines := rfl
@[simp] theorem State.goto_zeroed (s : State) (pc : Word) : (s.goto pc).zeroed = s.zeroed := rfl
@[simp] theorem State.goto_msgs (s : State) (pc : Word) : (s.goto pc).msgs = s.msgs := rfl
@[simp] theorem State.goto_linkSeq (s : State) (pc : Word) : (s.goto pc).linkSeq = s.linkSeq := rfl
@[simp] theorem State.goto_escs (s : State) (pc : Word) : (s.goto pc).escs = s.escs := rfl
@[simp] theorem State.goto_basins (s : State) (pc : Word) : (s.goto pc).basins = s.basins := rfl
@[simp] theorem State.goto_afqhdr (s : State) (pc : Word) : (s.goto pc).afqhdr = s.afqhdr := rfl
@[simp] theorem State.goto_afqlost (s : State) (pc : Word) : (s.goto pc).afqlost = s.afqlost := rfl
@[simp] theorem State.goto_faultWait (s : State) (pc : Word) : (s.goto pc).faultWait = s.faultWait := rfl
@[simp] theorem State.goto_saves (s : State) (pc : Word) : (s.goto pc).saves = s.saves := rfl
@[simp] theorem State.goto_chans (s : State) (pc : Word) : (s.goto pc).chans = s.chans := rfl
@[simp] theorem State.goto_slotReuse (s : State) (pc : Word) : (s.goto pc).slotReuse = s.slotReuse := rfl
@[simp] theorem State.goto_closures (s : State) (pc : Word) : (s.goto pc).closures = s.closures := rfl
@[simp] theorem State.goto_chReplies (s : State) (pc : Word) : (s.goto pc).chReplies = s.chReplies := rfl
@[simp] theorem State.goto_probes (s : State) (pc : Word) : (s.goto pc).probes = s.probes := rfl
@[simp] theorem State.goto_barriers (s : State) (pc : Word) : (s.goto pc).barriers = s.barriers := rfl
@[simp] theorem State.goto_arrivals (s : State) (pc : Word) : (s.goto pc).arrivals = s.arrivals := rfl
@[simp] theorem State.goto_bedMoves (s : State) (pc : Word) : (s.goto pc).bedMoves = s.bedMoves := rfl
@[simp] theorem State.goto_guards (s : State) (pc : Word) : (s.goto pc).guards = s.guards := rfl
@[simp] theorem State.goto_outbox (s : State) (pc : Word) : (s.goto pc).outbox = s.outbox := rfl
@[simp] theorem State.goto_acks (s : State) (pc : Word) : (s.goto pc).acks = s.acks := rfl
@[simp] theorem State.goto_windows (s : State) (pc : Word) : (s.goto pc).windows = s.windows := rfl
@[simp] theorem State.goto_allocs (s : State) (pc : Word) : (s.goto pc).allocs = s.allocs := rfl
@[simp] theorem State.goto_queues (s : State) (pc : Word) : (s.goto pc).queues = s.queues := rfl
@[simp] theorem State.goto_easels (s : State) (pc : Word) : (s.goto pc).easels = s.easels := rfl
@[simp] theorem State.goto_winners (s : State) (pc : Word) : (s.goto pc).winners = s.winners := rfl
@[simp] theorem State.goto_peers (s : State) (pc : Word) : (s.goto pc).peers = s.peers := rfl
@[simp] theorem State.goto_flash (s : State) (pc : Word) : (s.goto pc).flash = s.flash := rfl
@[simp] theorem State.goto_running (s : State) (pc : Word) : (s.goto pc).running = s.running := rfl
@[simp] theorem State.goto_identity (s : State) (pc : Word) : (s.goto pc).identity = s.identity := rfl
@[simp] theorem State.goto_derated (s : State) (pc : Word) : (s.goto pc).derated = s.derated := rfl
@[simp] theorem State.goto_hot (s : State) (pc : Word) : (s.goto pc).hot = s.hot := rfl

/-! ### next4 -/
@[simp] theorem State.next4_cur (s : State) : (s.next4).cur = s.cur := rfl
@[simp] theorem State.next4_agenda (s : State) : (s.next4).agenda = s.agenda := rfl
@[simp] theorem State.next4_turn (s : State) : (s.next4).turn = s.turn := rfl
@[simp] theorem State.next4_serial (s : State) : (s.next4).serial = s.serial := rfl
@[simp] theorem State.next4_freeCtr (s : State) : (s.next4).freeCtr = s.freeCtr := rfl
@[simp] theorem State.next4_clock (s : State) : (s.next4).clock = s.clock := rfl
@[simp] theorem State.next4_powered (s : State) : (s.next4).powered = s.powered := rfl
@[simp] theorem State.next4_booted (s : State) : (s.next4).booted = s.booted := rfl
@[simp] theorem State.next4_caps (s : State) : (s.next4).caps = s.caps := rfl
@[simp] theorem State.next4_ids (s : State) : (s.next4).ids = s.ids := rfl
@[simp] theorem State.next4_mem (s : State) : (s.next4).mem = s.mem := rfl
@[simp] theorem State.next4_stale (s : State) : (s.next4).stale = s.stale := rfl
@[simp] theorem State.next4_towers (s : State) : (s.next4).towers = s.towers := rfl
@[simp] theorem State.next4_remotes (s : State) : (s.next4).remotes = s.remotes := rfl
@[simp] theorem State.next4_atoms (s : State) : (s.next4).atoms = s.atoms := rfl
@[simp] theorem State.next4_feOps (s : State) : (s.next4).feOps = s.feOps := rfl
@[simp] theorem State.next4_lines (s : State) : (s.next4).lines = s.lines := rfl
@[simp] theorem State.next4_zeroed (s : State) : (s.next4).zeroed = s.zeroed := rfl
@[simp] theorem State.next4_msgs (s : State) : (s.next4).msgs = s.msgs := rfl
@[simp] theorem State.next4_linkSeq (s : State) : (s.next4).linkSeq = s.linkSeq := rfl
@[simp] theorem State.next4_escs (s : State) : (s.next4).escs = s.escs := rfl
@[simp] theorem State.next4_basins (s : State) : (s.next4).basins = s.basins := rfl
@[simp] theorem State.next4_afqhdr (s : State) : (s.next4).afqhdr = s.afqhdr := rfl
@[simp] theorem State.next4_afqlost (s : State) : (s.next4).afqlost = s.afqlost := rfl
@[simp] theorem State.next4_faultWait (s : State) : (s.next4).faultWait = s.faultWait := rfl
@[simp] theorem State.next4_saves (s : State) : (s.next4).saves = s.saves := rfl
@[simp] theorem State.next4_chans (s : State) : (s.next4).chans = s.chans := rfl
@[simp] theorem State.next4_slotReuse (s : State) : (s.next4).slotReuse = s.slotReuse := rfl
@[simp] theorem State.next4_closures (s : State) : (s.next4).closures = s.closures := rfl
@[simp] theorem State.next4_chReplies (s : State) : (s.next4).chReplies = s.chReplies := rfl
@[simp] theorem State.next4_probes (s : State) : (s.next4).probes = s.probes := rfl
@[simp] theorem State.next4_barriers (s : State) : (s.next4).barriers = s.barriers := rfl
@[simp] theorem State.next4_arrivals (s : State) : (s.next4).arrivals = s.arrivals := rfl
@[simp] theorem State.next4_bedMoves (s : State) : (s.next4).bedMoves = s.bedMoves := rfl
@[simp] theorem State.next4_guards (s : State) : (s.next4).guards = s.guards := rfl
@[simp] theorem State.next4_outbox (s : State) : (s.next4).outbox = s.outbox := rfl
@[simp] theorem State.next4_acks (s : State) : (s.next4).acks = s.acks := rfl
@[simp] theorem State.next4_windows (s : State) : (s.next4).windows = s.windows := rfl
@[simp] theorem State.next4_allocs (s : State) : (s.next4).allocs = s.allocs := rfl
@[simp] theorem State.next4_queues (s : State) : (s.next4).queues = s.queues := rfl
@[simp] theorem State.next4_easels (s : State) : (s.next4).easels = s.easels := rfl
@[simp] theorem State.next4_winners (s : State) : (s.next4).winners = s.winners := rfl
@[simp] theorem State.next4_peers (s : State) : (s.next4).peers = s.peers := rfl
@[simp] theorem State.next4_flash (s : State) : (s.next4).flash = s.flash := rfl
@[simp] theorem State.next4_running (s : State) : (s.next4).running = s.running := rfl
@[simp] theorem State.next4_identity (s : State) : (s.next4).identity = s.identity := rfl
@[simp] theorem State.next4_derated (s : State) : (s.next4).derated = s.derated := rfl
@[simp] theorem State.next4_hot (s : State) : (s.next4).hot = s.hot := rfl

/-! ### parkMe -/
@[simp] theorem State.parkMe_cur (s : State) (p : Park) : (s.parkMe p).cur = s.cur := rfl
@[simp] theorem State.parkMe_agenda (s : State) (p : Park) : (s.parkMe p).agenda = s.agenda := rfl
@[simp] theorem State.parkMe_turn (s : State) (p : Park) : (s.parkMe p).turn = s.turn := rfl
@[simp] theorem State.parkMe_serial (s : State) (p : Park) : (s.parkMe p).serial = s.serial := rfl
@[simp] theorem State.parkMe_freeCtr (s : State) (p : Park) : (s.parkMe p).freeCtr = s.freeCtr := rfl
@[simp] theorem State.parkMe_clock (s : State) (p : Park) : (s.parkMe p).clock = s.clock := rfl
@[simp] theorem State.parkMe_powered (s : State) (p : Park) : (s.parkMe p).powered = s.powered := rfl
@[simp] theorem State.parkMe_booted (s : State) (p : Park) : (s.parkMe p).booted = s.booted := rfl
@[simp] theorem State.parkMe_caps (s : State) (p : Park) : (s.parkMe p).caps = s.caps := rfl
@[simp] theorem State.parkMe_ids (s : State) (p : Park) : (s.parkMe p).ids = s.ids := rfl
@[simp] theorem State.parkMe_mem (s : State) (p : Park) : (s.parkMe p).mem = s.mem := rfl
@[simp] theorem State.parkMe_stale (s : State) (p : Park) : (s.parkMe p).stale = s.stale := rfl
@[simp] theorem State.parkMe_towers (s : State) (p : Park) : (s.parkMe p).towers = s.towers := rfl
@[simp] theorem State.parkMe_remotes (s : State) (p : Park) : (s.parkMe p).remotes = s.remotes := rfl
@[simp] theorem State.parkMe_atoms (s : State) (p : Park) : (s.parkMe p).atoms = s.atoms := rfl
@[simp] theorem State.parkMe_feOps (s : State) (p : Park) : (s.parkMe p).feOps = s.feOps := rfl
@[simp] theorem State.parkMe_lines (s : State) (p : Park) : (s.parkMe p).lines = s.lines := rfl
@[simp] theorem State.parkMe_zeroed (s : State) (p : Park) : (s.parkMe p).zeroed = s.zeroed := rfl
@[simp] theorem State.parkMe_msgs (s : State) (p : Park) : (s.parkMe p).msgs = s.msgs := rfl
@[simp] theorem State.parkMe_linkSeq (s : State) (p : Park) : (s.parkMe p).linkSeq = s.linkSeq := rfl
@[simp] theorem State.parkMe_escs (s : State) (p : Park) : (s.parkMe p).escs = s.escs := rfl
@[simp] theorem State.parkMe_basins (s : State) (p : Park) : (s.parkMe p).basins = s.basins := rfl
@[simp] theorem State.parkMe_afqhdr (s : State) (p : Park) : (s.parkMe p).afqhdr = s.afqhdr := rfl
@[simp] theorem State.parkMe_afqlost (s : State) (p : Park) : (s.parkMe p).afqlost = s.afqlost := rfl
@[simp] theorem State.parkMe_faultWait (s : State) (p : Park) : (s.parkMe p).faultWait = s.faultWait := rfl
@[simp] theorem State.parkMe_saves (s : State) (p : Park) : (s.parkMe p).saves = s.saves := rfl
@[simp] theorem State.parkMe_chans (s : State) (p : Park) : (s.parkMe p).chans = s.chans := rfl
@[simp] theorem State.parkMe_slotReuse (s : State) (p : Park) : (s.parkMe p).slotReuse = s.slotReuse := rfl
@[simp] theorem State.parkMe_closures (s : State) (p : Park) : (s.parkMe p).closures = s.closures := rfl
@[simp] theorem State.parkMe_chReplies (s : State) (p : Park) : (s.parkMe p).chReplies = s.chReplies := rfl
@[simp] theorem State.parkMe_probes (s : State) (p : Park) : (s.parkMe p).probes = s.probes := rfl
@[simp] theorem State.parkMe_barriers (s : State) (p : Park) : (s.parkMe p).barriers = s.barriers := rfl
@[simp] theorem State.parkMe_arrivals (s : State) (p : Park) : (s.parkMe p).arrivals = s.arrivals := rfl
@[simp] theorem State.parkMe_bedMoves (s : State) (p : Park) : (s.parkMe p).bedMoves = s.bedMoves := rfl
@[simp] theorem State.parkMe_guards (s : State) (p : Park) : (s.parkMe p).guards = s.guards := rfl
@[simp] theorem State.parkMe_outbox (s : State) (p : Park) : (s.parkMe p).outbox = s.outbox := rfl
@[simp] theorem State.parkMe_acks (s : State) (p : Park) : (s.parkMe p).acks = s.acks := rfl
@[simp] theorem State.parkMe_windows (s : State) (p : Park) : (s.parkMe p).windows = s.windows := rfl
@[simp] theorem State.parkMe_allocs (s : State) (p : Park) : (s.parkMe p).allocs = s.allocs := rfl
@[simp] theorem State.parkMe_queues (s : State) (p : Park) : (s.parkMe p).queues = s.queues := rfl
@[simp] theorem State.parkMe_easels (s : State) (p : Park) : (s.parkMe p).easels = s.easels := rfl
@[simp] theorem State.parkMe_winners (s : State) (p : Park) : (s.parkMe p).winners = s.winners := rfl
@[simp] theorem State.parkMe_peers (s : State) (p : Park) : (s.parkMe p).peers = s.peers := rfl
@[simp] theorem State.parkMe_flash (s : State) (p : Park) : (s.parkMe p).flash = s.flash := rfl
@[simp] theorem State.parkMe_running (s : State) (p : Park) : (s.parkMe p).running = s.running := rfl
@[simp] theorem State.parkMe_identity (s : State) (p : Park) : (s.parkMe p).identity = s.identity := rfl
@[simp] theorem State.parkMe_derated (s : State) (p : Park) : (s.parkMe p).derated = s.derated := rfl
@[simp] theorem State.parkMe_hot (s : State) (p : Park) : (s.parkMe p).hot = s.hot := rfl

/-! ### orFlags -/
@[simp] theorem State.orFlags_cur (s : State) (f : FFlags) : (s.orFlags f).cur = s.cur := rfl
@[simp] theorem State.orFlags_agenda (s : State) (f : FFlags) : (s.orFlags f).agenda = s.agenda := rfl
@[simp] theorem State.orFlags_turn (s : State) (f : FFlags) : (s.orFlags f).turn = s.turn := rfl
@[simp] theorem State.orFlags_serial (s : State) (f : FFlags) : (s.orFlags f).serial = s.serial := rfl
@[simp] theorem State.orFlags_freeCtr (s : State) (f : FFlags) : (s.orFlags f).freeCtr = s.freeCtr := rfl
@[simp] theorem State.orFlags_clock (s : State) (f : FFlags) : (s.orFlags f).clock = s.clock := rfl
@[simp] theorem State.orFlags_powered (s : State) (f : FFlags) : (s.orFlags f).powered = s.powered := rfl
@[simp] theorem State.orFlags_booted (s : State) (f : FFlags) : (s.orFlags f).booted = s.booted := rfl
@[simp] theorem State.orFlags_caps (s : State) (f : FFlags) : (s.orFlags f).caps = s.caps := rfl
@[simp] theorem State.orFlags_ids (s : State) (f : FFlags) : (s.orFlags f).ids = s.ids := rfl
@[simp] theorem State.orFlags_mem (s : State) (f : FFlags) : (s.orFlags f).mem = s.mem := rfl
@[simp] theorem State.orFlags_stale (s : State) (f : FFlags) : (s.orFlags f).stale = s.stale := rfl
@[simp] theorem State.orFlags_towers (s : State) (f : FFlags) : (s.orFlags f).towers = s.towers := rfl
@[simp] theorem State.orFlags_remotes (s : State) (f : FFlags) : (s.orFlags f).remotes = s.remotes := rfl
@[simp] theorem State.orFlags_atoms (s : State) (f : FFlags) : (s.orFlags f).atoms = s.atoms := rfl
@[simp] theorem State.orFlags_feOps (s : State) (f : FFlags) : (s.orFlags f).feOps = s.feOps := rfl
@[simp] theorem State.orFlags_lines (s : State) (f : FFlags) : (s.orFlags f).lines = s.lines := rfl
@[simp] theorem State.orFlags_zeroed (s : State) (f : FFlags) : (s.orFlags f).zeroed = s.zeroed := rfl
@[simp] theorem State.orFlags_msgs (s : State) (f : FFlags) : (s.orFlags f).msgs = s.msgs := rfl
@[simp] theorem State.orFlags_linkSeq (s : State) (f : FFlags) : (s.orFlags f).linkSeq = s.linkSeq := rfl
@[simp] theorem State.orFlags_escs (s : State) (f : FFlags) : (s.orFlags f).escs = s.escs := rfl
@[simp] theorem State.orFlags_basins (s : State) (f : FFlags) : (s.orFlags f).basins = s.basins := rfl
@[simp] theorem State.orFlags_afqhdr (s : State) (f : FFlags) : (s.orFlags f).afqhdr = s.afqhdr := rfl
@[simp] theorem State.orFlags_afqlost (s : State) (f : FFlags) : (s.orFlags f).afqlost = s.afqlost := rfl
@[simp] theorem State.orFlags_faultWait (s : State) (f : FFlags) : (s.orFlags f).faultWait = s.faultWait := rfl
@[simp] theorem State.orFlags_saves (s : State) (f : FFlags) : (s.orFlags f).saves = s.saves := rfl
@[simp] theorem State.orFlags_chans (s : State) (f : FFlags) : (s.orFlags f).chans = s.chans := rfl
@[simp] theorem State.orFlags_slotReuse (s : State) (f : FFlags) : (s.orFlags f).slotReuse = s.slotReuse := rfl
@[simp] theorem State.orFlags_closures (s : State) (f : FFlags) : (s.orFlags f).closures = s.closures := rfl
@[simp] theorem State.orFlags_chReplies (s : State) (f : FFlags) : (s.orFlags f).chReplies = s.chReplies := rfl
@[simp] theorem State.orFlags_probes (s : State) (f : FFlags) : (s.orFlags f).probes = s.probes := rfl
@[simp] theorem State.orFlags_barriers (s : State) (f : FFlags) : (s.orFlags f).barriers = s.barriers := rfl
@[simp] theorem State.orFlags_arrivals (s : State) (f : FFlags) : (s.orFlags f).arrivals = s.arrivals := rfl
@[simp] theorem State.orFlags_bedMoves (s : State) (f : FFlags) : (s.orFlags f).bedMoves = s.bedMoves := rfl
@[simp] theorem State.orFlags_guards (s : State) (f : FFlags) : (s.orFlags f).guards = s.guards := rfl
@[simp] theorem State.orFlags_outbox (s : State) (f : FFlags) : (s.orFlags f).outbox = s.outbox := rfl
@[simp] theorem State.orFlags_acks (s : State) (f : FFlags) : (s.orFlags f).acks = s.acks := rfl
@[simp] theorem State.orFlags_windows (s : State) (f : FFlags) : (s.orFlags f).windows = s.windows := rfl
@[simp] theorem State.orFlags_allocs (s : State) (f : FFlags) : (s.orFlags f).allocs = s.allocs := rfl
@[simp] theorem State.orFlags_queues (s : State) (f : FFlags) : (s.orFlags f).queues = s.queues := rfl
@[simp] theorem State.orFlags_easels (s : State) (f : FFlags) : (s.orFlags f).easels = s.easels := rfl
@[simp] theorem State.orFlags_winners (s : State) (f : FFlags) : (s.orFlags f).winners = s.winners := rfl
@[simp] theorem State.orFlags_peers (s : State) (f : FFlags) : (s.orFlags f).peers = s.peers := rfl
@[simp] theorem State.orFlags_flash (s : State) (f : FFlags) : (s.orFlags f).flash = s.flash := rfl
@[simp] theorem State.orFlags_running (s : State) (f : FFlags) : (s.orFlags f).running = s.running := rfl
@[simp] theorem State.orFlags_identity (s : State) (f : FFlags) : (s.orFlags f).identity = s.identity := rfl
@[simp] theorem State.orFlags_derated (s : State) (f : FFlags) : (s.orFlags f).derated = s.derated := rfl
@[simp] theorem State.orFlags_hot (s : State) (f : FFlags) : (s.orFlags f).hot = s.hot := rfl
@[simp] theorem State.at_cur (s : State) (q : Nat × Nat) : (s.at q).cur = q := rfl
@[simp] theorem State.bump_serial (s : State) : s.bump.serial = s.serial + 1 := rfl

/-! ### Cores, towers, lines, guards -/

@[simp] theorem State.core_setCore (s : State) (g : Nat) (c : Core) : (s.setCore g c).core g = c := fget_fset_same ..
theorem State.core_setCore_ne (s : State) (g h : Nat) (c : Core) (hn : h ≠ g) : (s.setCore g c).core h = s.core h :=
  fget_fset_ne _ _ _ _ _ hn
@[simp] theorem State.tower_setTower (s : State) (t : Nat) (w : Tower) : (s.setTower t w).tower t = w := fget_fset_same ..
theorem State.tower_setTower_ne (s : State) (t u : Nat) (w : Tower) (h : u ≠ t) : (s.setTower t w).tower u = s.tower u :=
  fget_fset_ne _ _ _ _ _ h
@[simp] theorem State.line_setLine (s : State) (l : Nat) (x : LineTok) : (s.setLine l x).line l = x := fget_fset_same ..
theorem State.line_setLine_ne (s : State) (l m : Nat) (x : LineTok) (h : m ≠ l) : (s.setLine l x).line m = s.line m :=
  fget_fset_ne _ _ _ _ _ h
@[simp] theorem State.guard_setGuard (s : State) (t : Nat) (x : Guard) : (s.setGuard t x).guard t = x := fget_fset_same ..
theorem State.guard_setGuard_ne (s : State) (t u : Nat) (x : Guard) (h : u ≠ t) : (s.setGuard t x).guard u = s.guard u :=
  fget_fset_ne _ _ _ _ _ h
@[simp] theorem State.core_setTower (s : State) (t g : Nat) (w : Tower) : (s.setTower t w).core g = s.core g := rfl
@[simp] theorem State.core_setLine (s : State) (l g : Nat) (x : LineTok) : (s.setLine l x).core g = s.core g := rfl
@[simp] theorem State.core_setGuard (s : State) (t g : Nat) (x : Guard) : (s.setGuard t x).core g = s.core g := rfl
@[simp] theorem State.core_at (s : State) (q : Nat × Nat) (g : Nat) : (s.at q).core g = s.core g := rfl
@[simp] theorem State.core_bump (s : State) (g : Nat) : s.bump.core g = s.core g := rfl
@[simp] theorem State.tower_setCore (s : State) (t g : Nat) (c : Core) : (s.setCore g c).tower t = s.tower t := rfl

/-! ### Contexts -/

@[simp] theorem Core.ctx_setCtx (c : Core) (k : Nat) (x : Ctx) : (c.setCtx k x).ctx k = x := by
  simp [Core.ctx, Core.setCtx]
theorem Core.ctx_setCtx_ne (c : Core) (k j : Nat) (x : Ctx) (h : j ≠ k) : (c.setCtx k x).ctx j = c.ctx j := by
  simp [Core.ctx, Core.setCtx, h]
@[simp] theorem Core.setCtx_wide (c : Core) (k : Nat) (x : Ctx) : (c.setCtx k x).wide = c.wide := rfl
@[simp] theorem Core.setCtx_lastIssue (c : Core) (k : Nat) (x : Ctx) : (c.setCtx k x).lastIssue = c.lastIssue := rfl
@[simp] theorem Core.setCtx_recent (c : Core) (k : Nat) (x : Ctx) : (c.setCtx k x).recent = c.recent := rfl
@[simp] theorem Core.setCtx_units (c : Core) (k : Nat) (x : Ctx) : (c.setCtx k x).units = c.units := rfl
@[simp] theorem Core.setCtx_tvec (c : Core) (k : Nat) (x : Ctx) : (c.setCtx k x).tvec = c.tvec := rfl
@[simp] theorem Core.setCtx_savebase (c : Core) (k : Nat) (x : Ctx) : (c.setCtx k x).savebase = c.savebase := rfl
@[simp] theorem Core.setCtx_savesize (c : Core) (k : Nat) (x : Ctx) : (c.setCtx k x).savesize = c.savesize := rfl
@[simp] theorem Core.setCtx_probeint (c : Core) (k : Nat) (x : Ctx) : (c.setCtx k x).probeint = c.probeint := rfl
@[simp] theorem Core.setCtx_tenant (c : Core) (k : Nat) (x : Ctx) : (c.setCtx k x).tenant = c.tenant := rfl
@[simp] theorem Core.setCtx_ptbase (c : Core) (k : Nat) (x : Ctx) : (c.setCtx k x).ptbase = c.ptbase := rfl
@[simp] theorem Core.setCtx_spEmpty (c : Core) (k : Nat) (x : Ctx) : (c.setCtx k x).spEmpty = c.spEmpty := rfl
@[simp] theorem Core.setCtx_spTag (c : Core) (k : Nat) (x : Ctx) : (c.setCtx k x).spTag = c.spTag := rfl
@[simp] theorem Core.setCtx_spRel (c : Core) (k : Nat) (x : Ctx) : (c.setCtx k x).spRel = c.spRel := rfl
@[simp] theorem Core.setCtx_takers (c : Core) (k : Nat) (x : Ctx) : (c.setCtx k x).takers = c.takers := rfl
@[simp] theorem Core.setCtx_wbuf (c : Core) (k : Nat) (x : Ctx) : (c.setCtx k x).wbuf = c.wbuf := rfl
@[simp] theorem Core.setCtx_l1 (c : Core) (k : Nat) (x : Ctx) : (c.setCtx k x).l1 = c.l1 := rfl
@[simp] theorem Core.setCtx_tlb (c : Core) (k : Nat) (x : Ctx) : (c.setCtx k x).tlb = c.tlb := rfl
@[simp] theorem Core.setCtx_prefetch (c : Core) (k : Nat) (x : Ctx) : (c.setCtx k x).prefetch = c.prefetch := rfl
@[simp] theorem Core.setCtx_vjobs (c : Core) (k : Nat) (x : Ctx) : (c.setCtx k x).vjobs = c.vjobs := rfl
@[simp] theorem Core.setCtx_frames (c : Core) (k : Nat) (x : Ctx) : (c.setCtx k x).frames = c.frames := rfl
@[simp] theorem Core.setCtx_rings (c : Core) (k : Nat) (x : Ctx) : (c.setCtx k x).rings = c.rings := rfl
@[simp] theorem Core.setCtx_resv (c : Core) (k : Nat) (x : Ctx) : (c.setCtx k x).resv = c.resv := rfl
@[simp] theorem Core.setCtx_tile (c : Core) (k : Nat) (x : Ctx) : (c.setCtx k x).tile = c.tile := rfl
@[simp] theorem Core.setCtx_copies (c : Core) (k : Nat) (x : Ctx) : (c.setCtx k x).copies = c.copies := rfl
@[simp] theorem Core.setCtx_ticket (c : Core) (k : Nat) (x : Ctx) : (c.setCtx k x).ticket = c.ticket := rfl
@[simp] theorem Core.setCtx_deque (c : Core) (k : Nat) (x : Ctx) : (c.setCtx k x).deque = c.deque := rfl
@[simp] theorem Core.setCtx_stolen (c : Core) (k : Nat) (x : Ctx) : (c.setCtx k x).stolen = c.stolen := rfl
@[simp] theorem Core.setCtx_asleep (c : Core) (k : Nat) (x : Ctx) : (c.setCtx k x).asleep = c.asleep := rfl
@[simp] theorem Core.setCtx_steal (c : Core) (k : Nat) (x : Ctx) : (c.setCtx k x).steal = c.steal := rfl
@[simp] theorem Core.setCtx_stealTurn (c : Core) (k : Nat) (x : Ctx) : (c.setCtx k x).stealTurn = c.stealTurn := rfl
@[simp] theorem State.ctx_setCtx (s : State) (g k : Nat) (x : Ctx) : (s.setCtx g k x).ctx g k = x := by
  simp [State.ctx, State.setCtx]
theorem State.ctx_setCtx_ne (s : State) (g k h j : Nat) (x : Ctx) (hn : (h, j) ≠ (g, k)) :
    (s.setCtx g k x).ctx h j = s.ctx h j := by
  by_cases hg : h = g
  · subst hg
    have hj : j ≠ k := fun e => hn (by rw [e])
    simp [State.ctx, State.setCtx, Core.ctx_setCtx_ne _ _ _ _ hj]
  · simp [State.ctx, State.setCtx, State.core_setCore_ne _ _ _ _ hg]
@[simp] theorem State.me_setMe (s : State) (x : Ctx) : (s.setMe x).me = x := by simp [State.me, State.setMe]
@[simp] theorem State.setCore_setCore (s : State) (g : Nat) (c d : Core) : ((s.setCore g c).setCore g d).core g = d := by simp
/-- Writing the executing context leaves every other one. -/
theorem State.ctx_setMe_ne (s : State) (x : Ctx) (g k : Nat) (h : (g, k) ≠ s.cur) : (s.setMe x).ctx g k = s.ctx g k :=
  State.ctx_setCtx_ne _ _ _ _ _ _ h
/-- Writing a context leaves every other core. -/
theorem State.core_setCtx_ne (s : State) (g k h : Nat) (x : Ctx) (hn : h ≠ g) : (s.setCtx g k x).core h = s.core h :=
  State.core_setCore_ne _ _ _ _ hn
@[simp] theorem State.core_setCtx (s : State) (g k : Nat) (x : Ctx) : (s.setCtx g k x).core g = (s.core g).setCtx k x := by
  simp [State.setCtx]
@[simp] theorem State.myCore_setMe (s : State) (x : Ctx) : (s.setMe x).myCore = s.myCore.setCtx s.cur.2 x := by
  simp [State.myCore, State.setMe]
@[simp] theorem Core.regCount_setCtx (c : Core) (k : Nat) (x : Ctx) : (c.setCtx k x).regCount = c.regCount := rfl
@[simp] theorem Core.count_setCtx (c : Core) (k : Nat) (x : Ctx) : (c.setCtx k x).count = c.count := rfl

@[simp] theorem State.ctx_at (s : State) (q : Nat × Nat) (g k : Nat) : (s.at q).ctx g k = s.ctx g k := rfl
/-- The executing context of a part that executes another one. -/
@[simp] theorem State.me_at (s : State) (g k : Nat) : (s.at (g, k)).me = s.ctx g k := rfl

/-! ### Fields of a context after a register is written -/
@[simp] theorem Ctx.setReg_phase (c : Ctx) (n : RegNo) (v : GReg) : (c.setReg n v).phase = c.phase := by
  unfold Ctx.setReg Ctx.setRegIn; repeat (first | rfl | split)
@[simp] theorem Ctx.setReg_owned (c : Ctx) (n : RegNo) (v : GReg) : (c.setReg n v).owned = c.owned := by
  unfold Ctx.setReg Ctx.setRegIn; repeat (first | rfl | split)
@[simp] theorem Ctx.setReg_pc (c : Ctx) (n : RegNo) (v : GReg) : (c.setReg n v).pc = c.pc := by
  unfold Ctx.setReg Ctx.setRegIn; repeat (first | rfl | split)
@[simp] theorem Ctx.setReg_mode (c : Ctx) (n : RegNo) (v : GReg) : (c.setReg n v).mode = c.mode := by
  unfold Ctx.setReg Ctx.setRegIn; repeat (first | rfl | split)
@[simp] theorem Ctx.setReg_evl (c : Ctx) (n : RegNo) (v : GReg) : (c.setReg n v).evl = c.evl := by
  unfold Ctx.setReg Ctx.setRegIn; repeat (first | rfl | split)
@[simp] theorem Ctx.setReg_ivec (c : Ctx) (n : RegNo) (v : GReg) : (c.setReg n v).ivec = c.ivec := by
  unfold Ctx.setReg Ctx.setRegIn; repeat (first | rfl | split)
@[simp] theorem Ctx.setReg_iepc (c : Ctx) (n : RegNo) (v : GReg) : (c.setReg n v).iepc = c.iepc := by
  unfold Ctx.setReg Ctx.setRegIn; repeat (first | rfl | split)
@[simp] theorem Ctx.setReg_fpctl (c : Ctx) (n : RegNo) (v : GReg) : (c.setReg n v).fpctl = c.fpctl := by
  unfold Ctx.setReg Ctx.setRegIn; repeat (first | rfl | split)
@[simp] theorem Ctx.setReg_pmode (c : Ctx) (n : RegNo) (v : GReg) : (c.setReg n v).pmode = c.pmode := by
  unfold Ctx.setReg Ctx.setRegIn; repeat (first | rfl | split)
@[simp] theorem Ctx.setReg_th (c : Ctx) (n : RegNo) (v : GReg) : (c.setReg n v).th = c.th := by
  unfold Ctx.setReg Ctx.setRegIn; repeat (first | rfl | split)
@[simp] theorem Ctx.setReg_ih (c : Ctx) (n : RegNo) (v : GReg) : (c.setReg n v).ih = c.ih := by
  unfold Ctx.setReg Ctx.setRegIn; repeat (first | rfl | split)
@[simp] theorem Ctx.setReg_icount (c : Ctx) (n : RegNo) (v : GReg) : (c.setReg n v).icount = c.icount := by
  unfold Ctx.setReg Ctx.setRegIn; repeat (first | rfl | split)
@[simp] theorem Ctx.setReg_cause (c : Ctx) (n : RegNo) (v : GReg) : (c.setReg n v).cause = c.cause := by
  unfold Ctx.setReg Ctx.setRegIn; repeat (first | rfl | split)
@[simp] theorem Ctx.setReg_epc (c : Ctx) (n : RegNo) (v : GReg) : (c.setReg n v).epc = c.epc := by
  unfold Ctx.setReg Ctx.setRegIn; repeat (first | rfl | split)
@[simp] theorem Ctx.setReg_tval (c : Ctx) (n : RegNo) (v : GReg) : (c.setReg n v).tval = c.tval := by
  unfold Ctx.setReg Ctx.setRegIn; repeat (first | rfl | split)
@[simp] theorem Ctx.setReg_scratch (c : Ctx) (n : RegNo) (v : GReg) : (c.setReg n v).scratch = c.scratch := by
  unfold Ctx.setReg Ctx.setRegIn; repeat (first | rfl | split)
@[simp] theorem Ctx.setReg_streams (c : Ctx) (n : RegNo) (v : GReg) : (c.setReg n v).streams = c.streams := by
  unfold Ctx.setReg Ctx.setRegIn; repeat (first | rfl | split)
@[simp] theorem Ctx.setReg_desc (c : Ctx) (n : RegNo) (v : GReg) : (c.setReg n v).desc = c.desc := by
  unfold Ctx.setReg Ctx.setRegIn; repeat (first | rfl | split)
@[simp] theorem Ctx.setReg_park (c : Ctx) (n : RegNo) (v : GReg) : (c.setReg n v).park = c.park := by
  unfold Ctx.setReg Ctx.setRegIn; repeat (first | rfl | split)
@[simp] theorem Ctx.setReg_stop (c : Ctx) (n : RegNo) (v : GReg) : (c.setReg n v).stop = c.stop := by
  unfold Ctx.setReg Ctx.setRegIn; repeat (first | rfl | split)
@[simp] theorem Ctx.setReg_yieldHold (c : Ctx) (n : RegNo) (v : GReg) : (c.setReg n v).yieldHold = c.yieldHold := by
  unfold Ctx.setReg Ctx.setRegIn; repeat (first | rfl | split)
@[simp] theorem Ctx.setReg_fetched (c : Ctx) (n : RegNo) (v : GReg) : (c.setReg n v).fetched = c.fetched := by
  unfold Ctx.setReg Ctx.setRegIn; repeat (first | rfl | split)
@[simp] theorem Ctx.setReg_fills (c : Ctx) (n : RegNo) (v : GReg) : (c.setReg n v).fills = c.fills := by
  unfold Ctx.setReg Ctx.setRegIn; repeat (first | rfl | split)
@[simp] theorem Ctx.setReg_group (c : Ctx) (n : RegNo) (v : GReg) : (c.setReg n v).group = c.group := by
  unfold Ctx.setReg Ctx.setRegIn; repeat (first | rfl | split)
@[simp] theorem Ctx.setReg_grid (c : Ctx) (n : RegNo) (v : GReg) : (c.setReg n v).grid = c.grid := by
  unfold Ctx.setReg Ctx.setRegIn; repeat (first | rfl | split)
@[simp] theorem Ctx.setReg_deferred (c : Ctx) (n : RegNo) (v : GReg) : (c.setReg n v).deferred = c.deferred := by
  unfold Ctx.setReg Ctx.setRegIn; repeat (first | rfl | split)
@[simp] theorem Ctx.setReg_relMark (c : Ctx) (n : RegNo) (v : GReg) : (c.setReg n v).relMark = c.relMark := by
  unfold Ctx.setReg Ctx.setRegIn; repeat (first | rfl | split)
@[simp] theorem Ctx.setReg_fences (c : Ctx) (n : RegNo) (v : GReg) : (c.setReg n v).fences = c.fences := by
  unfold Ctx.setReg Ctx.setRegIn; repeat (first | rfl | split)
@[simp] theorem Ctx.setReg_lastLoad (c : Ctx) (n : RegNo) (v : GReg) : (c.setReg n v).lastLoad = c.lastLoad := by
  unfold Ctx.setReg Ctx.setRegIn; repeat (first | rfl | split)
@[simp] theorem Ctx.setReg_parkTime (c : Ctx) (n : RegNo) (v : GReg) : (c.setReg n v).parkTime = c.parkTime := by
  unfold Ctx.setReg Ctx.setRegIn; repeat (first | rfl | split)
@[simp] theorem Ctx.setReg_range (c : Ctx) (n : RegNo) (v : GReg) : (c.setReg n v).range = c.range := by
  unfold Ctx.setReg Ctx.setRegIn; repeat (first | rfl | split)
@[simp] theorem Ctx.setReg_inval (c : Ctx) (n : RegNo) (v : GReg) : (c.setReg n v).inval = c.inval := by
  unfold Ctx.setReg Ctx.setRegIn; repeat (first | rfl | split)
@[simp] theorem Ctx.setReg_acqs (c : Ctx) (n : RegNo) (v : GReg) : (c.setReg n v).acqs = c.acqs := by
  unfold Ctx.setReg Ctx.setRegIn; repeat (first | rfl | split)
@[simp] theorem Ctx.setReg_counted (c : Ctx) (n : RegNo) (v : GReg) : (c.setReg n v).counted = c.counted := by
  unfold Ctx.setReg Ctx.setRegIn; repeat (first | rfl | split)
@[simp] theorem Ctx.setReg_void (c : Ctx) (n : RegNo) (v : GReg) : (c.setReg n v).void = c.void := by
  unfold Ctx.setReg Ctx.setRegIn; repeat (first | rfl | split)

/-! ### Fields of a context after a trap, a return and a completion -/
@[simp] theorem Ctx.enter_phase (c : Ctx) (tvec : Word) (cause : Nat) (tval epc : Word) : (c.enter tvec cause tval epc).phase = c.phase := rfl
@[simp] theorem Ctx.enter_owned (c : Ctx) (tvec : Word) (cause : Nat) (tval epc : Word) : (c.enter tvec cause tval epc).owned = c.owned := rfl
@[simp] theorem Ctx.enter_pc (c : Ctx) (tvec : Word) (cause : Nat) (tval epc : Word) : (c.enter tvec cause tval epc).pc = tvec := rfl
@[simp] theorem Ctx.enter_mode (c : Ctx) (tvec : Word) (cause : Nat) (tval epc : Word) : (c.enter tvec cause tval epc).mode = c.mode.handler := rfl
@[simp] theorem Ctx.enter_regs (c : Ctx) (tvec : Word) (cause : Nat) (tval epc : Word) : (c.enter tvec cause tval epc).regs = c.regs := rfl
@[simp] theorem Ctx.enter_shadow (c : Ctx) (tvec : Word) (cause : Nat) (tval epc : Word) : (c.enter tvec cause tval epc).shadow = c.shadow := rfl
@[simp] theorem Ctx.enter_evl (c : Ctx) (tvec : Word) (cause : Nat) (tval epc : Word) : (c.enter tvec cause tval epc).evl = c.evl := rfl
@[simp] theorem Ctx.enter_ivec (c : Ctx) (tvec : Word) (cause : Nat) (tval epc : Word) : (c.enter tvec cause tval epc).ivec = c.ivec := rfl
@[simp] theorem Ctx.enter_iepc (c : Ctx) (tvec : Word) (cause : Nat) (tval epc : Word) : (c.enter tvec cause tval epc).iepc = c.iepc := rfl
@[simp] theorem Ctx.enter_fpctl (c : Ctx) (tvec : Word) (cause : Nat) (tval epc : Word) : (c.enter tvec cause tval epc).fpctl = c.fpctl := rfl
@[simp] theorem Ctx.enter_pmode (c : Ctx) (tvec : Word) (cause : Nat) (tval epc : Word) : (c.enter tvec cause tval epc).pmode = BitVec.ofNat 2 c.mode.code := rfl
@[simp] theorem Ctx.enter_th (c : Ctx) (tvec : Word) (cause : Nat) (tval epc : Word) : (c.enter tvec cause tval epc).th = true := rfl
@[simp] theorem Ctx.enter_ih (c : Ctx) (tvec : Word) (cause : Nat) (tval epc : Word) : (c.enter tvec cause tval epc).ih = c.ih := rfl
@[simp] theorem Ctx.enter_icount (c : Ctx) (tvec : Word) (cause : Nat) (tval epc : Word) : (c.enter tvec cause tval epc).icount = 0 := rfl
@[simp] theorem Ctx.enter_cause (c : Ctx) (tvec : Word) (cause : Nat) (tval epc : Word) : (c.enter tvec cause tval epc).cause = BitVec.ofNat 8 cause := rfl
@[simp] theorem Ctx.enter_epc (c : Ctx) (tvec : Word) (cause : Nat) (tval epc : Word) : (c.enter tvec cause tval epc).epc = epc := rfl
@[simp] theorem Ctx.enter_tval (c : Ctx) (tvec : Word) (cause : Nat) (tval epc : Word) : (c.enter tvec cause tval epc).tval = tval := rfl
@[simp] theorem Ctx.enter_scratch (c : Ctx) (tvec : Word) (cause : Nat) (tval epc : Word) : (c.enter tvec cause tval epc).scratch = c.scratch := rfl
@[simp] theorem Ctx.enter_streams (c : Ctx) (tvec : Word) (cause : Nat) (tval epc : Word) : (c.enter tvec cause tval epc).streams = c.streams := rfl
@[simp] theorem Ctx.enter_desc (c : Ctx) (tvec : Word) (cause : Nat) (tval epc : Word) : (c.enter tvec cause tval epc).desc = c.desc := rfl
@[simp] theorem Ctx.enter_park (c : Ctx) (tvec : Word) (cause : Nat) (tval epc : Word) : (c.enter tvec cause tval epc).park = none := rfl
@[simp] theorem Ctx.enter_stop (c : Ctx) (tvec : Word) (cause : Nat) (tval epc : Word) : (c.enter tvec cause tval epc).stop = c.stop := rfl
@[simp] theorem Ctx.enter_yieldHold (c : Ctx) (tvec : Word) (cause : Nat) (tval epc : Word) : (c.enter tvec cause tval epc).yieldHold = c.yieldHold := rfl
@[simp] theorem Ctx.enter_fetched (c : Ctx) (tvec : Word) (cause : Nat) (tval epc : Word) : (c.enter tvec cause tval epc).fetched = none := rfl
@[simp] theorem Ctx.enter_fills (c : Ctx) (tvec : Word) (cause : Nat) (tval epc : Word) : (c.enter tvec cause tval epc).fills = c.fills := rfl
@[simp] theorem Ctx.enter_group (c : Ctx) (tvec : Word) (cause : Nat) (tval epc : Word) : (c.enter tvec cause tval epc).group = c.group := rfl
@[simp] theorem Ctx.enter_grid (c : Ctx) (tvec : Word) (cause : Nat) (tval epc : Word) : (c.enter tvec cause tval epc).grid = c.grid := rfl
@[simp] theorem Ctx.enter_deferred (c : Ctx) (tvec : Word) (cause : Nat) (tval epc : Word) : (c.enter tvec cause tval epc).deferred = c.deferred := rfl
@[simp] theorem Ctx.enter_relMark (c : Ctx) (tvec : Word) (cause : Nat) (tval epc : Word) : (c.enter tvec cause tval epc).relMark = none := rfl
@[simp] theorem Ctx.enter_fences (c : Ctx) (tvec : Word) (cause : Nat) (tval epc : Word) : (c.enter tvec cause tval epc).fences = c.fences := rfl
@[simp] theorem Ctx.enter_lastLoad (c : Ctx) (tvec : Word) (cause : Nat) (tval epc : Word) : (c.enter tvec cause tval epc).lastLoad = c.lastLoad := rfl
@[simp] theorem Ctx.enter_parkTime (c : Ctx) (tvec : Word) (cause : Nat) (tval epc : Word) : (c.enter tvec cause tval epc).parkTime = c.parkTime := rfl
@[simp] theorem Ctx.enter_range (c : Ctx) (tvec : Word) (cause : Nat) (tval epc : Word) : (c.enter tvec cause tval epc).range = none := rfl
@[simp] theorem Ctx.enter_inval (c : Ctx) (tvec : Word) (cause : Nat) (tval epc : Word) : (c.enter tvec cause tval epc).inval = none := rfl
@[simp] theorem Ctx.enter_acqs (c : Ctx) (tvec : Word) (cause : Nat) (tval epc : Word) : (c.enter tvec cause tval epc).acqs = c.acqs := rfl
@[simp] theorem Ctx.enter_counted (c : Ctx) (tvec : Word) (cause : Nat) (tval epc : Word) : (c.enter tvec cause tval epc).counted = c.counted := rfl
@[simp] theorem Ctx.enter_void (c : Ctx) (tvec : Word) (cause : Nat) (tval epc : Word) : (c.enter tvec cause tval epc).void = c.void := rfl
@[simp] theorem Ctx.eret_phase (c : Ctx) : c.eret.phase = c.phase := rfl
@[simp] theorem Ctx.eret_owned (c : Ctx) : c.eret.owned = c.owned := rfl
@[simp] theorem Ctx.eret_pc (c : Ctx) : c.eret.pc = c.epc := rfl
@[simp] theorem Ctx.eret_mode (c : Ctx) : c.eret.mode = Mode.ofCode c.pmode.toNat := rfl
@[simp] theorem Ctx.eret_regs (c : Ctx) : c.eret.regs = c.regs := rfl
@[simp] theorem Ctx.eret_shadow (c : Ctx) : c.eret.shadow = c.shadow := rfl
@[simp] theorem Ctx.eret_evl (c : Ctx) : c.eret.evl = c.evl := rfl
@[simp] theorem Ctx.eret_ivec (c : Ctx) : c.eret.ivec = c.ivec := rfl
@[simp] theorem Ctx.eret_iepc (c : Ctx) : c.eret.iepc = c.iepc := rfl
@[simp] theorem Ctx.eret_fpctl (c : Ctx) : c.eret.fpctl = c.fpctl := rfl
@[simp] theorem Ctx.eret_pmode (c : Ctx) : c.eret.pmode = c.pmode := rfl
@[simp] theorem Ctx.eret_th (c : Ctx) : c.eret.th = false := rfl
@[simp] theorem Ctx.eret_ih (c : Ctx) : c.eret.ih = c.ih := rfl
@[simp] theorem Ctx.eret_icount (c : Ctx) : c.eret.icount = c.icount := rfl
@[simp] theorem Ctx.eret_cause (c : Ctx) : c.eret.cause = c.cause := rfl
@[simp] theorem Ctx.eret_epc (c : Ctx) : c.eret.epc = c.epc := rfl
@[simp] theorem Ctx.eret_tval (c : Ctx) : c.eret.tval = c.tval := rfl
@[simp] theorem Ctx.eret_scratch (c : Ctx) : c.eret.scratch = c.scratch := rfl
@[simp] theorem Ctx.eret_streams (c : Ctx) : c.eret.streams = c.streams := rfl
@[simp] theorem Ctx.eret_desc (c : Ctx) : c.eret.desc = c.desc := rfl
@[simp] theorem Ctx.eret_park (c : Ctx) : c.eret.park = c.park := rfl
@[simp] theorem Ctx.eret_stop (c : Ctx) : c.eret.stop = c.stop := rfl
@[simp] theorem Ctx.eret_yieldHold (c : Ctx) : c.eret.yieldHold = c.yieldHold := rfl
@[simp] theorem Ctx.eret_fetched (c : Ctx) : c.eret.fetched = c.fetched := rfl
@[simp] theorem Ctx.eret_fills (c : Ctx) : c.eret.fills = c.fills := rfl
@[simp] theorem Ctx.eret_group (c : Ctx) : c.eret.group = c.group := rfl
@[simp] theorem Ctx.eret_grid (c : Ctx) : c.eret.grid = c.grid := rfl
@[simp] theorem Ctx.eret_deferred (c : Ctx) : c.eret.deferred = c.deferred := rfl
@[simp] theorem Ctx.eret_relMark (c : Ctx) : c.eret.relMark = c.relMark := rfl
@[simp] theorem Ctx.eret_fences (c : Ctx) : c.eret.fences = c.fences := rfl
@[simp] theorem Ctx.eret_lastLoad (c : Ctx) : c.eret.lastLoad = c.lastLoad := rfl
@[simp] theorem Ctx.eret_parkTime (c : Ctx) : c.eret.parkTime = c.parkTime := rfl
@[simp] theorem Ctx.eret_range (c : Ctx) : c.eret.range = c.range := rfl
@[simp] theorem Ctx.eret_inval (c : Ctx) : c.eret.inval = c.inval := rfl
@[simp] theorem Ctx.eret_acqs (c : Ctx) : c.eret.acqs = c.acqs := rfl
@[simp] theorem Ctx.eret_counted (c : Ctx) : c.eret.counted = c.counted := rfl
@[simp] theorem Ctx.eret_void (c : Ctx) : c.eret.void = c.void := rfl
@[simp] theorem Ctx.iret_phase (c : Ctx) : c.iret.phase = c.phase := rfl
@[simp] theorem Ctx.iret_owned (c : Ctx) : c.iret.owned = c.owned := rfl
@[simp] theorem Ctx.iret_pc (c : Ctx) : c.iret.pc = c.iepc := rfl
@[simp] theorem Ctx.iret_mode (c : Ctx) : c.iret.mode = c.mode := rfl
@[simp] theorem Ctx.iret_regs (c : Ctx) : c.iret.regs = c.regs := rfl
@[simp] theorem Ctx.iret_shadow (c : Ctx) : c.iret.shadow = c.shadow := rfl
@[simp] theorem Ctx.iret_evl (c : Ctx) : c.iret.evl = c.evl := rfl
@[simp] theorem Ctx.iret_ivec (c : Ctx) : c.iret.ivec = c.ivec := rfl
@[simp] theorem Ctx.iret_iepc (c : Ctx) : c.iret.iepc = c.iepc := rfl
@[simp] theorem Ctx.iret_fpctl (c : Ctx) : c.iret.fpctl = c.fpctl := rfl
@[simp] theorem Ctx.iret_pmode (c : Ctx) : c.iret.pmode = c.pmode := rfl
@[simp] theorem Ctx.iret_th (c : Ctx) : c.iret.th = c.th := rfl
@[simp] theorem Ctx.iret_ih (c : Ctx) : c.iret.ih = false := rfl
@[simp] theorem Ctx.iret_icount (c : Ctx) : c.iret.icount = 0 := rfl
@[simp] theorem Ctx.iret_cause (c : Ctx) : c.iret.cause = c.cause := rfl
@[simp] theorem Ctx.iret_epc (c : Ctx) : c.iret.epc = c.epc := rfl
@[simp] theorem Ctx.iret_tval (c : Ctx) : c.iret.tval = c.tval := rfl
@[simp] theorem Ctx.iret_scratch (c : Ctx) : c.iret.scratch = c.scratch := rfl
@[simp] theorem Ctx.iret_streams (c : Ctx) : c.iret.streams = c.streams := rfl
@[simp] theorem Ctx.iret_desc (c : Ctx) : c.iret.desc = c.desc := rfl
@[simp] theorem Ctx.iret_park (c : Ctx) : c.iret.park = c.park := rfl
@[simp] theorem Ctx.iret_stop (c : Ctx) : c.iret.stop = c.stop := rfl
@[simp] theorem Ctx.iret_yieldHold (c : Ctx) : c.iret.yieldHold = c.yieldHold := rfl
@[simp] theorem Ctx.iret_fetched (c : Ctx) : c.iret.fetched = c.fetched := rfl
@[simp] theorem Ctx.iret_fills (c : Ctx) : c.iret.fills = c.fills := rfl
@[simp] theorem Ctx.iret_group (c : Ctx) : c.iret.group = c.group := rfl
@[simp] theorem Ctx.iret_grid (c : Ctx) : c.iret.grid = c.grid := rfl
@[simp] theorem Ctx.iret_deferred (c : Ctx) : c.iret.deferred = c.deferred := rfl
@[simp] theorem Ctx.iret_relMark (c : Ctx) : c.iret.relMark = c.relMark := rfl
@[simp] theorem Ctx.iret_fences (c : Ctx) : c.iret.fences = c.fences := rfl
@[simp] theorem Ctx.iret_lastLoad (c : Ctx) : c.iret.lastLoad = c.lastLoad := rfl
@[simp] theorem Ctx.iret_parkTime (c : Ctx) : c.iret.parkTime = c.parkTime := rfl
@[simp] theorem Ctx.iret_range (c : Ctx) : c.iret.range = c.range := rfl
@[simp] theorem Ctx.iret_inval (c : Ctx) : c.iret.inval = c.inval := rfl
@[simp] theorem Ctx.iret_acqs (c : Ctx) : c.iret.acqs = c.acqs := rfl
@[simp] theorem Ctx.iret_counted (c : Ctx) : c.iret.counted = c.counted := rfl
@[simp] theorem Ctx.iret_void (c : Ctx) : c.iret.void = c.void := rfl

/-! ### The executing context after its updates -/

theorem State.me_put (s : State) (n : RegNo) (v : Word) : (s.put n v).me = s.me.setReg n (GReg.of v false) := by simp [State.put]
theorem State.me_putTagged (s : State) (n : RegNo) (v : Word) (t : Bool) :
    (s.putTagged n v t).me = s.me.setReg n (GReg.of v t) := by simp [State.putTagged]
theorem State.me_putPending (s : State) (n : RegNo) :
    (s.putPending n).me = s.me.setReg n { s.me.reg n with st := .pending, tag := false, acq := none } := by simp [State.putPending]
theorem State.me_goto (s : State) (pc : Word) : (s.goto pc).me = { s.me with
    pc := pc, icount := tick s.me.icount, park := none, relMark := none, inval := none, fetched := none } := by
  simp [State.goto]
theorem State.me_parkMe (s : State) (p : Park) : (s.parkMe p).me = { s.me with park := some p, parkTime := s.clock } := by
  simp [State.parkMe]
theorem State.me_orFlags (s : State) (f : FFlags) : (s.orFlags f).me = { s.me with fpctl := fpctlOr s.me.fpctl f } := by
  simp [State.orFlags]

/-! ### Registers -/

/-- g0 reads 0, full and untagged (R38). -/
@[simp] theorem Ctx.reg_zero (c : Ctx) : c.reg 0#6 = GReg.zero := by simp [Ctx.reg, Ctx.regIn]
/-- A write to g0 changes nothing (R38). -/
@[simp] theorem Ctx.setReg_zero (c : Ctx) (v : GReg) : c.setReg 0#6 v = c := by simp [Ctx.setReg, Ctx.setRegIn]
/-- A register other than g0 reads as it was written. -/
theorem Ctx.reg_setReg (c : Ctx) (n : RegNo) (v : GReg) (h : n ≠ 0) : (c.setReg n v).reg n = v := by
  unfold Ctx.reg
  rw [Ctx.setReg_ih]
  unfold Ctx.setReg Ctx.setRegIn Ctx.regIn
  rw [if_neg h, if_neg h]
  by_cases hs : inShadow c.ih n = true
  · have h24 : 24 ≤ n.toNat := by simp [inShadow] at hs; omega
    have h32 : n.toNat < 32 := by simp [inShadow] at hs; omega
    rw [if_pos hs, if_pos hs]
    simp [Vector.getD, show n.toNat - 24 < 8 by omega]
  · rw [if_neg hs, if_neg hs]
    simp
/-- Writing a register leaves the others. -/
theorem Ctx.reg_setReg_ne (c : Ctx) (n m : RegNo) (v : GReg) (h : m ≠ n) : (c.setReg n v).reg m = c.reg m := by
  unfold Ctx.reg
  rw [Ctx.setReg_ih]
  have hnat : n.toNat ≠ m.toNat := fun e => h (BitVec.eq_of_toNat_eq e.symm)
  by_cases h0 : n = 0#6
  · rw [h0, Ctx.setReg_zero]
  by_cases hm : m = 0
  · simp [Ctx.regIn, hm]
  unfold Ctx.setReg Ctx.setRegIn Ctx.regIn
  have h0' : n ≠ 0 := h0
  rw [if_neg hm, if_neg hm]
  simp only [if_neg h0']
  by_cases hs : inShadow c.ih n = true
  · rw [if_pos hs]
    by_cases hs' : inShadow c.ih m = true
    · rw [if_pos hs', if_pos hs']
      have h1 : 24 ≤ n.toNat := by simp [inShadow] at hs; omega
      have h2 : 24 ≤ m.toNat := by simp [inShadow] at hs'; omega
      have h3 : m.toNat < 32 := by simp [inShadow] at hs'; omega
      have h5 : n.toNat - 24 ≠ m.toNat - 24 := by omega
      have h6 : m.toNat - 24 < 8 := by omega
      simp only [Vector.getD, Array.getD, Vector.size_toArray, h6, ↓reduceDIte, Array.getInternal_eq_getElem, Vector.getElem_toArray]
      rw [Vector.getElem_setIfInBounds_ne _ h5]
    · rw [if_neg hs', if_neg hs']
  · rw [if_neg hs]
    by_cases hs' : inShadow c.ih m = true
    · rw [if_pos hs', if_pos hs']
    · rw [if_neg hs', if_neg hs', Vector.getElem_set_ne _ _ hnat]

/-- g0 reads 0 in every state (R38). -/
@[simp] theorem State.g_zero (s : State) : s.g 0#6 = 0#64 := by simp [State.g, GReg.zero]
/-- A register other than g0 reads the value put there, full and untagged (R64). -/
theorem State.reg_put (s : State) (n : RegNo) (v : Word) (h : n ≠ 0) : (s.put n v).me.reg n = GReg.of v false := by
  rw [State.me_put, Ctx.reg_setReg _ _ _ h]
/-- Putting a value leaves the other registers. -/
theorem State.reg_put_ne (s : State) (n m : RegNo) (v : Word) (h : m ≠ n) : (s.put n v).me.reg m = s.me.reg m := by
  rw [State.me_put, Ctx.reg_setReg_ne _ _ _ _ h]
/-- Completing an instruction leaves the registers. -/
@[simp] theorem State.reg_goto (s : State) (pc : Word) (n : RegNo) : (s.goto pc).me.reg n = s.me.reg n := by
  rw [State.me_goto]; rfl
@[simp] theorem State.reg_next4 (s : State) (n : RegNo) : s.next4.me.reg n = s.me.reg n := State.reg_goto ..
@[simp] theorem State.reg_orFlags (s : State) (f : FFlags) (n : RegNo) : (s.orFlags f).me.reg n = s.me.reg n := by
  rw [State.me_orFlags]; rfl
/-- Where an instruction that completes at PC + 4 leaves the PC. -/
theorem State.pc_next4 (s : State) : s.next4.me.pc = s.me.pc + 4 := by simp [State.next4, State.me_goto]
@[simp] theorem State.pc_put (s : State) (n : RegNo) (v : Word) : (s.put n v).me.pc = s.me.pc := by simp [State.me_put]

end Sys2Proof.Machine
end

