-- ==== Sys2Proof/Laws/Gate.lean ====
section
/-! SUPPORT. What the shared checks of R21 can do: one lemma for each of `gate`, `acquireAll`, `privGate`, `capsGate` and
`finish`. -/

namespace Sys2Proof.Machine

open Sys2Proof.Safety

/-- Where steps 5 to 7 let the thread go on, the instruction's own description follows. -/
theorem gate_ready {s : State} {u : Use} (h : Ready s u) (k : State → Eff) : gate s u k = k s := by
  have h1 : u.none? s.myCore.regCount = none := by
    simp only [Use.none?, List.find?_eq_none, decide_eq_true_eq]
    intro n hn
    have := h.exist n hn
    omega
  have h2 : u.emptySrcs s.me = [] := by
    simp only [Use.emptySrcs, List.filter_eq_nil_iff]
    intro p hp
    simp [h.full p hp]
  have h3 : u.pendingDsts s.me = [] := by
    simp only [Use.pendingDsts, List.filter_eq_nil_iff]
    intro n hn
    simpa using h.free n hn
  have h4 : u.acquires s.me = [] := by
    simp only [Use.acquires, List.filterMap_eq_nil_iff]
    intro p hp
    exact h.settled p hp
  simp only [gate, h1, h2, List.find?_nil, Use.waitsFor, h3, h4]

/-- Step 5 of R21 (R37): a field that names a register the context does not have takes REGNONE, with the number of the
first such field. -/
theorem gate_none {s : State} {u : Use} {n : RegNo} (h : u.none? s.myCore.regCount = some n) (k : State → Eff) :
    gate s u k = .trap causeREGNONE (BitVec.ofNat 64 n.toNat) := by simp only [gate, h]

/-- Everything the acquires of a list can do (R163, R406): the thread parks on an escalation, or the instruction goes on,
with L1 flash-invalidated or as it is. -/
theorem acquireAll_cases (s : State) (l : List Acq) (k : State → Eff) :
    (∃ a ∈ l, acquireAll s l k =
      .park { s.bump with escs := s.escs ++ [⟨s.serial, s.cur.1, s.cur.2, a.core, a.mark, false⟩] } (.escalation s.serial)) ∨
    acquireAll s l k = k (flashL1 s s.cur.1) ∨ acquireAll s l k = k s := by
  unfold acquireAll
  split
  · exact .inl ⟨_, List.mem_of_find?_eq_some ‹_›, rfl⟩
  · split
    · exact .inr (.inl rfl)
    · exact .inr (.inr rfl)

/-- Everything steps 5 to 7 can do: REGNONE, REGEMPTY, a park on registers, an acquire's escalation, or the instruction's
own description, of a state that differs in L1 and in the acquires the sources owe. -/
theorem gate_cases (s : State) (u : Use) (k : State → Eff) :
    (∃ n, gate s u k = .trap causeREGNONE n) ∨ (∃ n, gate s u k = .trap causeREGEMPTY n) ∨
    (∃ l, gate s u k = .park s (.regs l) ∨ gate s u k = .park s (.dests l)) ∨
    (∃ a : Acq, gate s u k =
      .park { s.bump with escs := s.escs ++ [⟨s.serial, s.cur.1, s.cur.2, a.core, a.mark, false⟩] } (.escalation s.serial)) ∨
    gate s u k = k s ∨ gate s u k = k (s.setMe (s.me.settled u.srcs)) ∨
    gate s u k = k ((flashL1 s s.cur.1).setMe ((flashL1 s s.cur.1).me.settled u.srcs)) := by
  unfold gate
  split
  · exact .inl ⟨_, rfl⟩
  · split
    · exact .inr (.inl ⟨_, rfl⟩)
    · split
      · rename_i h
        unfold Use.waitsFor at h
        split at h <;> cases h
        · exact .inr (.inr (.inl ⟨_, .inl rfl⟩))
        · exact .inr (.inr (.inl ⟨_, .inr rfl⟩))
      · split
        · exact .inr (.inr (.inr (.inr (.inl rfl))))
        · rename_i l _ _ _ hw
          obtain ⟨a, _, h⟩ | h | h := acquireAll_cases s (u.acquires s.me) fun s' => k (s'.setMe (s'.me.settled u.srcs))
          · exact .inr (.inr (.inr (.inl ⟨a, h⟩)))
          · exact .inr (.inr (.inr (.inr (.inr (.inr h)))))
          · exact .inr (.inr (.inr (.inr (.inr (.inl h)))))

/-- Step 4 of R21 (R35): in a mode that may run it, and in context 0 where it must, the instruction goes on. -/
theorem privGate_allowed {s : State} {lowest : Mode} {zeroOnly : Bool} (h : Allowed s lowest zeroOnly) (i : Instr) (k : Eff) :
    privGate s i lowest zeroOnly k = k := if_pos h

/-- Otherwise it takes PRIV with its word. -/
theorem privGate_denied {s : State} {lowest : Mode} {zeroOnly : Bool} (h : ¬ Allowed s lowest zeroOnly) (i : Instr) (k : Eff) :
    privGate s i lowest zeroOnly k = .trap causePRIV (wordOf i) := if_neg h

/-- Step 3 of R21: a unit that CAPS names goes on. -/
theorem capsGate_present {s : State} {bit : Nat} (h : s.caps.getLsbD bit = true) (i : Instr) (k : Eff) :
    capsGate s i bit k = k := if_pos h

/-- A unit that CAPS does not name takes ABSENT with the word (R18). -/
theorem capsGate_absent {s : State} {bit : Nat} (h : s.caps.getLsbD bit = false) (i : Instr) (k : Eff) :
    capsGate s i bit k = .trap causeABSENT (wordOf i) := if_neg (by simp [h])

/-- An instruction always ends in a next state: its effect, a trap, a page fault or a park. -/
theorem finish_next (s : State) (e : Eff) : ∃ t, finish s e = .next t := by
  cases e <;> exact ⟨_, rfl⟩

end Sys2Proof.Machine
end

