-- ==== Sys2Proof/Laws/Complete.lean ====
section
/-! SUPPORT. What completing an instruction leaves: the frames of the shared ways to write a register and go on. -/

namespace Sys2Proof.Machine

open Sys2Proof.Safety

/-- Writing a register of the present bank leaves the bank not present (R43). -/
theorem Ctx.regIn_setReg_hidden (c : Ctx) (d n : RegNo) (v : GReg) (h1 : 24 ≤ n.toNat) (h2 : n.toNat < 32) :
    (c.setReg d v).regIn (!c.ih) n = c.regIn (!c.ih) n := by
  have hn : n ≠ 0 := by intro e; subst e; simp at h1
  unfold Ctx.setReg Ctx.setRegIn
  by_cases h0 : d = 0
  · rw [if_pos h0]
  · rw [if_neg h0]
    unfold Ctx.regIn
    rw [if_neg hn, if_neg hn]
    cases hi : c.ih with
    | false => simp [inShadow]
    | true =>
      by_cases hs : inShadow true d = true
      · rw [if_pos hs]; simp
      · rw [if_neg hs]
        have hne : d.toNat ≠ n.toNat := by
          intro e
          simp [inShadow] at hs
          omega
        simp only [Bool.not_true, Bool.false_eq_true, if_false]
        exact Vector.getElem_set_ne _ _ hne

/-- The executing thread writes one register and goes on: everything the completion leaves. -/
theorem keeps_setReg (s : State) (d : RegNo) (v : GReg) (pc : Word) : Keeps s ((s.setMe (s.me.setReg d v)).goto pc) [d] s.me.fpctl where
  regs n hn := by
    have : n ≠ d := by simpa using hn
    rw [State.reg_goto, State.me_setMe, Ctx.reg_setReg_ne _ _ _ _ this]
  hidden n h1 h2 := by
    rw [State.me_goto, State.me_setMe]
    exact Ctx.regIn_setReg_hidden s.me d n v h1 h2
  status := by simp [State.me_goto]
  saved := by simp [State.me_goto]
  staged := by simp [State.me_goto]
  mem a := rfl
  others g k h := by
    simp only [State.goto]
    rw [State.ctx_setMe_ne _ _ _ _ (by simpa using h), State.ctx_setMe_ne _ _ _ _ h]
  cores g := by
    simp only [State.goto, State.setMe]
    by_cases hg : g = s.cur.1
    · subst hg; simp [State.setCtx, Core.setCtx]
    · rw [State.core_setCtx_ne _ _ _ _ _ (by simpa using hg), State.core_setCtx_ne _ _ _ _ _ hg]
  part := rfl

end Sys2Proof.Machine
end

