-- ==== Sys2Proof/Laws/Memory.lean ====
section
/-! SUPPORT. The laws of the one memory: reading after writing, and that every memory operation keeps the canonical
form. -/

namespace Sys2Proof.Machine

/-! ### Canonical form -/

theorem wfAbove_mono {lo hi : Nat} {m : List Host.Cell} (h : lo ≤ hi) (w : Memory.wfAbove hi m = true) :
    Memory.wfAbove lo m = true := by
  cases m with
  | nil => rfl
  | cons c r =>
    obtain ⟨a, v⟩ := c
    simp only [Memory.wfAbove, Bool.and_eq_true, decide_eq_true_eq] at w ⊢
    exact ⟨⟨Nat.le_trans h w.1.1, w.1.2⟩, w.2⟩

theorem wfAbove_cons {lo a : Nat} {v : Byte} {r : List Host.Cell} :
    Memory.wfAbove lo ((a, v) :: r) = true ↔ lo ≤ a ∧ v ≠ unlisted ∧ Memory.wfAbove (a + 1) r = true := by
  simp [Memory.wfAbove, and_assoc]

theorem wfAbove_writeByte {lo a : Nat} {m : List Host.Cell} {v : Byte} (h : Memory.wfAbove lo m = true) (hl : lo ≤ a) :
    Memory.wfAbove lo (writeByte m a v) = true := by
  induction m generalizing lo with
  | nil =>
    unfold writeByte
    split
    · rfl
    · exact wfAbove_cons.2 ⟨hl, ‹_›, rfl⟩
  | cons c r ih =>
    obtain ⟨j, w⟩ := c
    have hc := wfAbove_cons.1 h
    unfold writeByte
    split
    · split
      · exact h
      · exact wfAbove_cons.2 ⟨hl, ‹_›, wfAbove_cons.2 ⟨by omega, hc.2.1, hc.2.2⟩⟩
    · split
      · split
        · exact wfAbove_mono (by omega) hc.2.2
        · exact wfAbove_cons.2 ⟨hl, ‹_›, wfAbove_mono (by omega) hc.2.2⟩
      · exact wfAbove_cons.2 ⟨hc.1, hc.2.1, ih hc.2.2 (by omega)⟩

theorem wfAbove_filter {lo : Nat} {m : List Host.Cell} (p : Host.Cell → Bool) (h : Memory.wfAbove lo m = true) :
    Memory.wfAbove lo (m.filter p) = true := by
  induction m generalizing lo with
  | nil => rfl
  | cons c r ih =>
    obtain ⟨a, v⟩ := c
    have hc := wfAbove_cons.1 h
    rw [List.filter_cons]
    split
    · exact wfAbove_cons.2 ⟨hc.1, hc.2.1, ih hc.2.2⟩
    · exact wfAbove_mono (by omega) (ih hc.2.2)

/-- A byte write keeps the canonical form. -/
theorem writeByte_wf {m : List Host.Cell} (h : Memory.wf m = true) (a : Nat) (v : Byte) : Memory.wf (writeByte m a v) = true :=
  wfAbove_writeByte h (Nat.zero_le a)

/-- Writing bytes keeps the canonical form. -/
theorem writeBytes_wf {m : List Host.Cell} (h : Memory.wf m = true) (a : Nat) (l : List Byte) :
    Memory.wf (writeBytes m a l) = true := by
  induction l generalizing m a with
  | nil => exact h
  | cons b r ih => exact ih (writeByte_wf h a b) (a + 1)

/-- Dropping cells keeps the canonical form. -/
theorem filter_wf {m : List Host.Cell} (h : Memory.wf m = true) (p : Host.Cell → Bool) : Memory.wf (m.filter p) = true :=
  wfAbove_filter p h

/-- Clearing a range keeps the canonical form. -/
theorem clearRange_wf {m : List Host.Cell} (h : Memory.wf m = true) (lo n : Nat) : Memory.wf (clearRange m lo n) = true :=
  filter_wf h _

/-- Writing an 8-byte unit keeps the canonical form. -/
theorem write64_wf {m : List Host.Cell} (h : Memory.wf m = true) (a : Nat) (v : Word) : Memory.wf (write64 m a v) = true :=
  writeBytes_wf h a _

/-- Writing runs of bytes one after the other keeps the canonical form. -/
theorem foldl_writeBytes_wf {α : Type} (l : List α) (at_ : α → Nat) (bs : α → List Byte) {m : List Host.Cell}
    (h : Memory.wf m = true) : Memory.wf (l.foldl (fun m p => writeBytes m (at_ p) (bs p)) m) = true := by
  induction l generalizing m with
  | nil => exact h
  | cons p r ih => exact ih (writeBytes_wf h _ _)

/-- The memory at reset is in canonical form. -/
theorem reset_wf : Memory.wf State.reset.mem = true := rfl

/-! ### Reading after writing -/

theorem readByte_below {lo a : Nat} {m : List Host.Cell} (h : Memory.wfAbove lo m = true) (hl : a < lo) :
    readByte m a = unlisted := by
  cases m with
  | nil => rfl
  | cons c r =>
    obtain ⟨j, v⟩ := c
    have hc := wfAbove_cons.1 h
    unfold readByte
    rw [if_neg (by omega), if_pos (by omega)]

theorem readByte_cons (j a : Nat) (v : Byte) (r : List Host.Cell) :
    readByte ((j, v) :: r) a = if j = a then v else if a < j then unlisted else readByte r a := rfl

theorem readByte_writeByte_aux {lo : Nat} {m : List Host.Cell} (h : Memory.wfAbove lo m = true) (a b : Nat) (v : Byte) :
    readByte (writeByte m a v) b = if b = a then v else readByte m b := by
  induction m generalizing lo with
  | nil =>
    unfold writeByte
    by_cases hv : v = unlisted
    · simp [hv, readByte]
    · by_cases hb : b = a
      · simp [hv, readByte, hb]
      · simp [hv, readByte, hb, Ne.symm hb]
  | cons c r ih =>
    obtain ⟨j, w⟩ := c
    have hc := wfAbove_cons.1 h
    have below : ∀ i, i < j + 1 → readByte r i = unlisted := fun i hi => readByte_below hc.2.2 hi
    unfold writeByte
    rcases Nat.lt_trichotomy a j with h1 | h1 | h1
    · rw [if_pos h1]
      have hja : j ≠ a := by omega
      by_cases hv : v = unlisted <;> by_cases hb : b = a
      · subst hb; simp [hv, readByte_cons, hja, h1]
      · simp [hv, hb]
      · subst hb; simp [hv, readByte_cons]
      · rw [if_neg hv, if_neg hb, readByte_cons a, if_neg (Ne.symm hb)]
        by_cases h2 : b < a
        · rw [if_pos h2, readByte_cons, if_neg (by omega), if_pos (by omega)]
        · rw [if_neg h2]
    · subst h1
      rw [if_neg (by omega), if_pos rfl]
      by_cases hv : v = unlisted <;> by_cases hb : b = a
      · subst hb; simp [hv, below b (by omega)]
      · rw [if_pos hv, if_neg hb, readByte_cons, if_neg (Ne.symm hb)]
        by_cases h3 : b < a
        · rw [if_pos h3, below b (by omega)]
        · rw [if_neg h3]
      · subst hb; simp [hv, readByte_cons]
      · rw [if_neg hv, if_neg hb, readByte_cons, readByte_cons, if_neg (Ne.symm hb), if_neg (Ne.symm hb)]
    · rw [if_neg (by omega), if_neg (by omega), readByte_cons, readByte_cons, ih hc.2.2]
      by_cases hb : b = a
      · subst hb
        simp [show j ≠ b by omega, show ¬ b < j by omega]
      · simp [hb]

/-- Reading a byte after a byte write. -/
theorem readByte_writeByte {m : List Host.Cell} (h : Memory.wf m = true) (a b : Nat) (v : Byte) :
    readByte (writeByte m a v) b = if b = a then v else readByte m b :=
  readByte_writeByte_aux h a b v

/-- Reading a byte outside the bytes written gives what it gave before. -/
theorem readByte_writeBytes_outside {m : List Host.Cell} (h : Memory.wf m = true) (a b : Nat) (l : List Byte)
    (hb : b < a ∨ a + l.length ≤ b) : readByte (writeBytes m a l) b = readByte m b := by
  induction l generalizing m a with
  | nil => rfl
  | cons c r ih =>
    have hb' : b < a ∨ a + (r.length + 1) ≤ b := hb
    have hne : b ≠ a := by omega
    rw [writeBytes, ih (writeByte_wf h a c) (a + 1) (by omega), readByte_writeByte h, if_neg hne]

/-- Reading a byte of those written gives it. -/
theorem readByte_writeBytes_inside {m : List Host.Cell} (h : Memory.wf m = true) (a i : Nat) (l : List Byte)
    (hi : i < l.length) : readByte (writeBytes m a l) (a + i) = l[i] := by
  induction l generalizing m a i with
  | nil => simp at hi
  | cons c r ih =>
    rw [writeBytes]
    cases i with
    | zero =>
      rw [readByte_writeBytes_outside (writeByte_wf h a c) _ _ _ (by omega), readByte_writeByte h]
      simp
    | succ n =>
      have hn : n < r.length := by simpa using hi
      have := ih (writeByte_wf h a c) (a + 1) n hn
      rw [show a + (n + 1) = a + 1 + n by omega, this]
      rfl

/-- Reading back the bytes written. -/
theorem readBytes_writeBytes {m : List Host.Cell} (h : Memory.wf m = true) (a : Nat) (l : List Byte) :
    readBytes (writeBytes m a l) a l.length = l := by
  induction l generalizing m a with
  | nil => rfl
  | cons c r ih =>
    have h0 := readByte_writeBytes_inside h a 0 (c :: r) (by simp)
    simp only [List.length_cons, readBytes]
    rw [show readByte (writeBytes m a (c :: r)) a = c from h0, writeBytes, ih (writeByte_wf h a c)]

theorem readByte_filter_aux {lo : Nat} {m : List Host.Cell} (p : Nat → Bool) (h : Memory.wfAbove lo m = true) (b : Nat) :
    readByte (m.filter fun c => p c.1) b = if p b then readByte m b else unlisted := by
  induction m generalizing lo with
  | nil => simp [readByte]
  | cons c r ih =>
    obtain ⟨j, v⟩ := c
    have hc := wfAbove_cons.1 h
    have ihr := ih hc.2.2
    rw [List.filter_cons]
    by_cases hp : p j = true
    · simp only [hp, if_true]
      unfold readByte
      by_cases h1 : j = b
      · subst h1; simp [hp]
      · rw [if_neg h1, if_neg h1, ihr]
        by_cases h2 : b < j
        · simp [h2]
        · simp [h2]
    · simp only [hp]
      rw [if_neg (by simp), ihr, readByte_cons]
      by_cases h1 : j = b
      · subst h1; simp [hp]
      · rw [if_neg h1]
        by_cases h2 : b < j
        · simp [h2, readByte_below hc.2.2 (show b < j + 1 by omega)]
        · rw [if_neg h2]

/-- Reading a byte after a range has been cleared. -/
theorem readByte_clearRange {m : List Host.Cell} (h : Memory.wf m = true) (lo n b : Nat) :
    readByte (clearRange m lo n) b = if lo ≤ b ∧ b < lo + n then unlisted else readByte m b := by
  have := readByte_filter_aux (fun a => decide (a < lo) || decide (lo + n ≤ a)) h b
  simp only [clearRange]
  rw [this]
  by_cases h1 : lo ≤ b ∧ b < lo + n
  · rw [if_neg (by simp; omega), if_pos h1]
  · rw [if_pos (by simp; omega), if_neg h1]

/-! ### Little-endian numbers -/

@[simp] theorem leBytes_length (n v : Nat) : (leBytes n v).length = n := by
  induction n generalizing v with
  | zero => rfl
  | succ n ih => simp [leBytes, ih]

@[simp] theorem readBytes_length (m : List Host.Cell) (a n : Nat) : (readBytes m a n).length = n := by
  induction n generalizing a with
  | zero => rfl
  | succ n ih => simp [readBytes, ih]

theorem leNat_leBytes (n v : Nat) : leNat (leBytes n v) = v % 256 ^ n := by
  induction n generalizing v with
  | zero => simp [leBytes, leNat, Nat.mod_one]
  | succ n ih =>
    simp only [leBytes, leNat, ih, BitVec.toNat_ofNat]
    rw [show 256 ^ (n + 1) = 256 * 256 ^ n by rw [Nat.pow_succ, Nat.mul_comm], Nat.mod_mul]

/-- Reading back an 8-byte unit. -/
theorem read64_write64 {m : List Host.Cell} (h : Memory.wf m = true) (a : Nat) (v : Word) : read64 (write64 m a v) a = v := by
  have := readBytes_writeBytes h a (leBytes 8 v.toNat)
  rw [leBytes_length] at this
  simp only [read64, write64, this, leWord, leNat_leBytes]
  apply BitVec.eq_of_toNat_eq
  rw [BitVec.toNat_ofNat, show (256 : Nat) ^ 8 = 2 ^ 64 by rfl, Nat.mod_mod, Nat.mod_eq_of_lt v.isLt]

/-! ### Performing a store (R158) -/

theorem writeBytes_append (m : List Host.Cell) (a : Nat) (l r : List Byte) :
    writeBytes m a (l ++ r) = writeBytes (writeBytes m a l) (a + l.length) r := by
  induction l generalizing m a with
  | nil => rfl
  | cons b l ih =>
    rw [List.cons_append, writeBytes, writeBytes, ih, List.length_cons, Nat.add_right_comm, Nat.add_assoc]

@[simp] theorem sendTok_mem (s : State) (a b : Nat) (c : Bool) (l h : Nat) (x : TokBody) : (sendTok s a b c l h x).mem = s.mem := rfl
@[simp] theorem takeImage_mem (s : State) (p : Nat) : (takeImage s p).mem = s.mem := by
  unfold takeImage; split <;> rfl
@[simp] theorem evictTag_mem (s : State) (t l : Nat) : (evictTag s t l).mem = s.mem := by
  unfold evictTag; simp only; split <;> rfl
@[simp] theorem takeFrame_mem (s : State) (t l home mask : Nat) : (takeFrame s t l home mask).mem = s.mem := by
  unfold takeFrame; simp only; split
  · rfl
  · split
    · exact evictTag_mem ..
    · rfl

/-- Finding a way for a line moves tokens, and no byte of memory. -/
theorem allocWay_mem {s : State} {t l home mask : Nat} {frame : Bool} {p : Nat × State} (h : allocWay s t l home mask frame = some p) :
    p.2.mem = s.mem := by
  unfold allocWay at h
  simp only at h
  split at h
  · cases h; simp only; split <;> simp
  · simp only [Option.map_eq_some_iff] at h
    obtain ⟨v, _, rfl⟩ := h
    simp only; split <;> simp

@[simp] theorem gatherCtl_mem (s : State) (l : Nat) : (gatherCtl s l).mem = s.mem := by
  unfold gatherCtl; simp only; split
  · rfl
  · exact takeImage_mem s _
@[simp] theorem gatherHome_mem (s : State) (l home mask : Nat) (z : Bool) : (gatherHome s l home mask z).mem = s.mem := by
  unfold gatherHome; simp only; split
  · rfl
  · split
    · exact gatherCtl_mem s l
    · rename_i w s2 h
      show s2.mem = s.mem
      split at h
      · simp only [Option.some.injEq, Prod.mk.injEq] at h
        rw [← h.2]; split <;> simp
      · rw [allocWay_mem h]; simp
@[simp] theorem markDirty_mem (s : State) (l home : Nat) : (markDirty s l home).mem = s.mem := by
  unfold markDirty; simp only; split <;> simp
@[simp] theorem gatherFor_mem (s : State) (l home mask : Nat) : (gatherFor s l home mask).mem = s.mem := by
  unfold gatherFor; split
  · exact (gatherCtl_mem ..).trans (takeImage_mem ..)
  · simp only; split
    · rw [markDirty_mem]
      show (if _ then _ else _ : State).mem = _
      split <;> simp
    · exact gatherHome_mem ..
@[simp] theorem giveActive_mem (s : State) (who l home : Nat) (w : Bool) (q : Nat) : (giveActive s who l home w q).mem = s.mem := by
  unfold giveActive
  simp only
  repeat' split
  all_goals rfl
@[simp] theorem passActive_mem (s : State) (who l home : Nat) : (passActive s who l home).mem = s.mem := by
  unfold passActive; split
  · exact giveActive_mem ..
  · rfl
@[simp] theorem noteTail_mem (s : State) (pa n : Nat) : (noteTail s pa n).mem = s.mem := by
  unfold noteTail; simp only; split <;> rfl

/-- A write within a line writes its bytes, and nothing else of memory. -/
theorem writeLine_mem (s : State) (pa : Nat) (bs : List Byte) : (writeLine s pa bs).mem = writeBytes s.mem pa bs := by
  unfold writeLine; simp only; split <;> simp

/-- A store of an agent that waits for no token writes its bytes, line by line, and nothing else of memory. -/
theorem performFor_mem (home : State → Nat → Nat) (mask n : Nat) : ∀ (s : State) (pa : Nat) (bs : List Byte),
    bs.length ≤ 128 * n - pa % 128 → 0 < n → (performFor s home mask pa bs n).mem = writeBytes s.mem pa bs := by
  induction n with
  | zero => intro s pa bs _ h; exact absurd h (Nat.lt_irrefl 0)
  | succ n ih =>
    intro s pa bs hl _
    unfold performFor
    simp only
    split
    · rename_i h
      rw [passActive_mem, passActive_mem, writeLine_mem, gatherFor_mem, List.take_of_length_le h]
    · rename_i h
      rw [ih _ _ _ (by rw [List.length_drop]; omega) (by omega), passActive_mem, passActive_mem,
        writeLine_mem, gatherFor_mem]
      have := writeBytes_append s.mem pa (bs.take (128 - pa % 128)) (bs.drop (128 - pa % 128))
      rw [List.take_append_drop, List.length_take, Nat.min_eq_left (by omega)] at this
      exact this.symm

/-- A performed store writes its bytes, and nothing else of memory. -/
theorem performVia_mem (s : State) (v : Via) (pa : Nat) (bs : List Byte) :
    (performVia s v pa bs).mem = writeBytes s.mem pa bs := by
  unfold performVia
  split
  · exact performFor_mem _ _ _ _ _ _ (by omega) (by omega)
  · rfl

/-- A performed store keeps the canonical form. -/
theorem performVia_wf (s : State) (v : Via) (pa : Nat) (bs : List Byte) (h : Memory.wf s.mem = true) :
    Memory.wf (performVia s v pa bs).mem = true := by rw [performVia_mem]; exact writeBytes_wf h pa bs
theorem perform_mem (s : State) (pa : Nat) (bs : List Byte) : (perform s pa bs).mem = writeBytes s.mem pa bs := performVia_mem ..
theorem perform_wf (s : State) (pa : Nat) (bs : List Byte) (h : Memory.wf s.mem = true) :
    Memory.wf (perform s pa bs).mem = true := performVia_wf _ _ _ _ h

theorem perform64_mem (s : State) (pa : Nat) (v : Word) : (perform64 s pa v).mem = write64 s.mem pa v := perform_mem ..

end Sys2Proof.Machine
end

