-- ==== Sys2Proof/Laws/Numbers.lean ====
section
/-! SUPPORT. What the long lists of the model hold: the easels' and queues' numbers, and the entries of a page table. -/

namespace Sys2Proof.Machine

@[simp] theorem mem_easelNumbers (e : Nat) : e ∈ easelNumbers ↔ e < 1024 := by unfold easelNumbers; exact List.mem_range

@[simp] theorem mem_queueNumbers (n : Nat) : n ∈ queueNumbers ↔ n < 65536 := by unfold queueNumbers; exact List.mem_range

@[simp] theorem mem_tableSlots (table ea : Nat) : ea ∈ tableSlots table ↔ ∃ i, i < 1024 ∧ table + 8 * i = ea := by
  unfold tableSlots; simp

/-- A choice of DRAM takes one free value and nothing else. -/
theorem pickRange_state (s : State) (lo len bits : Nat) : (pickRange s lo len bits).2 = { s with freeCtr := s.freeCtr + 1 } := by
  unfold pickRange; rfl

end Sys2Proof.Machine
end

