-- ==== Sys2Proof/Tests/Slice0.lean ====
section
/-! SUPPORT. The model's own tests: words written out from the spec's encodings, ill-formed terms, single steps on small
states with the results of the spec's tables, and a witness that the hypotheses of every statement can be met. -/

namespace Sys2Proof.Tests

open Sys2Proof Sys2Proof.Machine Sys2Proof.Safety Sys2Proof.Claims

set_option Elab.async false

/-! ### Words of the spec's listings -/

/-- spec/06_scalar_commentary.md and R125, spec/07_execution_model.md. -/
theorem test_words_scalar :
    decode 0x2C401234 = .ok (.lui ⟨4, 0x1234⟩ ) ∧ decode 0x0C410567 = .ok (.addi ⟨4, 4, false, 0x567⟩) ∧
    decode 0x24410020 = .ok (.slli ⟨4, 4, false, 32⟩) ∧ decode 0x0C515DEF = .ok (.addi ⟨5, 5, false, 0x1DEF⟩) ∧
    decode 0x04514029 = .ok (.zextw ⟨5, 5, false⟩) ∧ decode 0x04410503 = .ok (.or ⟨4, 4, 5, false, false⟩) ∧
    decode 0x24D30804 = .ok (.srli ⟨13, 12, false, 4⟩) ∧ decode 0x20E30064 = .ok (.sltiu ⟨14, 12, false, 100⟩) := by decide +kernel

/-- The branches and jumps of spec/08_execution_commentary.md, spec/12_ordering_by_goal.md and spec/24_traps_commentary.md. -/
theorem test_words_transfer :
    decode 0x40C00005 = .ok (.beq ⟨12, 0, false, false, 5⟩) ∧ decode 0x38134000 = .ok (.jalr ⟨1, 13, false, 0⟩) ∧
    decode 0x44700FFD = .ok (.bne ⟨7, 0, false, false, 0xFFD⟩) ∧ decode 0x40800FFF = .ok (.beq ⟨8, 0, false, false, 0xFFF⟩) ∧
    decode 0x44C3403C = .ok (.bne ⟨12, 13, false, false, 60⟩) := by decide +kernel

/-- Loads, stores and atomics of spec/12_ordering_by_goal.md. -/
theorem test_words_memory :
    decode 0x70D50000 = .ok (.ld ⟨13, 20, false, 0, false, 0⟩) ∧ decode 0x70550002 = .ok (.ld ⟨5, 20, false, 0, false, 2⟩) ∧
    decode 0x68510000 = .ok (.lw ⟨5, 4, false, 0, false, 0⟩) ∧ decode 0x84910701 = .ok (.sd ⟨9, 4, false, false, 3, true, 1⟩) ∧
    decode 0x70810701 = .ok (.ld ⟨8, 4, false, 3, true, 1⟩) ∧ decode 0x84C080FF = .ok (.sd ⟨12, 2, false, false, 0, false, 0xFF⟩) ∧
    decode 0x90628B70 = .ok (.amodSwap ⟨6, 10, 11, 3, true⟩) ∧ decode 0x90C50D6A = .ok (.amodAddbnd ⟨12, 20, 13, 3, false⟩) ∧
    decode 0x90050F71 = .ok (.amodAdd ⟨0, 20, 15, 3, true⟩) := by decide +kernel

/-- SYNC, TASK, CACHE and SYS words of spec/07, 09, 12 and 24. -/
theorem test_words_system :
    decode 0x94028501 = .ok (.put ⟨10, 5, false, false⟩) ∧ decode 0x94428000 = .ok (.take ⟨4, 10, false⟩) ∧
    decode 0x9C50000E = .ok (.bara ⟨5⟩) ∧ decode 0x9C01400F = .ok (.barw ⟨5, false⟩) ∧ decode 0x9CC5000A = .ok (.enq ⟨12, 20, false⟩) ∧
    decode 0x9C124007 = .ok (.fork ⟨1, 9, false⟩) ∧ decode 0x9C004008 = .ok (.retf ⟨1, false⟩) ∧ decode 0x9C00C009 = .ok (.fwait ⟨3, false⟩) ∧
    decode 0xB4028B00 = .ok (.l2pf ⟨10, 11, false, false⟩) ∧ decode 0xB4428B01 = .ok (.l2disc ⟨4, 10, 11, false, false⟩) ∧
    decode 0xB4518702 = .ok (.l2zero ⟨5, 6, 7, false, false⟩) ∧ decode 0xB4518703 = .ok (.cflush ⟨5, 6, 7, false, false⟩) ∧
    decode 0xB4418704 = .ok (.tlbinv ⟨4, 6, 7, false, false⟩) ∧ decode 0xB841870A = .ok (.resume ⟨4, 6, 7, false, false⟩) ∧
    decode 0xB8C40102 = .ok (.srr ⟨12, 0x401⟩) ∧ decode 0xB8C40302 = .ok (.srr ⟨12, 0x403⟩) := by decide +kernel

/-- Vector, tile and copy words of spec/18, 19, 20 and 21. -/
theorem test_words_engines :
    decode 0xA48001D0 = .ok (.vrmax ⟨1, 0, 0, false⟩) ∧ decode 0xA8540080 = .ok (.vsplat ⟨5, 2⟩) ∧
    decode 0xA5840010 = .ok (.vsub ⟨3, 0, 2, 0, false⟩) ∧ decode 0xA5B000B0 = .ok (.vexp2 ⟨3, 3, 0, false⟩) ∧
    decode 0xA4B001C0 = .ok (.vradd ⟨1, 3, 0, false⟩) ∧ decode 0xA5B40040 = .ok (.vdiv ⟨3, 3, 2, 0, false⟩) ∧
    decode 0xA7820160 = .ok (.vcmplt ⟨7, 0, 1, 0, false⟩) ∧ decode 0xA4200228 = .ok (.vcopy ⟨0, 2, 0, true⟩) ∧
    decode 0xAC400000 = .ok (.tbind ⟨4⟩) ∧ decode 0xBC500080 = .ok (.tset ⟨5, 0⟩) ∧ decode 0xBC60A080 = .ok (.tset ⟨6, 5⟩) ∧
    decode 0xAC014003 = .ok (.tzero ⟨5, false⟩) ∧ decode 0xAC814702 = .ok (.tmma ⟨8, 5, 7, false, false⟩) ∧
    decode 0xAC014905 = .ok (.tstore ⟨5, 9, false, false⟩) ∧ decode 0xAC018804 = .ok (.tload ⟨6, 8, false, false⟩) ∧
    decode 0xAC400001 = .ok (.tfree ⟨4⟩) ∧ decode 0xBCA00180 = .ok (.cpset ⟨10, 0⟩) ∧ decode 0xBD012180 = .ok (.cpset ⟨16, 9⟩) ∧
    decode 0xB042C900 = .ok (.cpgo ⟨4, 11, 9, false, false⟩) := by decide +kernel

/-- R30, R31, R35: words that name no instruction. -/
theorem test_words_none :
    decode 0 = .ill .opcode ∧ decode 0xC0000000 = .ill .opcode ∧ decode 0xFFFFFFFF = .ill .opcode := by decide +kernel

/-- Every constructor with a word: what it encodes to decodes back to it, at operands with every field set. -/
theorem test_words_back :
    ([.jt ⟨5, 6, false, true, 0xABC⟩, .sq ⟨6, 7, true, false, 4, true, 0x81⟩, .fenceSc ⟨4⟩, .imask ⟨63⟩, .send ⟨5, 6, 7, true⟩,
      .recv ⟨6, 7⟩, .glaze ⟨5, 6, 7, false, false⟩, .vsacc ⟨1, 2, 3, 4, true⟩, .vfma ⟨1, 2, 3, 4, 2, true⟩, .strset ⟨5, 3, 12⟩,
      .ringget ⟨5, 7, 4⟩, .trytake ⟨8, 9, true⟩, .fesetRegister ⟨5⟩, .csel ⟨5, 6, 7, true, true⟩, .fma ⟨63, 62, 61, true, false⟩,
      .srw ⟨5, 0xC01, true⟩, .repart ⟨5, 6, false⟩, .iret, .exit, .halt, .breakI] : List Instr).all
      (fun i => match encode i with
        | some w => decide (decode w = .ok i)
        | none => false) = true := by decide +kernel

/-! ### Ill-formed terms, one for each check -/

/-- A scope above sys, an ord without a scope (R26). -/
theorem test_ill_scope : (Instr.ld ⟨5, 6, false, 5, false, 0⟩).check = some .scope ∧ (Instr.sd ⟨5, 6, false, false, 0, true, 0⟩).check = some .scope ∧
    (Instr.fenceSc ⟨0⟩).check = some .scope ∧ (Instr.amodAdd ⟨5, 6, 7, 0, true⟩).check = some .scope := by decide

/-- An odd pair, the pair of g0 (R41). -/
theorem test_ill_pair : (Instr.lq ⟨5, 6, false, 0, false, 0⟩).check = some .pair ∧ (Instr.trytake ⟨0, 6, false⟩).check = some .pair ∧
    (Instr.chnew ⟨7, 5, 6⟩).check = some .pair := by decide

/-- A format outside the instruction's set (R28, R241). -/
theorem test_ill_format : (Instr.vsqrt ⟨1, 2, 5, false⟩).check = some .format ∧ (Instr.vadd ⟨1, 2, 3, 10, false⟩).check = some .format := by decide

/-- s7 in a predicated word (R29). -/
theorem test_ill_predicate : (Instr.vadd ⟨1, 7, 3, 0, true⟩).check = some .predicate ∧ (Instr.vxcvt ⟨7, 2, true⟩).check = some .predicate := by decide

/-- A field index that R33 does not list. -/
theorem test_ill_field : (Instr.strget ⟨5, 1, 13⟩).check = some .field ∧ (Instr.tset ⟨5, 6⟩).check = some .field ∧
    (Instr.cpget ⟨5, 11⟩).check = some .field := by decide

/-- A system register number with no register, a write of a read-only one (R42). -/
theorem test_ill_sysreg : (Instr.srr ⟨5, 0x005⟩).check = some .sysReg ∧ (Instr.srw ⟨5, 0x200, false⟩).check = some .sysReg := by decide

/-- IMASK 0 (R32), FESET of g0 (R177). -/
theorem test_ill_counts : (Instr.imask ⟨0⟩).check = some .maskCount ∧ (Instr.fesetRegister ⟨0⟩).check = some .fesetForm ∧
    (Instr.feset ⟨0, 5, false, false⟩).check = some .fesetForm := by decide

/-- A well-formed term of each shape passes. -/
theorem test_well_formed : ([.add ⟨1, 2, 3, false, false⟩, .ld ⟨5, 6, false, 4, true, 0⟩, .lq ⟨6, 6, false, 0, false, 0⟩, .vadd ⟨1, 2, 3, 9, true⟩,
    .srr ⟨5, 0x200⟩, .imask ⟨1⟩, .strget ⟨5, 1, 12⟩] : List Instr).all (fun i => decide (i.check = none)) = true := by decide

/-! ### Small states -/

/-- A thread in M mode in context 0 with some registers set. -/
def thread (regs : List (RegNo × Word)) : Ctx :=
  regs.foldl (fun c p => c.setReg p.1 (GReg.of p.2 false)) { Ctx.zero with stop := none, pc := 0x1000 }

/-- A part that has booted as a 7880, in which core 5 of tower 0 has a context and the turn. Its flash
is empty, so that states can be compared. -/
def probeAs (c : Core) (k : Nat) (x : Ctx) : State :=
  { State.reset.asBooted with cur := (5, k), cores := [(5, c.setCtx k x)], flash := ⟨[], [], []⟩ }

/-- That part with a thread in context 0 that has some registers set. -/
def probe (regs : List (RegNo × Word)) : State := probeAs Core.fresh 0 (thread regs)

/-- The outcome is a next state with a property. -/
def goes (o : Host.Outcome State Fault Refusal) (p : State → Bool) : Bool :=
  match o with
  | .next t => p t
  | _ => false

/-- The next state's value of a register, with its PC. -/
def yields (i : Instr) (s : State) (d : RegNo) (v : Word) : Bool :=
  goes (exec i s) fun t => decide (t.g d = v) && decide (t.me.pc = 0x1004)

/-- The check of Ready. -/
def readyB (s : State) (u : Use) : Bool :=
  (u.fields.all fun n => decide (n.toNat < s.myCore.regCount)) && (u.srcs.all fun p => decide ((s.me.reg p.1).st = .full)) &&
  (u.srcs.all fun p => decide ((s.me.reg p.1).acq = none)) && (u.dsts.all fun n => decide ((s.me.reg n).st ≠ .pending))

theorem ready_of {s : State} {u : Use} (h : readyB s u = true) : Ready s u := by
  simp only [readyB, Bool.and_eq_true, List.all_eq_true, decide_eq_true_eq] at h
  exact ⟨h.1.1.1, h.1.1.2, h.1.2, h.2⟩

/-- The physical address of a byte of core 5's own scratchpad. -/
abbrev own (off : Nat) : Word := BitVec.ofNat 64 (0x080001400000 + off)

/-! ### Scalar instructions: the borderline values of spec/05_scalar_instructions.md -/

theorem test_add_wraps : yields (.add ⟨5, 6, 7, false, false⟩) (probe [(6, 0xFFFFFFFFFFFFFFFF), (7, 2)]) 5 1 = true := by decide +kernel
theorem test_addw : yields (.addw ⟨5, 6, 7, false, false⟩) (probe [(6, 0x7FFFFFFF), (7, 1)]) 5 0xFFFFFFFF80000000 = true := by decide +kernel
theorem test_sll_65 : yields (.sll ⟨5, 6, 7, false, false⟩) (probe [(6, 1), (7, 65)]) 5 2 = true := by decide +kernel
theorem test_mulh : yields (.mulh ⟨5, 6, 7, false, false⟩) (probe [(6, 0x8000000000000000), (7, 2)]) 5 0xFFFFFFFFFFFFFFFF = true := by decide +kernel
theorem test_mulhsu : yields (.mulhsu ⟨5, 6, 7, false, false⟩) (probe [(6, 0xFFFFFFFFFFFFFFFF), (7, 2)]) 5 0xFFFFFFFFFFFFFFFF = true := by decide +kernel
theorem test_srlw_0 : yields (.srlw ⟨5, 6, 7, false, false⟩) (probe [(6, 0x80000000)]) 5 0xFFFFFFFF80000000 = true := by decide +kernel
theorem test_csel_keeps : yields (.csel ⟨5, 6, 7, false, false⟩) (probe [(5, 9), (7, 8)]) 5 9 = true := by decide +kernel
theorem test_rol_source_is_rd : yields (.rol ⟨5, 5, 6, false, false⟩) (probe [(5, 0x8000000000000001), (6, 1)]) 5 3 = true := by decide +kernel
theorem test_sra_sign : yields (.sra ⟨5, 6, 7, false, false⟩) (probe [(6, 0x8000000000000000), (7, 63)]) 5 0xFFFFFFFFFFFFFFFF = true := by decide +kernel
theorem test_bswap : yields (.bswap ⟨5, 6, false⟩) (probe [(6, 0x0102030405060708)]) 5 0x0807060504030201 = true := by decide +kernel
theorem test_clz_0 : yields (.clz ⟨5, 6, false⟩) (probe []) 5 64 = true := by decide +kernel
theorem test_sltiu_minus1 : yields (.sltiu ⟨5, 6, false, 0x1FFF⟩) (probe [(6, 7)]) 5 1 = true := by decide +kernel
theorem test_lui : yields (.lui ⟨5, 0xFFFFF⟩) (probe []) 5 0xFFFFFFFFFFFFF000 = true := by decide +kernel
theorem test_auipc : yields (.auipc ⟨4, 0x10⟩) (probe []) 4 0x11000 = true := by decide +kernel

/-- R71: the value that a division leaves outstanding. -/
def divides (i : Instr) (a b q : Word) : Bool :=
  goes (exec i (probe [(6, a), (7, b)])) fun t => decide ((t.me.fills.map fun f => f.val) = [q]) && decide ((t.me.reg 5).st = .pending)

theorem test_div : divides (.div ⟨5, 6, 7, false, false⟩) (-7) 2 (-3) = true ∧ divides (.rem ⟨5, 6, 7, false, false⟩) (-7) 2 (-1) = true ∧
    divides (.div ⟨5, 6, 7, false, false⟩) 5 0 (-1) = true ∧ divides (.remu ⟨5, 6, 7, false, false⟩) 5 0 5 = true ∧
    divides (.div ⟨5, 6, 7, false, false⟩) 0x8000000000000000 (-1) 0x8000000000000000 = true ∧
    divides (.rem ⟨5, 6, 7, false, false⟩) 0x8000000000000000 (-1) 0 = true := by decide +kernel

/-- The rounding cases of R91's table: the instruction, the inputs, FPCTL before, the result, and the flags after. -/
def rounds (i : Instr) (a b rm r fl : Word) : Bool :=
  goes (exec i ((probe [(6, a), (7, b)]).setMe { (probe [(6, a), (7, b)]).me with fpctl := rm })) fun t =>
    decide (t.g 5 = r) && decide (t.me.fpctl = rm ||| fl)

theorem test_fadd_tie : rounds (.fadd ⟨5, 6, 7, false, false⟩) 0x3F800000 0x33800000 0 0x3F800000 0x10 = true := by decide +kernel
theorem test_ftobf_tie : rounds (.ftobf ⟨5, 6, false⟩) 0x3F808000 0 0 0x3F80 0x10 = true ∧
    rounds (.ftobf ⟨5, 6, false⟩) 0x3F818000 0 0 0x3F82 0x10 = true := by decide +kernel
theorem test_ftoi : rounds (.ftoi ⟨5, 6, false⟩) 0xC0200000 0 0 0xFFFFFFFFFFFFFFFE 0x10 = true ∧
    rounds (.ftoi ⟨5, 6, false⟩) 0x60AD78EC 0 0 0x7FFFFFFFFFFFFFFF 0x01 = true := by decide +kernel
theorem test_fmin_snan : rounds (.fmin ⟨5, 6, 7, false, false⟩) 0x7F800001 0x40000000 0 0x40000000 0x01 = true := by decide +kernel

/-- R38: a write of g0 is discarded. -/
theorem test_g0 : yields (.addi ⟨0, 6, false, 5⟩) (probe [(6, 5)]) 0 0 = true := by decide +kernel

/-- R82, R80: a taken branch backwards, a JALR that overwrites its own base. -/
theorem test_branch : goes (exec (.blt ⟨5, 6, false, false, 0xFFE⟩) (probe [(5, 0xFFFFFFFFFFFFFFFF)])) (fun t => decide (t.me.pc = 0xFF8)) = true := by
  decide +kernel
theorem test_jalr : goes (exec (.jalr ⟨1, 1, false, 4⟩) (probe [(1, 0x2000)])) (fun t => decide (t.me.pc = 0x2004) && decide (t.g 1 = 0x1004)) = true := by
  decide +kernel

/-! ### Witnesses: the hypotheses of every statement can be met -/

theorem wit_ScalarArithmetic : ∃ s i d u v, arithmetic i = true ∧ scalarResult s i = some (d, u, v) ∧ Ready s u :=
  ⟨probe [(6, 1)], .add ⟨5, 6, 7, true, false⟩, _, _, _, rfl, rfl, ready_of (by decide +kernel)⟩

theorem wit_ScalarShifts : ∃ s i d u v, shifting i = true ∧ scalarResult s i = some (d, u, v) ∧ Ready s u :=
  ⟨probe [(7, 65)], .sll ⟨5, 6, 7, true, false⟩, _, _, _, rfl, rfl, ready_of (by decide +kernel)⟩

theorem wit_ScalarMoves : (∃ s i d u v, (!arithmetic i && !shifting i) = true ∧ scalarResult s i = some (d, u, v) ∧ Ready s u) ∧
    ∃ (s : State) (o : R2), Ready s o.use :=
  ⟨⟨probe [(6, 1)], .csel ⟨5, 6, 7, true, false⟩, _, _, _, rfl, rfl, ready_of (by decide +kernel)⟩,
   probe [(6, 1)], ⟨5, 6, true⟩, ready_of (by decide +kernel)⟩

theorem wit_FpResults : (∃ s i d u v, quietFp i = true ∧ plainFpResult s i = some (d, u, v) ∧ Ready s u) ∧
    ∃ s i d u r, flaggingFp i = true ∧ fpResult s i = some (d, u, r) ∧ Ready s u :=
  ⟨⟨probe [(6, 0x7FC00001)], .fabs ⟨5, 6, true⟩, _, _, _, rfl, rfl, ready_of (by decide +kernel)⟩,
   probe [(6, 0x3F800000)], .fma ⟨5, 6, 7, true, false⟩, _, _, _, rfl, rfl, ready_of (by decide +kernel)⟩

theorem wit_LongLatencyIssue : ∃ s i d u r fp, longResult s i = some (d, u, r, fp) ∧ Ready s u :=
  ⟨probe [(6, 1)], .div ⟨0, 6, 7, true, false⟩, _, _, _, _, rfl, ready_of (by decide +kernel)⟩

theorem wit_Transfers : (∃ s i u d pc, transfer s i = some (u, d, pc) ∧ Ready s u ∧ pc.toNat % 4 = 0) ∧
    ∃ (s : State) (o : Imm), Ready s o.use ∧ (s.g o.a + o.i.signExtend 64).toNat % 4 ≠ 0 ∧ s.me.th = false :=
  ⟨⟨probe [(6, 0x2000)], .jalr ⟨1, 6, false, 4⟩, _, _, _, rfl, ready_of (by decide +kernel), by decide +kernel⟩,
   probe [(6, 0x2000)], ⟨1, 6, false, 2⟩, ready_of (by decide +kernel), by decide +kernel, by decide +kernel⟩

/-- A load of the own scratchpad, one of DRAM, and data that a tower's slice can answer with. -/
theorem wit_Loads :
    (∃ (s : State) (i : Instr) (o : Ld) (size : Nat) (signed pair : Bool) (w : Where) (off : Nat),
      loadForm i = some (o, size, signed, pair) ∧ Ready s (loadUse o pair) ∧ (memAddr s o.a o.i size).toNat % size = 0 ∧
      translate s s.who (memAddr s o.a o.i size) .load size = .ok w ∧ placeOf s w.pa = .spad s.cur.1 off ∧ Unhindered s w o.s.toNat) ∧
    (∃ (s : State) (i : Instr) (o : Ld) (size : Nat) (signed pair : Bool) (w : Where),
      loadForm i = some (o, size, signed, pair) ∧ Ready s (loadUse o pair) ∧ (memAddr s o.a o.i size).toNat % size = 0 ∧
      translate s s.who (memAddr s o.a o.i size) .load size = .ok w ∧ placeOf s w.pa = .dram ∧ Unhindered s w o.s.toNat ∧
      overlaps s s.cur.1 (gctx s.cur.1 s.cur.2) w.pa size = false) ∧
    ∃ (s : State) (g k : Nat) (op : LoadOp), alive s g k = true ∧ (s.ctx g k).park = some (.load op) ∧ op.table = none ∧ op.pair = false ∧
      overlaps s g (gctx g k) op.addr op.size = false ∧ canRead s g (lineOf op.addr) = true ∧ op.size ≤ 8 := by
  refine ⟨⟨probe [(6, own 0x20000)], .lq ⟨8, 6, false, 0, false, 1⟩, _, _, _, _, ⟨(own 0x20010).toNat, false, true⟩, 0x20010, rfl,
      ready_of (by decide +kernel), by decide +kernel, by decide +kernel, by decide +kernel, by unfold Unhindered; decide +kernel⟩,
    ⟨probe [(6, 0x2000)], .lb ⟨8, 6, false, 3, true, 0xFF⟩, _, _, _, _, ⟨0x1FFF, false, false⟩, rfl, ready_of (by decide +kernel),
      by decide +kernel, by decide +kernel, by decide +kernel, by unfold Unhindered; decide +kernel, by decide +kernel⟩,
    { probeAs Core.fresh 0 { thread [] with park := some (.load ⟨0x2000, false, 8, false, 5, false, 0, false, none⟩) } with
      lines := [(64, { LineTok.fresh with ctl := ⟨7, true, false, false, 0⟩, slices := [(0, ⟨.data, 1, false, 0, 0, 0, 0⟩)] })] },
    5, 0, ⟨0x2000, false, 8, false, 5, false, 0, false, none⟩, ?_⟩
  decide +kernel

/-- A store to the own scratchpad, and one to DRAM that the write buffer takes. -/
theorem wit_Stores :
    (∃ (s : State) (i : Instr) (o : St) (u : Use) (bs : List Byte) (t0 t1 : Bool) (w : Where) (off : Nat),
      storeForm s i = some (o, u, bs, t0, t1) ∧ Ready s u ∧ Memory.wf s.mem = true ∧
      (memAddr s o.a o.i bs.length).toNat % bs.length = 0 ∧
      translate s s.who (memAddr s o.a o.i bs.length) .store bs.length = .ok w ∧ placeOf s w.pa = .spad s.cur.1 off ∧
      protectedAt s.myCore off bs.length = false ∧ ((t0 || t1) = true → w.own = true) ∧
      Unhindered s w o.s.toNat ∧ s.me.fences = [] ∧ o.o = false) ∧
    ∃ (s : State) (i : Instr) (o : St) (u : Use) (bs : List Byte) (w : Where) (s' : State),
      storeForm s i = some (o, u, bs, false, false) ∧ Ready s u ∧ (memAddr s o.a o.i bs.length).toNat % bs.length = 0 ∧
      translate s s.who (memAddr s o.a o.i bs.length) .store bs.length = .ok w ∧ placeOf s w.pa = .dram ∧
      Unhindered s w o.s.toNat ∧ s.me.fences = [] ∧ o.o = false ∧ buffer s s.cur.1 s.cur.2 w (s.sc o.s) bs = some s' ∧
      lineBuffered s s.cur.1 (lineOf w.pa) = false ∧ w.pa % bs.length = 0 := by
  refine ⟨⟨probe [(6, own 0x20000), (8, 7)], .sq ⟨8, 6, false, false, 0, false, 1⟩, _, _, _, _, _, ⟨(own 0x20010).toNat, false, true⟩, 0x20010, rfl,
      ready_of (by decide +kernel), by decide +kernel, by decide +kernel, by decide +kernel, by decide +kernel, by decide +kernel,
      fun _ => rfl, by unfold Unhindered; decide +kernel, by decide +kernel, rfl⟩,
    probe [(6, 0x2000), (8, 7)], .sw ⟨8, 6, false, false, 3, false, 0xFF⟩, ⟨8, 6, false, false, 3, false, 0xFF⟩, _, _, ⟨0x1FFC, false, false⟩,
    (buffer (probe [(6, 0x2000), (8, 7)]) 5 0 ⟨0x1FFC, false, false⟩ 3 (leBytes 4 7)).getD State.reset, rfl,
    ready_of (by decide +kernel), by decide +kernel, by decide +kernel, by decide +kernel, by unfold Unhindered; decide +kernel,
    by decide +kernel, rfl, by decide +kernel⟩

/-- A state whose remote operation, atomic and so on stand as a test names them: DRAM line 64 is held whole by tower 0's slice. -/
def lineHeld (s : State) : State :=
  { s with lines := [(64, { LineTok.fresh with ctl := ⟨0, false, false, false, 0⟩, slices := [(0, ⟨.data, 8, true, 0, 0, 0, 0⟩)] })] }

theorem wit_Atomics :
    (∃ (s : State) (i : Instr) (o : Am) (wide : Bool) (aop : Nat) (w : Where) (off : Nat),
      atomForm i = some (o, wide, aop) ∧ Ready s (atomUse o aop) ∧ Memory.wf s.mem = true ∧ (s.g o.a).toNat % atomSize wide = 0 ∧
      translate s s.who (s.g o.a) .atomic (atomSize wide) = .ok w ∧ placeOf s w.pa = .spad s.cur.1 off ∧
      protectedAt s.myCore off (atomSize wide) = false ∧ AtomFree s o w) ∧
    (∃ (s : State) (i : Instr) (o : Am) (wide : Bool) (aop : Nat) (w : Where),
      atomForm i = some (o, wide, aop) ∧ Ready s (atomUse o aop) ∧ (s.g o.a).toNat % atomSize wide = 0 ∧
      translate s s.who (s.g o.a) .atomic (atomSize wide) = .ok w ∧ placeOf s w.pa = .dram ∧ s.gtag o.b = false ∧ AtomFree s o w) ∧
    (∃ (s : State) (n : Nat) (a : AtomOp), s.atoms[n]? = some a ∧ n = 0 ∧ a.reply = none ∧ a.aop < 12 ∧ Memory.wf s.mem = true ∧
      (∀ b ∈ s.atoms, b.via = none) ∧ placeOf s a.addr = .dram ∧ AtHome s a ∧ FirstOnItsWay s a) ∧
    (∃ (s : State) (n : Nat) (a : AtomOp) (v : Word), s.atoms[n]? = some a ∧ a.reply = some v ∧ a.rd ≠ 0 ∧ a.ord = false ∧
      a.core < 4096 ∧ (a.shadow = true → 24 ≤ a.rd.toNat ∧ a.rd.toNat < 32) ∧
      heldBack s (atomTower s a) (if isAtelier a.core then 8 else a.core / 256) a.stamp = false ∧ placeOf s a.addr = .dram ∧
      wrNext s (atomTower s a) a.tower a.stamp = true) ∧
    (∃ (s : State) (r : List Move) (a b : AtomOp), s.powered = true ∧ s.agenda = .combine 0 1 :: r ∧ s.atoms = [a, b] ∧ a.addr = b.addr ∧ a.wide = b.wide ∧
      a.aop = b.aop ∧ (1 ≤ a.aop ∧ a.aop ≤ 8 ∨ a.aop = 11) ∧ a.tower = b.tower ∧ a.reply = none ∧ b.reply = none ∧
      a.via = none ∧ b.via = none ∧ FirstOnItsWay s a ∧ b.held s (atomTower s b) = false) ∧
    ∃ (s : State) (a b : AtomOp) (p : Word), s.atoms = [a, b] ∧ a.reply = none ∧ b.reply = none ∧ a.via = none ∧ b.via = some (a.id, p) ∧
      a.id ≠ b.id ∧ a.rd ≠ 0 ∧ b.rd ≠ 0 ∧ b.aop < 9 ∧ placeOf s a.addr = .dram ∧ AtHome s a ∧ b.wide = a.wide ∧ FirstOnItsWay s a :=
  ⟨⟨probe [(6, own 0x20000), (7, 1)], .amodCas ⟨5, 6, 7, 0, false⟩, _, _, _, ⟨(own 0x20000).toNat, false, true⟩, 0x20000, rfl,
      ready_of (by decide +kernel), by decide +kernel, by decide +kernel, by decide +kernel, by decide +kernel, by decide +kernel,
      by unfold AtomFree; decide +kernel⟩,
   ⟨probe [(6, 0x2004), (7, 1)], .amowFadd ⟨5, 6, 7, 4, false⟩, _, _, _, ⟨0x2004, false, false⟩, rfl,
      ready_of (by decide +kernel), by decide +kernel, by decide +kernel, by decide +kernel, by decide +kernel, by unfold AtomFree; decide +kernel⟩,
   ⟨{ lineHeld (probe []) with atoms := [⟨1, 5, 0, 64, 0, false, 0x2000, false, true, 10, 1, 0, 5, 0, false, none, 1, none⟩] }, 0, _, rfl, by unfold AtHome FirstOnItsWay; decide +kernel⟩,
   ⟨{ probe [] with atoms := [⟨1, 5, 0, 64, 0, true, 0x2000, false, true, 1, 1, 0, 31, 0, false, some 9, 1, none⟩] }, 0, _, 9, rfl, by decide +kernel⟩,
   ⟨{ probe [] with agenda := [.combine 0 1], atoms := [⟨1, 5, 0, 64, 0, true, 0x2000, false, true, 1, 1, 0, 31, 0, false, none, 1, none⟩,
      ⟨2, 6, 0, 64, 0, true, 0x2000, false, true, 1, 1, 0, 31, 0, false, none, 2, none⟩] }, _, _, _, rfl, rfl, rfl, by unfold FirstOnItsWay; decide +kernel⟩,
   { lineHeld (probe []) with atoms := [⟨1, 5, 0, 64, 0, false, 0x2000, false, true, 1, 3, 0, 5, 0, false, none, 1, none⟩,
      ⟨2, 6, 0, 64, 0, false, 0x2000, false, true, 1, 2, 0, 5, 0, false, none, 2, some (1, 1)⟩] }, _, _, 1, rfl, by unfold AtHome FirstOnItsWay; decide +kernel⟩

theorem wit_FullEmptyReads :
    (∃ (s : State) (o : R2) (off : Nat) (own : Bool), Ready s o.use ∧ OwnFeWord s (s.g o.a) off own ∧ fullAt s s.cur.1 off = true) ∧
    (∃ (s : State) (o : R2) (off : Nat) (own : Bool), Ready s o.usePair ∧ OwnFeWord s (s.g o.a) off own) ∧
    ∃ (s : State) (n : Nat) (op : FeOp) (r : FeRes), s.feOps[n]? = some op ∧ op.res = some r ∧ r.acq = none ∧ op.rd ≠ 0 ∧ pairOf op.rd ≠ 0 ∧
      heldCore s op.owner (op.core / 256) op.doneAt = false :=
  ⟨⟨probe [(6, own 0x20000)], ⟨5, 6, false⟩, 0x20000, true, ready_of (by decide +kernel), by unfold OwnFeWord; decide +kernel, by decide +kernel⟩,
   ⟨probe [(6, own 0x20000)], ⟨8, 6, false⟩, 0x20000, true, ready_of (by decide +kernel), by unfold OwnFeWord; decide +kernel⟩,
   { probe [] with feOps := [⟨1, 5, 0, .trytake, 5, 0x20000, 0, false, 1, 8, some ⟨0, 7, false, true, none⟩, 1⟩] }, 0, _, _, rfl, rfl, by decide +kernel⟩

theorem wit_FullEmptyWrites :
    (∃ (s : State) (o : Rab) (off : Nat) (own : Bool), Ready s o.use ∧ OwnFeWord s (s.g o.a) off own ∧ Memory.wf s.mem = true ∧
      fullAt s s.cur.1 off = false ∧ popTaker (s.core s.cur.1).takers off = none ∧ protectedAt s.myCore off 8 = false ∧
      (s.gtag o.b = true → own = true) ∧ s.me.fences = [] ∧ s.me.relMark = none ∧ visibleAt s 1 s.cur.1 s.serial = true) ∧
    (∃ (s : State) (o : Rab) (off : Nat) (own : Bool), Ready s o.use ∧ OwnFeWord s (s.g o.a) off own ∧
      popTaker (s.core s.cur.1).takers off = none) ∧
    ∃ (s : State) (o : Rd), Ready s o.use ∧ o.d ≠ 0 :=
  ⟨⟨probeAs { Core.fresh with spEmpty := [0x20000] } 0 (thread [(6, own 0x20000), (7, 3)]), ⟨6, 7, false, false⟩, 0x20000, true,
      ready_of (by decide +kernel), by unfold OwnFeWord; decide +kernel, by decide +kernel⟩,
   ⟨probe [(6, own 0x20000)], ⟨6, 7, false, false⟩, 0x20000, true, ready_of (by decide +kernel), by unfold OwnFeWord; decide +kernel, by decide +kernel⟩,
   probe [], ⟨5⟩, ready_of (by decide +kernel), by decide⟩

theorem wit_OwnerCoreServes :
    (∃ (s : State) (n : Nat) (op : FeOp), s.feOps[n]? = some op ∧ op.res = none ∧ op.kind = .take ∧ fullAt s op.owner op.off = true ∧
      heldCore s op.core (op.owner / 256) op.id = false ∧ ownPending s op.core op.ctx (windowOf op.owner + op.off) = false) ∧
    (∃ (s : State) (r : RemoteOp) (rest : List RemoteOp) (g off : Nat) (bs : List Byte), s.remotes = r :: rest ∧ r.data = none ∧
      placeOf s r.addr = .spad g off ∧ r.store = some bs ∧ heldCore s r.core (g / 256) r.stamp = false ∧ Memory.wf s.mem = true) ∧
    (∃ (s : State) (r : RemoteOp) (rest : List RemoteOp) (g off : Nat), s.remotes = r :: rest ∧ r.data = none ∧
      placeOf s r.addr = .spad g off ∧ r.store = none ∧ heldCore s r.core (g / 256) r.stamp = false) ∧
    ∃ (s : State) (g k h o : Nat), (s.ctx g k).park = some (.takeRetry h o) :=
  ⟨⟨{ probe [] with feOps := [⟨1, 6, 0, .take, 5, 0x20000, 0, false, 1, 8, none, 1⟩] }, 0, _, rfl, by decide +kernel⟩,
   ⟨{ probe [] with remotes := [⟨1, 6, 0, 64, (own 0x20000).toNat, 8, some (leBytes 8 5), none, 1, none⟩] }, _, _, 5, 0x20000, _, rfl, rfl,
      by decide +kernel, rfl, by decide +kernel⟩,
   ⟨{ probe [] with remotes := [⟨1, 6, 0, 64, (own 0x20000).toNat, 8, none, none, 1, none⟩] }, _, _, 5, 0x20000, rfl, rfl, by decide +kernel, rfl,
      by decide +kernel⟩,
   probeAs Core.fresh 0 { thread [] with park := some (.takeRetry 5 64) }, 5, 0, 5, 64, by decide +kernel⟩

theorem wit_WaitingAndMasking :
    (∃ (s : State) (o : R2), Ready s o.use ∧ s.me.evl &&& (if s.g o.a = 0 then BitVec.allOnes 64 else s.g o.a) ≠ 0) ∧
    (∃ (s : State) (o : R3) (w : Where), Ready s o.use ∧ (s.g o.a).toNat % 8 = 0 ∧ translate s s.who (s.g o.a) .load 8 = .ok w ∧
      Unhindered s w 3 ∧ ownPending s s.cur.1 s.cur.2 w.pa = false ∧ overlaps s s.cur.1 (gctx s.cur.1 s.cur.2) w.pa 8 = false ∧
      seen64 s s.cur.1 s.cur.2 w.pa = s.g o.b) ∧
    (∃ (s : State) (g k : Nat) (m : Word), (s.ctx g k).park = some (.wait m) ∧ (s.ctx g k).evl &&& m ≠ 0) ∧
    (∃ (s : State) (g k a : Nat) (eq : Bool) (v : Word), (s.ctx g k).park = some (.waita a eq v) ∧ decide (seen64 s g k a = v) = eq) ∧
    (∃ s : State, s.me.ih = true ∧ s.me.iepc.toNat % 4 = 0) ∧ ∃ s : State, s.me.ih = false ∧ s.me.th = false :=
  ⟨⟨probeAs Core.fresh 0 { thread [] with evl := 4 }, ⟨5, 6, false⟩, ready_of (by decide +kernel), by decide +kernel⟩,
   ⟨probe [(6, 0x2000)], ⟨5, 6, 7, false, false⟩, ⟨0x2000, false, false⟩, ready_of (by decide +kernel), by decide +kernel, by decide +kernel,
      by unfold Unhindered; decide +kernel, by decide +kernel⟩,
   ⟨probeAs Core.fresh 0 { thread [] with park := some (.wait 6), evl := 4 }, 5, 0, 6, by decide +kernel⟩,
   ⟨probeAs Core.fresh 0 { thread [] with park := some (.waita 0x2000 false 4) }, 5, 0, 0x2000, false, 4, by decide +kernel⟩,
   ⟨probeAs Core.fresh 0 { thread [] with ih := true, iepc := 0x2000 }, by decide +kernel⟩, probe [], by decide +kernel⟩

theorem wit_Fences :
    (∃ (s : State) (o : Fn), vectorBusy s s.cur.1 s.cur.2 = false ∧ s.me.lastLoad = some 0 ∧ 2 ≤ s.sc o.s ∧ s.me.relMark = none ∧
      visibleAt s (s.sc o.s) s.cur.1 s.serial = true) ∧
    ∃ (s : State) (o : Fn), vectorBusy s s.cur.1 s.cur.2 = false ∧ s.me.relMark = none ∧ visibleAt s (s.sc o.s) s.cur.1 s.serial = false :=
  ⟨⟨probeAs Core.fresh 0 { thread [] with lastLoad := some 0 }, ⟨2⟩, by decide +kernel⟩, probeAs { Core.fresh with wbuf := [⟨64, 0, 0, [⟨0, 1, 0, gctx 5 0, 0, 64⟩], 0⟩] } 0 (thread []), ⟨4⟩, by decide +kernel⟩

/-- R30, R315: the trap entries; R316; R35: HALT in S mode, START outside context 0. -/
theorem wit_Traps : (∃ s : State, s.me.th = false) ∧ (∃ s : State, Allowed s .s false ∧ s.me.epc.toNat % 4 = 0) ∧
    (∃ s i lowest zeroOnly w, privileged i = some (lowest, zeroOnly) ∧ ¬ Allowed s lowest zeroOnly ∧ encode i = some w ∧ s.me.th = false) ∧
    ∃ s i lowest zeroOnly w, privileged i = some (lowest, zeroOnly) ∧ lowest.code ≤ s.me.mode.code ∧ ¬ Allowed s lowest zeroOnly ∧
      encode i = some w ∧ s.me.th = false := by
  refine ⟨⟨probe [], by decide +kernel⟩, ⟨probe [], by unfold Allowed; decide +kernel⟩,
    ⟨probeAs Core.fresh 0 { thread [] with mode := .s }, .halt, .m, false, BitVec.ofNat 32 ((encodeNat .halt).getD 0), rfl, ?_, by decide +kernel, by decide +kernel⟩,
    probeAs Core.fresh 3 { thread [] with mode := .s }, .reap ⟨5, 6, false⟩, .s, true, BitVec.ofNat 32 ((encodeNat (.reap ⟨5, 6, false⟩)).getD 0), rfl,
      by decide +kernel, ?_, by decide +kernel, by decide +kernel⟩ <;> unfold Allowed <;> decide +kernel

theorem wit_SystemRegisters :
    (∃ (s : State) (o : Srd) (v : Word), sysReads s o.n.toNat = some v ∧ Allowed s (Mode.ofCode (o.n.toNat / 1024)) false ∧ Ready s o.use ∧
      (o.n = 3 → fpctlBusy s s.cur.1 s.cur.2 = false)) ∧
    ((∃ (s : State) (i : Instr) (o : Swr) (x v : Word), o.n.toNat ∈ writableRegs ∧ sysReads s o.n.toNat = some x ∧ sysNew x i (s.g o.d) = some (o, v) ∧
      Allowed s (Mode.ofCode (o.n.toNat / 1024)) false ∧ Ready s o.use ∧ (o.n = 3 → fpctlBusy s s.cur.1 s.cur.2 = false) ∧ o.n = 3) ∧
      (∃ s : State, acceptsArea s.myCore 0x80000 s.myCore.savesize) ∧ ∃ s : State, ¬ acceptsArea s.myCore s.myCore.savebase 0x40001) :=
  ⟨⟨probe [], ⟨5, 0xC01⟩, _, rfl, by unfold Allowed; decide +kernel, ready_of (by decide +kernel), by decide +kernel⟩,
   ⟨probe [(5, 7)], .srs ⟨5, 0x003, false⟩, _, _, _, by decide +kernel, rfl, rfl, by unfold Allowed; decide +kernel, ready_of (by decide +kernel),
     by decide +kernel, rfl⟩,
   ⟨probe [], by unfold acceptsArea; decide +kernel⟩, probe [], by unfold acceptsArea; decide +kernel⟩

theorem wit_ContextEvents :
    (∃ (s : State) (g k : Nat), (s.ctx g k).yieldHold = true) ∧ (∃ s : State, s.me.mode = .m) ∧
    (∃ (s : State) (g k : Nat) (f : Fill) (r : List Fill), (s.ctx g k).fills = f :: r ∧ f.grid = none ∧ (∀ e ∈ r, e.grid = none) ∧ 0 < f.reg ∧ f.reg < 64 ∧ (f.shadow = true → 24 ≤ f.reg ∧ f.reg < 32)) ∧
    (∃ (s : State) (g k : Nat) (d : Deferred) (r : List Deferred), (s.ctx g k).deferred = d :: r ∧ alive s g k = true ∧
      atBoundary (s.ctx g k) = true ∧ (s.ctx g k).th = false) ∧
    (∃ (s s' : State) (n : Nat) (r : FaultRec), s.faultWait[n]? = some r ∧ tryPost s r = some s') ∧
    (∃ (s : State) (r : List Move) (g off : Nat), s.powered = true ∧ s.agenda = .upset (windowOf g + off) .nobody :: r ∧ off % 8 = 0 ∧
      placeOf s (windowOf g + off) = .spad g off ∧ Memory.wf s.mem = true ∧ fullAt s g off = true ∧
      queueHeader s (faultQueueOf s ((coreBasin s g).getD 64)) = 0) ∧
    ∃ (s : State) (r : List Move) (tower : Nat) (dram : Bool), s.powered = true ∧ s.agenda = .corrected tower dram :: r ∧ towerPresent s tower = true :=
  ⟨⟨probeAs Core.fresh 0 { thread [] with yieldHold := true }, 5, 0, by decide +kernel⟩, ⟨probe [], by decide +kernel⟩,
   ⟨probeAs Core.fresh 0 { thread [] with fills := [⟨true, 31, 9, 1, true, none⟩] }, 5, 0, _, _, rfl, by decide +kernel⟩,
   ⟨probeAs Core.fresh 0 { thread [] with deferred := [⟨0x14, 8, 0⟩] }, 5, 0, _, _, rfl, by decide +kernel⟩,
   ⟨{ probe [] with afqhdr := 0x4000, mem := [(0x4010, 4)], faultWait := [⟨64, 0, 9, 0, 0, 0, 0, 0, [], none⟩] },
      (tryPost { probe [] with afqhdr := 0x4000, mem := [(0x4010, 4)], faultWait := [⟨64, 0, 9, 0, 0, 0, 0, 0, [], none⟩] }
        ⟨64, 0, 9, 0, 0, 0, 0, 0, [], none⟩).getD State.reset, 0, ⟨64, 0, 9, 0, 0, 0, 0, 0, [], none⟩, rfl, by decide +kernel⟩,
   ⟨{ probe [] with agenda := [.upset (windowOf 5 + 0xBFFF8) .nobody], mem := [(windowOf 5 + 0xBFFF8, 1)] }, _, 5, 0xBFFF8, rfl, rfl, by decide +kernel⟩,
   { probe [] with agenda := [.corrected 7 true] }, _, 7, true, rfl, rfl, by decide +kernel⟩

/-- A thread of S-mode code in context 0. -/
def sThread (regs : List (RegNo × Word)) : Ctx := { thread regs with mode := .s }

/-- Core 5 with contexts 0 and k. -/
def coreWith (k : Nat) (x : Ctx) (c : Core) : Core := c.setCtx k x

theorem wit_CacheInstructions :
    (∃ (s : State) (o : R3), Ready s o.use ∧ s.me.fences = [] ∧ s.me.range = none ∧ (s.g o.a).toNat % 128 = 0 ∧ s.g o.b = 0) ∧
    (∃ (s : State) (o : R3), Ready s o.use ∧ s.me.fences = [] ∧ s.me.th = false ∧ (s.g o.b).toNat % 128 ≠ 0) ∧
    (∃ (s s0 s' : State) (o : R3) (w : Where), Ready s o.use ∧ s.me.fences = [] ∧ s.me.range = none ∧ (s.g o.a).toNat % 128 = 0 ∧ s.g o.b = 128 ∧
      Memory.wf s0.mem = true ∧ translateNow s s.who (s.g o.a) LineOp.disc.access 128 = (.ok w, s0) ∧ placeOf s0 w.pa = .dram ∧
      lineDraining s0 s.cur.1 s.cur.2 (lineOf w.pa) = false ∧
      lineHolds s0 .disc (lineOf w.pa) (homeSlice s0 w.vault w.pa) (maskOf s0 s.cur.1) = some s' ∧ flook s'.stale (lineOf w.pa) = none) ∧
    (∃ (s : State) (o : Rab), Ready s o.use ∧ (s.g o.a).toNat % 128 = 0 ∧ (s.g o.b).toNat % 128 = 0 ∧ s.g o.b ≠ 0) ∧
    (∃ (s : State) (o : R3), Allowed s .s false ∧ Ready s o.use ∧ s.me.mode = .m ∧ s.g o.b = 2 ∧ s.me.relMark = none ∧
      visibleAt s 3 s.cur.1 s.serial = false) ∧
    (∃ (s : State) (o : R3), Allowed s .s false ∧ Ready s o.use ∧ s.me.mode = .m ∧ s.g o.b = 2 ∧ s.me.relMark = none ∧
      visibleAt s 3 s.cur.1 s.serial = true) ∧
    (∃ (s : State) (o : R3) (m : Nat), Allowed s .s false ∧ Ready s o.use ∧ s.me.mode = .m ∧ s.g o.b = 2 ∧ s.me.relMark = some m ∧
      s.me.inval = none ∧ visibleAt s 3 s.cur.1 m = true) ∧
    ∃ (s : State) (o : R3) (m n : Nat), Allowed s .s false ∧ Ready s o.use ∧ s.me.mode = .m ∧ s.g o.b = 2 ∧ s.me.relMark = some m ∧
      s.me.inval = some n ∧ allPerformed s m n = true :=
  ⟨⟨probe [(6, 0x2000)], ⟨5, 6, 7, false, false⟩, ready_of (by decide +kernel), by decide +kernel⟩,
   ⟨probe [(6, 0x2000), (7, 127)], ⟨5, 6, 7, false, false⟩, ready_of (by decide +kernel), by decide +kernel⟩,
   ⟨lineHeld (probe [(6, 0x2000), (7, 128)]), lineHeld (probe [(6, 0x2000), (7, 128)]),
      (lineHolds (lineHeld (probe [(6, 0x2000), (7, 128)])) .disc 64 (homeSlice (probe []) false 0x2000) (maskOf (probe []) 5)).getD State.reset,
      ⟨5, 6, 7, false, false⟩, ⟨0x2000, false, false⟩, ready_of (by decide +kernel), by decide +kernel⟩,
   ⟨probe [(6, 0x2000), (7, 256)], ⟨6, 7, false, false⟩, ready_of (by decide +kernel), by decide +kernel⟩,
   ⟨probeAs { Core.fresh with wbuf := [⟨64, 0, 0, [⟨0, 1, 0, gctx 5 0, 0, 64⟩], 0⟩] } 0 (thread [(7, 2)]), ⟨5, 6, 7, false, false⟩,
      by unfold Allowed; decide +kernel, ready_of (by decide +kernel), by decide +kernel⟩,
   ⟨probe [(7, 2)], ⟨5, 6, 7, false, false⟩, by unfold Allowed; decide +kernel, ready_of (by decide +kernel), by decide +kernel⟩,
   ⟨probeAs Core.fresh 0 { thread [(7, 2)] with relMark := some 1 }, ⟨5, 6, 7, false, false⟩, 1, by unfold Allowed; decide +kernel,
     ready_of (by decide +kernel), by decide +kernel⟩,
   probeAs Core.fresh 0 { thread [(7, 2)] with relMark := some 1, inval := some 1 }, ⟨5, 6, 7, false, false⟩, 1, 1, by unfold Allowed; decide +kernel,
     ready_of (by decide +kernel), by decide +kernel⟩

theorem wit_ContextInstructions :
    (∃ (s : State) (o : Rd), Ready s o.use) ∧
    (∃ s : State, s.cur.2 ≠ 0 ∧ openEnd s s.cur.1 s.cur.2 = none ∧ s.me.anyPending = false ∧ vectorBusy s s.cur.1 s.cur.2 = false ∧
      heldEnds s s.cur.1 s.cur.2 = [] ∧ s.me.group = none ∧ isBinder s = false ∧ s.me.owned = true) ∧
    (∃ (s : State) (o : R3), Allowed s .s true ∧ Ready s o.use ∧ goodCtx s (s.g o.a) = true ∧ s.g o.b = 0 ∧
      (s.ctx s.cur.1 (s.g o.a).toNat).phase = .held ∧ vectorBusy s s.cur.1 s.cur.2 = false ∧ s.me.relMark = none ∧
      visibleAt s 1 s.cur.1 s.serial = true) ∧
    (∃ (s : State) (o : R2), Allowed s .s true ∧ Ready s o.use ∧ goodCtx s (s.g o.a) = true ∧ (s.ctx s.cur.1 (s.g o.a).toNat).phase = .done) ∧
    ∃ (s : State) (o : R3) (k n : Nat), Allowed s .s true ∧ Ready s o.use ∧ 1 ≤ k ∧ k < s.myCore.count ∧ k < 16 ∧ 1 ≤ n ∧ n < s.myCore.regCount ∧
      n < 64 ∧ s.g o.a = BitVec.ofNat 64 (256 * n + k) ∧ (s.ctx s.cur.1 k).phase = .held :=
  ⟨⟨probe [], ⟨5⟩, ready_of (by decide +kernel)⟩,
   ⟨probeAs Core.fresh 3 { thread [] with owned := true }, by decide +kernel⟩,
   ⟨probeAs (coreWith 15 { Ctx.fresh with phase := .held } Core.fresh) 0 (sThread [(6, 15)]), ⟨5, 6, 7, false, false⟩,
      by unfold Allowed; decide +kernel, ready_of (by decide +kernel), by decide +kernel⟩,
   ⟨probeAs (coreWith 1 { Ctx.fresh with phase := .done } Core.fresh) 0 (sThread [(6, 1)]), ⟨5, 6, false⟩,
      by unfold Allowed; decide +kernel, ready_of (by decide +kernel), by decide +kernel⟩,
   probeAs (coreWith 15 { Ctx.fresh with phase := .held } Core.fresh) 0 (sThread [(6, 256 * 31 + 15)]), ⟨5, 6, 7, false, false⟩, 15, 31,
      by unfold Allowed; decide +kernel, ready_of (by decide +kernel), by decide +kernel⟩

/-- A record of a deque. -/
def contRec : DqRec := ⟨0x1234, 7, 0x2000, .m, 64, 0, false, ⟨5, 0, false⟩⟩

theorem wit_ForksAndQueues :
    (∃ (s : State) (o : R2), Ready s (forkUse o) ∧ (s.g o.a).toNat % 4 = 0 ∧ s.myCore.deque.length < 64 ∧
      vectorBusy s s.cur.1 s.cur.2 = false ∧ s.me.relMark = none ∧ visibleAt s 1 s.cur.1 s.serial = true) ∧
    (∃ (s : State) (o : R2), Ready s (forkUse o) ∧ (s.g o.a).toNat % 4 = 0 ∧ 64 ≤ s.myCore.deque.length) ∧
    (∃ (s : State) (o : Ra), Ready s o.use ∧ (s.g o.a).toNat % 4 = 0) ∧
    (∃ (s : State) (o : Ra) (r : DqRec), Ready s o.use ∧ (s.g o.a).toNat % 4 = 1 ∧ (s.me.reg 3).st = .full ∧ newestRec s.myCore s.cur.2 = some r ∧
      r.pc = s.g o.a - 1 ∧ r.g3 = s.g 3 ∧ (s.me.reg 2).st ≠ .pending) ∧
    (∃ (s : State) (o : Ra) (w : Where), Ready s o.use ∧ (s.g o.a).toNat % 8 = 0 ∧ translate s s.who (s.g o.a) .load 8 = .ok w ∧
      Unhindered s w 3 ∧ ownPending s s.cur.1 s.cur.2 w.pa = false ∧ overlaps s s.cur.1 (gctx s.cur.1 s.cur.2) w.pa 8 = false ∧
      seen64 s s.cur.1 s.cur.2 w.pa = 0) ∧
    (∃ (s : State) (g k a : Nat), (s.ctx g k).park = some (.fwait a) ∧ seen64 s g k a = 0) ∧
    ∃ (s : State) (o : R2) (w : Where) (off : Nat) (r : ReadyRec), Ready s o.use ∧ (s.g o.a).toNat % 64 = 0 ∧
      translate s s.who (s.g o.a) .load 64 = .ok w ∧ placeOf s w.pa = .spad s.cur.1 off ∧
      (w.own = true → ∀ i, i < 8 → tagAt s s.cur.1 (off + 8 * i) = false) ∧ vectorBusy s s.cur.1 s.cur.2 = false ∧
      parseRecord s (recordBasin s) s.me.mode ((wordsOf 8 (readBytes s.mem w.pa 64)).map fun v => (v, false)) = some (r, false) ∧
      s.cur.1 < 2048 ∧ inTowers r.towers (towerOf s.cur.1) = true ∧ s.me.relMark = none ∧ visibleAt s 2 s.cur.1 s.serial = true ∧
      ∀ n, ((s.tower (towerOf s.cur.1)).bank n).length < 256 :=
  ⟨⟨probe [(6, 0x2000)], ⟨1, 6, false⟩, ready_of (by decide +kernel), by decide +kernel⟩,
   ⟨probeAs { Core.fresh with deque := List.replicate 64 contRec } 0 (thread [(6, 0x2000)]), ⟨1, 6, false⟩, ready_of (by decide +kernel), by decide +kernel⟩,
   ⟨probe [(6, 0x2000)], ⟨6, false⟩, ready_of (by decide +kernel), by decide +kernel⟩,
   ⟨probeAs { Core.fresh with deque := [contRec] } 0 (thread [(3, 0x2000), (6, 0x1235)]), ⟨6, false⟩, contRec, ready_of (by decide +kernel),
      by decide +kernel⟩,
   ⟨probe [(6, 0x2000)], ⟨6, false⟩, ⟨0x2000, false, false⟩, ready_of (by decide +kernel), by decide +kernel, by decide +kernel,
      by unfold Unhindered; decide +kernel, by decide +kernel⟩,
   ⟨probeAs Core.fresh 0 { thread [] with park := some (.fwait 0x2000) }, 5, 0, 0x2000, by decide +kernel⟩,
   { probe [(6, own 0x20000)] with mem := [(0x080001420000 + 48, 1)] }, ⟨5, 6, false⟩, ⟨0x080001420000, false, true⟩, 0x20000,
     ⟨.launch 0 (List.replicate 5 (0, false)), .m, 64, 0, 0, none, [], 1, []⟩, by
       and_intros <;> first | exact ready_of (by decide +kernel) | exact fun _ => Nat.zero_lt_succ _ | decide +kernel⟩

theorem wit_DispatcherFills :
    (∃ (s : State) (g k : Nat) (r : ReadyRec) (l : List ReadyRec) (pc : Word), freeCtx s g = some k ∧ (s.core g).asleep = false ∧
      bedMoving s g = false ∧ corePresent s g = true ∧ (s.core g).stolen = r :: l ∧ r.work = .launch pc []) ∧
    (∃ (s s1 : State) (g k : Nat) (r : DqRec) (l : List DqRec) (w : Where), freeCtx s g = some k ∧ (s.core g).asleep = false ∧ bedMoving s g = false ∧
      corePresent s g = true ∧ (s.core g).stolen = [] ∧ (s.core g).deque = r :: l ∧ r.pinned = false ∧ r.basin = queueBasin s g ∧ r.g3.toNat % 8 = 0 ∧
      translateNow s ⟨g, r.mode, r.basin⟩ r.g3 .atomic 8 = (.ok w, s1) ∧ placeOf s1 w.pa ≠ .device ∧ protectedPlace s1 w.pa 8 = false ∧
      lineBuffered s1 g (lineOf w.pa) = false ∧ (∀ e ∈ (s1.tower (sliceTower s1 g)).outbound, e.line ≠ lineOf w.pa) ∧ Memory.wf s1.mem = true) ∧
    (∃ (s : State) (g : Nat), (s.core g).asleep = true) ∧
    (∃ (s : State) (g n : Nat) (q : Steal) (r : ReadyRec), (s.core g).steal = some q ∧ q.answered = false ∧ corePresent s g = true ∧
      towerPresent s q.tower = true ∧ bestToSend s q.tower g = some (n, r)) ∧
    ∃ (s : State) (g k : Nat) (q : Steal) (r : ReadyRec) (pc : Word), (s.core g).steal = some q ∧ q.answered = true ∧ q.found = some r ∧
      freeCtx s g = some k ∧ bedMoving s g = false ∧ corePresent s g = true ∧ r.work = .launch pc [] := by
  exact ⟨⟨probeAs { Core.fresh with stolen := [⟨.launch 0x3000 [], .u, 0, 0, 0, none, [], 1, []⟩] } 0 (thread []), 5, 1, _, _, 0x3000,
      by decide +kernel, by decide +kernel, by decide +kernel, by decide +kernel, rfl, rfl⟩,
    ⟨probeAs { Core.fresh with deque := [contRec] } 0 (thread []), probeAs { Core.fresh with deque := [contRec] } 0 (thread []), 5, 1, contRec, [],
      ⟨0x2000, false, false⟩, by decide +kernel⟩,
    ⟨probeAs { Core.fresh with asleep := true } 0 (thread []), 5, by decide +kernel⟩,
    ⟨{ probeAs { Core.fresh with steal := some ⟨1, false, none⟩ } 0 (thread []) with
        towers := [(1, { Tower.fresh with banks := [(0, [⟨.launch 0x3000 [], .m, 64, 7, 0, none, [], 255, []⟩])] })] },
      5, 0, ⟨1, false, none⟩, ⟨.launch 0x3000 [], .m, 64, 7, 0, none, [], 255, []⟩, by decide +kernel⟩,
    probeAs { Core.fresh with steal := some ⟨1, true, some ⟨.launch 0x3000 [], .m, 64, 7, 0, none, [], 255, []⟩⟩ } 0 (thread []), 5, 1, _, _, 0x3000,
      rfl, rfl, rfl, by decide +kernel⟩

/-- A group record at DRAM address 0x2000 with SIZE 3, and a thread that has joined it. -/
def member : Member := ⟨0x2000, 0x2000, false, false, false, false, none⟩

def inGroup (m : Member) (regs : List (RegNo × Word)) : State :=
  { probeAs Core.fresh 0 { thread regs with group := some m } with mem := [(0x2000, 3)] }

theorem wit_Groups :
    (∃ (s : State) (o : R2) (w : Where), Ready s o.use ∧ s.me.group = none ∧ GroupRecord s (s.g o.a) w ∧ Memory.wf s.mem = true) ∧
    (∃ (s : State) (o : R2), Ready s o.use ∧ s.me.group.isSome = true) ∧
    (∃ (s : State) (o : Rd) (m : Member), Ready s o.use ∧ s.me.group = some m ∧ m.arrived = false ∧ Memory.wf s.mem = true ∧
      recArrived s m.record + 1 < recSize s m.record) ∧
    (∃ (s : State) (o : Rd) (m : Member), Ready s o.use ∧ s.me.group = some m ∧ m.arrived = false ∧ Memory.wf s.mem = true ∧
      recSize s m.record = 1) ∧
    (∃ (s : State) (o : Rd), Ready s o.use ∧ s.me.group = none) ∧
    (∃ (s : State) (o : Rd) (m : Member), Ready s o.use ∧ s.me.group = some m ∧ vectorBusy s s.cur.1 s.cur.2 = false ∧ m.inPhase s = false ∧
      m.bar ≠ some s.me.pc) ∧
    (∃ (s : State) (o : Rd) (m : Member), Ready s o.use ∧ s.me.group = some m ∧ m.bar = some s.me.pc ∧ PhaseOver s m.record m.target) ∧
    (∃ (s : State) (o : Ra) (m : Member), Ready s o.use ∧ s.me.group = some m ∧ (s.g o.a).getLsbD 63 = false ∧
      PhaseOver s m.record ((s.g o.a).getLsbD 0)) ∧
    (∃ (s : State) (o : Ra) (m : Member), Ready s o.use ∧ s.me.group = some m ∧ (s.g o.a).getLsbD 63 = false ∧
      recSense s m.record ≠ (s.g o.a).getLsbD 0) ∧
    (∃ (s : State) (n : Nat) (a : Arrival), s.arrivals[n]? = some a ∧ Memory.wf s.mem = true ∧ recArrived s a.record + a.n < 2 ^ 32 ∧
      heldCore s a.core (homeSlice s a.vault (128 * lineOf a.record) / 256) a.acq.mark = false ∧ visibleAt s (recScope s a.record) a.core a.acq.mark = true ∧
      ((read64 s.mem (a.record + 16)).toNat / 2 ^ 7) % 2 = 0 ∧ 0 < recSize s a.record ∧ recArrived s a.record + a.n < recSize s a.record) ∧
    (∃ (s : State) (n : Nat) (a : Arrival), s.arrivals[n]? = some a ∧ Memory.wf s.mem = true ∧ recArrived s a.record + a.n < 2 ^ 32 ∧
      heldCore s a.core (homeSlice s a.vault (128 * lineOf a.record) / 256) a.acq.mark = false ∧ visibleAt s (recScope s a.record) a.core a.acq.mark = true ∧
      ((read64 s.mem (a.record + 16)).toNat / 2 ^ 7) % 2 = 0 ∧ 0 < recSize s a.record ∧ recSize s a.record ≤ recArrived s a.record + a.n) ∧
    ∃ (s : State) (g k r : Nat) (sense bar : Bool), (s.ctx g k).park = some (.barrier r sense bar) ∧ PhaseOver s r sense :=
  ⟨⟨probe [(6, 0x2000)], ⟨5, 6, false⟩, ⟨0x2000, false, false⟩, ready_of (by decide +kernel), by decide +kernel, by unfold GroupRecord; decide +kernel,
      by decide +kernel⟩,
   ⟨inGroup member [], ⟨5, 6, false⟩, ready_of (by decide +kernel), by decide +kernel⟩,
   ⟨inGroup member [], ⟨5⟩, member, ready_of (by decide +kernel), by decide +kernel⟩,
   ⟨{ inGroup member [] with mem := [(0x2000, 1)] }, ⟨5⟩, member, ready_of (by decide +kernel), by decide +kernel⟩,
   ⟨probe [], ⟨5⟩, ready_of (by decide +kernel), by decide +kernel⟩,
   ⟨inGroup member [], ⟨5⟩, member, ready_of (by decide +kernel), by decide +kernel⟩,
   ⟨inGroup { member with bar := some 0x1000 } [], ⟨5⟩, _, ready_of (by decide +kernel), rfl, by decide +kernel, by unfold PhaseOver; decide +kernel⟩,
   ⟨inGroup member [(6, 2)], ⟨6, false⟩, member, ready_of (by decide +kernel), by decide +kernel, by decide +kernel, by unfold PhaseOver; decide +kernel⟩,
   ⟨inGroup member [(6, 1)], ⟨6, false⟩, member, ready_of (by decide +kernel), by decide +kernel⟩,
   ⟨{ inGroup member [] with arrivals := [⟨0x2000, false, 2, 5, 64, ⟨5, 0, false⟩⟩] }, 0, _, rfl, by decide +kernel⟩,
   ⟨{ inGroup member [] with arrivals := [⟨0x2000, false, 3, 5, 64, ⟨5, 0, false⟩⟩] }, 0, _, rfl, by decide +kernel⟩,
   probeAs Core.fresh 0 { thread [] with park := some (.barrier 0x2000 false true) }, 5, 0, 0x2000, false, true, rfl,
     by unfold PhaseOver; decide +kernel⟩

/-- The three results of REPART and of CARVE at the ends of their ranges. -/
theorem wit_CoreShape :
    (∃ (s : State) (o : R2), Allowed s .s true ∧ Ready s o.use ∧ 1 < (s.g o.a).toNat) ∧
    (∃ (s : State) (o : R2), Allowed s .s true ∧ Ready s o.use ∧ (s.g o.a).toNat ≤ 1 ∧ decide ((s.g o.a).toNat = 1) = s.myCore.wide) ∧
    (∃ (s : State) (o : R2), Allowed s .s true ∧ Ready s o.use ∧ (s.g o.a).toNat ≤ 1 ∧ repartIdle s s.cur.1 = false) ∧
    (∃ (s : State) (o : R2), Allowed s .s true ∧ Ready s o.use ∧ (s.g o.a).toNat ≤ 1 ∧ decide ((s.g o.a).toNat = 1) ≠ s.myCore.wide ∧
      repartIdle s s.cur.1 = true ∧ o.d.toNat < 32) ∧
    (∃ (s : State) (o : R3), Ready s o.use ∧ 12 < (s.g o.b).toNat) ∧
    (∃ (s : State) (o : R3), Ready s o.use ∧ (s.g o.b).toNat ≤ 12 ∧ s.g o.a = 0 ∧ s.me.mode = .m ∧ s.cur.2 = 0 ∧ s.cur.1 < 2048 ∧
      s.myCore.tenant.getLsbD 6 = true ∧ (s.myCore.ctxs.all fun p => decide (p.1 = 0) || decide (p.2.phase = .free)) = true ∧
      carveRefused s s.cur.1 (16 - (s.g o.b).toNat) = false) ∧
    ∃ (s : State) (o : R3) (w : Where) (m : Member), Ready s o.use ∧ (s.g o.b).toNat ≤ 12 ∧ s.g o.a ≠ 0 ∧ GroupRecord s (s.g o.a) w ∧
      s.me.group = some m ∧ m.record = w.pa ∧ Memory.wf s.mem = true :=
  ⟨⟨probeAs Core.fresh 0 (sThread [(6, 2)]), ⟨5, 6, false⟩, by unfold Allowed; decide +kernel, ready_of (by decide +kernel), by decide +kernel⟩,
   ⟨probeAs Core.fresh 0 (sThread []), ⟨5, 6, false⟩, by unfold Allowed; decide +kernel, ready_of (by decide +kernel), by decide +kernel⟩,
   ⟨probeAs (coreWith 3 (thread []) Core.fresh) 0 (sThread [(6, 1)]), ⟨5, 6, false⟩, by unfold Allowed; decide +kernel, ready_of (by decide +kernel),
      by decide +kernel⟩,
   ⟨probeAs Core.fresh 0 (sThread [(6, 1)]), ⟨5, 6, false⟩, by unfold Allowed; decide +kernel, ready_of (by decide +kernel), by decide +kernel⟩,
   ⟨probe [(7, 13)], ⟨5, 6, 7, false, false⟩, ready_of (by decide +kernel), by decide +kernel⟩,
   ⟨probeAs { Core.fresh with savebase := 0x20000, savesize := 0x20000 } 0 (thread [(7, 12)]), ⟨5, 6, 7, false, false⟩, ready_of (by decide +kernel),
      by decide +kernel⟩,
   inGroup member [(6, 0x2000), (7, 12)], ⟨5, 6, 7, false, false⟩, ⟨0x2000, false, false⟩, member, ready_of (by decide +kernel), by decide +kernel,
     by decide +kernel, by unfold GroupRecord; decide +kernel, by decide +kernel⟩

/-- A scratchpad that holds a descriptor of one group of one thread on tower 0, its scoreboard at 0x2000. -/
def launching : State :=
  { lineHeld (probe [(6, own 0x20000)]) with
    mem := [(0x080001420001, 0x30), (0x080001420010, 1), (0x080001420014, 1), (0x080001420018, 1), (0x08000142001C, 1), (0x08000142001E, 1),
      (0x080001420031, 0x20)] }

/-- The descriptor's dwords. -/
def launchWords : List Word := wordsOf 16 (readBytes launching.mem 0x080001420000 128)

theorem board_one {s : State} {tr : State → Word → Tr × State} {b : Word} {w : Where} (h1 : tr s b = (.ok w, s)) (h2 : placeOf s w.pa = .dram) :
    boardPlaces s tr b 1 = (.ok [w], s) := by
  simp [boardPlaces, h1, h2]

theorem wit_GridLaunch : ∃ s s1 o W n slot places, Ready s (R3.use o) ∧ Launches s o W n slot places s1 ∧ Memory.wf s.mem = true := by
  refine ⟨launching, { launching with freeCtr := 1 }, ⟨5, 6, 0, false, false⟩, launchWords, 0, Config.freeNat 0 % 64, [⟨0x2000, false, false⟩],
    ready_of (by decide +kernel), ⟨by decide +kernel, ?_, by decide +kernel, ?_, by decide +kernel, ?_, by decide +kernel⟩, by decide +kernel⟩
  · exact ⟨⟨0x080001420000, false, true⟩, 5, 0x20000, by decide +kernel, by decide +kernel, by decide +kernel⟩
  · have h : ((List.range 64).filter fun n => (flook (launching.tower 0).grids n).isNone) = List.range 64 := by decide +kernel
    unfold freeGrid
    simp only [h]
    show ((List.range 64)[Config.freeNat 0 % 64]?, _) = _
    rw [List.getElem?_range (by omega)]
    rfl
  · have h : boardLines (glX launchWords * glY launchWords * glZ launchWords) = 1 ∧ launchWords.getD 6 0 = 0x2000 := by decide +kernel
    rw [h.1, h.2]
    exact board_one (by decide +kernel) (by decide +kernel)

/-- A running grid of one group of one thread, at slot 0 of tower 0, whose group has ended, with its scoreboard at 0x2000. -/
def oneGroup : Grid := newGrid launchWords 64 .m 1 1 none [(0x2000, false)] [] 1

/-- A grid of two groups, the second after the first. -/
def twoGroups : Grid := { oneGroup with x := 2, deps := [(0, 0, 1)], groups := [(0, { GGroup.fresh with st := .running, core := 5 })] }

def withGrid (x : Grid) (regs : List (RegNo × Word)) : State :=
  { lineHeld (probe regs) with towers := [(0, { Tower.fresh with grids := [(0, x)] })] }

/-- The handle of that grid: basin 0xFFFF, tower 0, slot 0, reuse count 1. -/
def gridWord : Word := 0xFFFF00000001

theorem wit_Grids :
    (∃ (s : State) (o : R2), Ready s o.use ∧ o.d ≠ 0) ∧
    (∃ (s : State) (g k : Nat) (f : Fill) (v : Word) (b : Nat), (s.ctx g k).fills = [f] ∧ f.grid = some (v, b) ∧ f.shadow = false ∧
      0 < f.reg ∧ f.reg < 64) ∧
    (∃ (s : State) (o : R2), Ready s o.use ∧ liveGrid s (s.g o.a) (recordBasin s) = none) ∧
    (∃ (s : State) (o : R2) (key : Nat) (x : Grid), Ready s o.use ∧ liveGrid s (s.g o.a) (recordBasin s) = some (key, x) ∧
      vectorBusy s s.cur.1 s.cur.2 = false ∧ s.me.relMark = none ∧ visibleAt s 3 s.cur.1 s.serial = true ∧ x.st ≠ .cancelling) ∧
    (∃ (s : State) (o : R2) (key : Nat) (x : Grid), Ready s o.use ∧ liveGrid s (s.g o.a) (recordBasin s) = some (key, x) ∧
      vectorBusy s s.cur.1 s.cur.2 = false ∧ s.me.relMark = none ∧ visibleAt s 3 s.cur.1 s.serial = true ∧ x.st = .cancelling) ∧
    (∃ (s : State) (n slot i : Nat) (x : Grid), s.grid (gridKey n slot) = some x ∧ x.stateOf i = .ready) ∧
    (∃ (s : State) (n slot i j : Nat) (x : Grid), s.grid (gridKey n slot) = some x ∧ (x.group i).st = .running ∧ (x.group i).live = [] ∧
      (x.group i).frames = [] ∧ Memory.wf s.mem = true ∧ x.cancelled = false ∧ j ∈ x.succs i ∧ x.stateOf j = .blocked) ∧
    ∃ (s s0 : State) (n slot : Nat) (x : Grid) (w : Where), slot < 64 ∧ s.grid (gridKey n slot) = some x ∧ x.over = true ∧
      ((x.edges ++ x.resumes).all fun a => visibleAt s 4 a.core a.mark) = true ∧ (x.groups.all fun p => p.2.edges.all fun a => visibleAt s 4 a.core a.mark) = true ∧
      x.doneAt ≠ 0 ∧ translateFor s n x.mode x.basin x.doneAt .store 8 = (.ok w, s0) ∧ placeOf s0 w.pa = .dram ∧ Memory.wf s0.mem = true :=
  ⟨⟨probe [], ⟨5, 6, false⟩, ready_of (by decide +kernel), by decide⟩,
   ⟨probeAs Core.fresh 0 { thread [] with fills := [⟨false, 5, 0, 0, false, some (7, 64)⟩] }, 5, 0, _, _, _, rfl, rfl, by decide +kernel⟩,
   ⟨probe [], ⟨5, 6, false⟩, ready_of (by decide +kernel), by decide +kernel⟩,
   ⟨withGrid twoGroups [(6, gridWord)], ⟨5, 6, false⟩, 0, twoGroups, ready_of (by decide +kernel), by decide +kernel⟩,
   ⟨withGrid { twoGroups with st := .cancelling } [(6, gridWord)], ⟨5, 6, false⟩, 0, { twoGroups with st := .cancelling }, ready_of (by decide +kernel),
      by decide +kernel⟩,
   ⟨withGrid oneGroup [], 0, 0, 0, oneGroup, by decide +kernel⟩,
   ⟨withGrid twoGroups [], 0, 0, 0, 1, twoGroups, by decide +kernel⟩,
   withGrid { oneGroup with doneAt := 0x2008, groups := [(0, { GGroup.fresh with st := .retired })] } [],
     withGrid { oneGroup with doneAt := 0x2008, groups := [(0, { GGroup.fresh with st := .retired })] } [], 0, 0,
     { oneGroup with doneAt := 0x2008, groups := [(0, { GGroup.fresh with st := .retired })] }, ⟨0x2008, false, false⟩, by decide +kernel⟩

/-- A channel of depth 4 anchored on tower 0 whose two ends the thread of core 5's context 0 holds, with all rights. -/
def chan : Chan where
  tower := 0
  depth := 4
  tenant := 0xFFFF
  snd := ⟨0, 1, 15, .thread 5 0, 5, 0, false, false, false, 0⟩
  rcv := ⟨1, 1, 15, .thread 5 0, 5, 0, false, false, false, 0⟩
  sendCtr := 0
  recvCtr := 0
  credits := 4
  openPkt := 0
  sendState := 0
  sndMoving := false
  dest := 1
  bufs := [⟨1, 5, 0, 0, [], [0, 1]⟩]
  moves := []
  flight := []
  batch := 0
  creditFlight := []
  recvs := []
  closeSeq := none
  closeCred := 0
  closeAcq := none
  disc := 0
  evDone := false
  intDone := false
  peer := none
  sndPeer := none

/-- The thread with the send end in g6, the receive end in g7 and 9 in g8, and channels from 0 on. -/
def ends (x : Ctx) (l : List Chan) : State :=
  { probeAs Core.fresh 0 (((x.setReg 6 (GReg.of (chan.handle false) true)).setReg 7 (GReg.of (chan.handle true) true)).setReg 8 (GReg.of 9 false)) with
    chans := l.zipIdx.map fun p => (p.2, p.1) }

/-- The same with the second channel's receive end in g8. -/
def twoEnds : State :=
  let c := { chan with snd := { chan.snd with slot := 2 }, rcv := { chan.rcv with slot := 3 } }
  let s := ends (thread []) [chan, c]
  s.setMe (s.me.setReg 8 (GReg.of (c.handle true) true))

/-- A word of the channel. -/
def aWord : ChWord := ⟨0, 9, false, true, ⟨5, 0, false⟩, 1⟩

theorem wit_ChannelCreation :
    (∃ (s : State) (o : X3) (d m : Nat), Ready s o.usePair ∧ (s.g o.a).toNat = d ∧ (s.g o.b).toNat = m ∧ 1 ≤ d ∧ d ≤ 1024 ∧ m < 2 ^ 12 ∧
      m / 16 % 16 = 0 ∧ (usedSlots s (anchorTower s s.cur.1)).length + 2 ≤ 2 ^ 20 ∧ poolRoom s s.cur.1 (poolBlocks d) = true) ∧
    ∃ (s : State) (g k : Nat) (r : ChReply), nextReply s g k true = some r ∧ g < 4096 ∧ BankReg r.shadow r.rd ∧ BankReg r.shadow (pairOf r.rd) :=
  ⟨⟨probe [(6, 1024), (7, 0xF0F)], ⟨8, 6, 7⟩, 1024, 0xF0F, ready_of (by decide +kernel), by decide +kernel⟩,
   { probe [] with chReplies := [⟨5, 0, true, 30, true, 1, 2⟩] }, 5, 0, _, rfl, by decide, by unfold BankReg; decide, by unfold BankReg; decide +kernel⟩

theorem wit_ChannelTransfer :
    (∃ (s : State) (o : Snd) (id : Nat) (c : Chan), Ready s o.use ∧ Names s o.a (some false) 1 id false c ∧ s.gtag o.b = false ∧
      Sends s id c o.k (if c.peer.isSome then 4 else scopeOf s.cur.1 c.destCore)) ∧
    (∃ (s : State) (o : Snd) (id e : Nat) (c x : Chan) (rcv : Bool), Ready s o.use ∧ Names s o.a (some false) 1 id false c ∧ s.gtag o.b = true ∧
      Names s o.b none 2 e rcv x ∧ e ≠ id ∧ (rcv = true ∨ x.openPkt = 0) ∧ Sends s id c o.k 4) ∧
    (∃ (s : State) (o : Snd) (id : Nat) (c : Chan), Ready s o.use ∧ Names s o.a (some false) 1 id false c ∧ s.gtag o.b = false ∧ c.sendState = 0 ∧
      (o.k = true ∨ c.openPkt < 31) ∧ vectorBusy s s.cur.1 s.cur.2 = false ∧ peerClosed s id c = true) ∧
    (∃ (s : State) (o : Snd) (id : Nat) (c : Chan), Ready s o.use ∧ Names s o.a (some false) 1 id false c ∧ s.gtag o.b = false ∧ c.sendState = 0 ∧
      (o.k = true ∨ c.openPkt < 31) ∧ vectorBusy s s.cur.1 s.cur.2 = false ∧ peerClosed s id c = false ∧ c.credits = 0) ∧
    (∃ (s : State) (id n : Nat) (c : Chan) (w : ChWord), flook s.chans id = some c ∧ c.flight[n]? = some w ∧ carriedFlushed s w = true ∧
      heldCore s w.acq.core (((c.bufs.find? fun b => decide (b.id = w.dest)).map fun b => b.core).getD c.rcv.core / 256) w.acq.mark = false ∧
      c.peer = none ∧ (c.bufs.all fun b => decide (b.id = w.dest ∧ b.phase < 3)) = true ∧ c.bufs ≠ [] ∧ Memory.wf s.mem = true ∧
      c.rcv.holder = .thread 5 0) ∧
    (∃ (s : State) (o : X2) (id : Nat) (c : Chan), Ready s o.usePair ∧ Names s o.a (some true) 1 id true c ∧ c.recvs.length < 8) ∧
    (∃ (s : State) (id : Nat) (c : Chan) (r : ChRecv) (l : List ChRecv) (b : ChBuf) (w : ChWord), flook s.chans id = some c ∧ c.recvs = r :: l ∧
      c.wordAt r.seq = some w ∧ c.bufs.getLast? = some b ∧ r.core < 4096 ∧ BankReg r.shadow r.rd ∧ BankReg r.shadow (pairOf r.rd)) ∧
    (∃ (s : State) (id : Nat) (c : Chan) (n stamp : Nat) (l : List (Nat × Nat)), flook s.chans id = some c ∧ c.creditFlight = (n, stamp) :: l ∧
      heldCore s c.rcv.core (if c.sendState = 2 ∨ isAtelier c.snd.core = true then c.tower else towerOf c.snd.core) stamp = false) ∧
    (∃ (s : State) (id n p : Nat) (c : Chan) (w : ChWord), flook s.chans id = some c ∧ c.flight[n]? = some w ∧ c.peer = some p ∧ w.tag = false ∧
      heldCore s w.acq.core (((c.bufs.find? fun b => decide (b.id = w.dest)).map fun b => b.core).getD c.rcv.core / 256) w.acq.mark = false) ∧
    ∃ (s : State) (r : List Move) (id p : Nat) (c : Chan) (v : Word) (last : Bool), s.powered = true ∧ s.agenda = .peerWord p id v last none :: r ∧
      flook s.chans id = some c ∧ c.sndPeer = some p ∧ c.snd.closed = false ∧ 0 < c.credits ∧ c.bufs ≠ [] :=
  ⟨⟨ends (thread []) [chan], ⟨5, 6, 8, false⟩, 0, chan, ready_of (by decide +kernel), by unfold Names; decide +kernel, by decide +kernel,
      by constructor <;> decide +kernel⟩,
   ⟨twoEnds, ⟨5, 6, 8, false⟩, 0, 1, chan, { chan with snd := { chan.snd with slot := 2 }, rcv := { chan.rcv with slot := 3 } }, true,
      ready_of (by decide +kernel), by unfold Names; decide +kernel, by decide +kernel, by unfold Names; decide +kernel, by decide, .inl rfl,
      by constructor <;> decide +kernel⟩,
   ⟨ends (thread []) [{ chan with rcv := { chan.rcv with closed := true } }], ⟨5, 6, 8, false⟩, 0, { chan with rcv := { chan.rcv with closed := true } },
      ready_of (by decide +kernel), by unfold Names; decide +kernel, by decide +kernel⟩,
   ⟨ends (thread []) [{ chan with credits := 0, openPkt := 31 }], ⟨5, 6, 8, true⟩, 0, { chan with credits := 0, openPkt := 31 },
      ready_of (by decide +kernel), by unfold Names; decide +kernel, by decide +kernel⟩,
   ⟨ends (thread []) [{ chan with flight := [aWord] }], 0, 0, { chan with flight := [aWord] }, aWord, by decide +kernel⟩,
   ⟨ends (thread []) [chan], ⟨10, 7⟩, 0, chan, ready_of (by decide +kernel), by unfold Names; decide +kernel, by decide +kernel⟩,
   ⟨ends (thread []) [{ chan with recvs := [⟨0, 5, 0, false, 10⟩], bufs := [⟨1, 5, 0, 0, [aWord], [0, 1]⟩] }], 0, _, ⟨0, 5, 0, false, 10⟩, [], _, aWord, rfl, rfl,
      by decide +kernel, rfl, by decide, by unfold BankReg; decide, by unfold BankReg; decide +kernel⟩,
   ⟨ends (thread []) [{ chan with creditFlight := [(3, 0)] }], 0, { chan with creditFlight := [(3, 0)] }, 3, 0, [], by decide +kernel⟩,
   ⟨ends (thread []) [{ chan with peer := some 3, flight := [aWord] }], 0, 0, 3, { chan with peer := some 3, flight := [aWord] }, aWord, by decide +kernel⟩,
   { ends (thread []) [{ chan with sndPeer := some 3 }] with agenda := [.peerWord 3 0 9 true none] }, [], 0, 3, { chan with sndPeer := some 3 }, 9, true,
     by decide +kernel⟩

theorem wit_ChannelStateAndClosure :
    (∃ (s : State) (o : X2) (id : Nat) (c : Chan), Ready s o.use ∧ Names s o.a (some true) 1 id true c ∧ c.closeSeq = none) ∧
    (∃ (s : State) (o : X3) (id : Nat) (rcv : Bool) (c : Chan), Ready s o.use ∧ Names s o.a none 4 id rcv c ∧ subRefused rcv (s.g o.b) = false ∧
      s.cur.1 < 4096) ∧
    (∃ (s : State) (o : X3) (id : Nat) (rcv : Bool) (c : Chan), Ready s o.use ∧ Names s o.a none 4 id rcv c ∧ subRefused rcv (s.g o.b) = true) ∧
    (∃ (s : State) (o : X3) (id : Nat) (rcv : Bool) (c : Chan), Ready s o.use ∧ Names s o.a none 4 id rcv c ∧ (s.g o.b).toNat < 16) ∧
    (∃ (s : State) (o : X2), Ready s o.use ∧ s.gtag o.a = true ∧ (s.g o.a).toNat / 2 ^ 40 % 2 ^ 16 = tenantOf s) ∧
    (∃ (s : State) (g k : Nat) (r : ChReply), nextReply s g k false = some r ∧ closing s g r.v0 = false ∧ g < 4096 ∧ BankReg r.shadow r.rd) ∧
    (∃ (s : State) (o : X2) (id : Nat) (c : Chan), Ready s o.use ∧ Names s o.a none 8 id true c) ∧
    (∃ (s : State) (o : X2) (id : Nat) (c : Chan), Ready s o.use ∧ Names s o.a none 8 id false c ∧ c.openPkt = 0) ∧
    (∃ (s : State) (n : Nat) (m : Closure) (c : Chan), s.closures[n]? = some m ∧ flook s.chans m.chan = some c ∧ m.rcv = false ∧
      c.snd.closed = false ∧ c.rcv.closed = false ∧ heldCore s m.source.core c.tower m.source.mark = false ∧ m.vectorsDone s = true) ∧
    (∃ (s : State) (n : Nat) (m : Closure) (c : Chan), s.closures[n]? = some m ∧ flook s.chans m.chan = some c ∧ m.rcv = true ∧
      c.rcv.closed = false ∧ c.snd.closed = false ∧ heldCore s m.source.core c.tower m.source.mark = false ∧ m.vectorsDone s = true ∧ m.core < 4096 ∧ BankReg m.shadow m.rd ∧
      ∀ r ∈ c.recvs, (r.core, r.ctx) = (m.core, m.ctx) → r.rd ≠ m.rd ∧ pairOf r.rd ≠ m.rd) ∧
    (∃ (s : State) (p id : Nat) (c : Chan), flook s.chans id = some c ∧ c.peer = some p ∧
      (s.chans.all fun q => decide (q.2.snd.closed = false) && decide (q.2.sndPeer ≠ some p)) = true) ∧
    ∃ (s : State) (p id : Nat) (c : Chan), flook s.chans id = some c ∧ c.sndPeer = some p ∧ c.rcv.closed = false ∧ c.snd.closed = false ∧
      (s.chans.all fun q => decide (q.2.peer ≠ some p)) = true :=
  ⟨⟨ends (thread []) [chan], ⟨5, 7⟩, 0, chan, ready_of (by decide +kernel), by unfold Names; decide +kernel, by decide⟩,
   ⟨ends (thread [(9, 0x01080006)]) [chan], ⟨5, 7, 9⟩, 0, true, chan, ready_of (by decide +kernel), by unfold Names; decide +kernel, by decide +kernel⟩,
   ⟨ends (thread []) [chan], ⟨5, 6, 8⟩, 0, false, chan, ready_of (by decide +kernel), by unfold Names; decide +kernel, by decide +kernel⟩,
   ⟨ends (thread [(9, 15)]) [chan], ⟨5, 6, 9⟩, 0, false, chan, ready_of (by decide +kernel), by unfold Names; decide +kernel, by decide +kernel⟩,
   ⟨ends (thread []) [chan], ⟨5, 6⟩, ready_of (by decide +kernel), by decide +kernel⟩,
   ⟨{ probe [] with chReplies := [⟨5, 0, false, 30, false, 1, 0⟩] }, 5, 0, _, rfl, by decide +kernel, by decide, by unfold BankReg; decide⟩,
   ⟨ends (thread []) [chan], ⟨5, 7⟩, 0, chan, ready_of (by decide +kernel), by unfold Names; decide +kernel⟩,
   ⟨ends (thread []) [chan], ⟨5, 6⟩, 0, chan, ready_of (by decide +kernel), by unfold Names; decide +kernel, rfl⟩,
   ⟨{ ends (thread []) [chan] with closures := [⟨0, false, none, 5, 0, false, 0⟩] }, 0, ⟨0, false, none, 5, 0, false, 0⟩, chan, by decide +kernel⟩,
   ⟨{ ends (thread []) [chan] with closures := [⟨0, true, none, 5, 0, false, 9⟩] }, 0, ⟨0, true, none, 5, 0, false, 9⟩, chan, by decide +kernel,
      by decide +kernel, rfl, by decide, by decide, by decide +kernel, by decide +kernel, by decide, by unfold BankReg; decide, by decide⟩,
   ⟨ends (thread []) [{ chan with peer := some 3 }], 3, 0, { chan with peer := some 3 }, by decide +kernel⟩,
   ends (thread []) [{ chan with sndPeer := some 3 }], 3, 0, { chan with sndPeer := some 3 }, by decide +kernel⟩

/-- A channel with two buffers, the older in a phase of its relocation. -/
def relocating (p : Nat) : Chan := { chan with bufs := [⟨1, 5, p, 0, [], [0, 1]⟩, ⟨2, 6, 0, 0, [], [0, 1]⟩] }

theorem wit_ChannelRelocation :
    (∃ (s : State) (id g : Nat) (l : List (Nat × List Nat)) (c : Chan), flook s.chans id = some c ∧ c.moves = (g, []) :: l ∧
      poolRoom s g (poolBlocks c.depth) = true) ∧
    (∃ (s : State) (id g : Nat) (b : List Nat) (l : List (Nat × List Nat)) (c : Chan), flook s.chans id = some c ∧ c.moves = (g, b) :: l ∧ b ≠ []) ∧
    (∃ (s : State) (id : Nat) (c : Chan) (b d : ChBuf), flook s.chans id = some c ∧ c.bufs.find? (fun b => decide (b.phase = 2)) = some b ∧
      nextBuf c.bufs b.id = some d) ∧
    (∃ (s : State) (id : Nat) (c : Chan) (b d : ChBuf), flook s.chans id = some c ∧ c.bufs.find? (fun b => decide (b.phase = 3)) = some b ∧
      nextBuf c.bufs b.id = some d) ∧
    (∃ (s : State) (id : Nat) (c : Chan) (b : ChBuf), flook s.chans id = some c ∧ c.bufs.find? (fun b => decide (b.phase = 4)) = some b) ∧
    (∃ (s : State) (id : Nat) (c : Chan) (b : ChBuf) (l : List ChBuf), flook s.chans id = some c ∧ c.bufs = b :: l ∧ b.phase = 5 ∧
      (c.flight.all fun w => decide (w.dest ≠ b.id)) = true) ∧
    (∃ (s : State) (id : Nat) (c : Chan), flook s.chans id = some c ∧ c.sendState = 1) ∧
    ∃ (s : State) (id : Nat) (c : Chan), flook s.chans id = some c ∧ c.sndMoving = true ∧ c.sendState = 2 :=
  ⟨⟨ends (thread []) [{ chan with moves := [(6, [])] }], 0, 6, [], { chan with moves := [(6, [])] }, by decide +kernel⟩,
   ⟨ends (thread []) [{ chan with moves := [(6, [0, 1])] }], 0, 6, [0, 1], [], { chan with moves := [(6, [0, 1])] }, by decide +kernel⟩,
   ⟨ends (thread []) [relocating 2], 0, relocating 2, ⟨1, 5, 2, 0, [], [0, 1]⟩, ⟨2, 6, 0, 0, [], [0, 1]⟩, by decide +kernel⟩,
   ⟨ends (thread []) [relocating 3], 0, relocating 3, ⟨1, 5, 3, 0, [], [0, 1]⟩, ⟨2, 6, 0, 0, [], [0, 1]⟩, by decide +kernel⟩,
   ⟨ends (thread []) [relocating 4], 0, relocating 4, ⟨1, 5, 4, 0, [], [0, 1]⟩, by decide +kernel⟩,
   ⟨ends (thread []) [relocating 5], 0, relocating 5, ⟨1, 5, 5, 0, [], [0, 1]⟩, [⟨2, 6, 0, 0, [], [0, 1]⟩], by decide +kernel⟩,
   ⟨ends (thread []) [{ chan with sendState := 1 }], 0, { chan with sendState := 1 }, by decide +kernel⟩,
   ends (thread []) [{ chan with sendState := 2, sndMoving := true }], 0, { chan with sendState := 2, sndMoving := true }, by decide +kernel⟩

/-- A channel whose word is present and whose arrival interrupt is armed with INDEX 15. -/
def armed : Chan := { chan with rcv := { chan.rcv with sub := 0x3C001 }, bufs := [⟨1, 5, 0, 0, [aWord], [0, 1]⟩] }

theorem wit_ArrivalInterruptsAndProbes :
    (∃ (s : State) (g k id : Nat) (ch : Chan), leastDue (dueEnds s g k) = some (id, ch) ∧ alive s g k = true ∧ (s.ctx g k).icount = 0 ∧
      (s.ctx g k).ih = false ∧ atBoundary (s.ctx g k) = true) ∧
    (∃ (s : State) (g k id h j : Nat) (rcv : Bool), chanWait s g k = some (id, rcv) ∧ (s.core g).probeint ≠ 0 ∧ endDl s id rcv = false ∧
      waitsOn s id rcv = some (h, j)) ∧
    (∃ (s : State) (n id h j : Nat) (p : Probe) (rcv : Bool), s.probes[n]? = some p ∧ (p.toCore, p.toCtx) ≠ (p.core, p.ctx) ∧
      chanWait s p.toCore p.toCtx = some (id, rcv) ∧ waitsOn s id rcv = some (h, j) ∧ p.path.length < 64) ∧
    (∃ (s : State) (n : Nat) (p : Probe), s.probes[n]? = some p ∧ (p.toCore, p.toCtx) = (p.core, p.ctx) ∧ p.path ≠ [] ∧ p.core < 4096) ∧
    ∃ (s : State) (n h : Nat) (p : Probe) (a : Nat × Nat × Nat × Bool) (l : List (Nat × Nat × Nat × Bool)) (put size : Word), s.probes[n]? = some p ∧
      (p.toCore, p.toCtx) = (p.core, p.ctx) ∧ p.path = a :: l ∧ p.core < 4096 ∧ Memory.wf s.mem = true ∧
      h = queueHeader s (faultQueueOf s (faultBasin s p.core (s.ctx p.core p.ctx).mode)) ∧ h ≠ 0 ∧ put = read64 s.mem h ∧
      size = read64 s.mem (h + 16) ∧ 3 ≤ size.toNat - (put - read64 s.mem (h + 8)).toNat :=
  ⟨⟨ends (thread []) [armed], 5, 0, 0, armed, by decide +kernel⟩,
   ⟨ends { thread [] with park := some (.credit 0) } [chan], 5, 0, 0, 5, 0, false, by decide +kernel⟩,
   ⟨{ ends { thread [] with park := some (.credit 0) } [chan] with probes := [⟨6, 0, [(6, 0, 0, true)], 5, 0⟩] }, 0, 0, 5, 0,
      ⟨6, 0, [(6, 0, 0, true)], 5, 0⟩, false, by decide +kernel⟩,
   ⟨{ probe [] with probes := [⟨5, 0, [(5, 0, 0, true)], 5, 0⟩] }, 0, ⟨5, 0, [(5, 0, 0, true)], 5, 0⟩, by decide +kernel⟩,
   { ends (thread []) [chan] with afqhdr := 0x4000, mem := [(0x4010, 4)], probes := [⟨5, 0, [(5, 0, 0, true), (6, 0, 0, false)], 5, 0⟩] }, 0, 0x4000,
     ⟨5, 0, [(5, 0, 0, true), (6, 0, 0, false)], 5, 0⟩, (5, 0, 0, true), [(6, 0, 0, false)], 0, 4, by decide +kernel⟩

/-- R201, R308: the deadlock's record: CAUSE 0x13, KIND 3, three slots, the initiator in EXTRA, the second participant in PARTS. -/
theorem test_deadlock_record : goes (exec (.probeHop 0) { ends (thread []) [chan] with
    afqhdr := 0x4000, mem := [(0x4010, 4)], probes := [⟨5, 0, [(5, 0, 0, true), (6, 0, 0, false)], 5, 0⟩] }) (fun t =>
    decide (read64 t.mem 0x4000 = 3) && decide (read64 t.mem 0x4040 = 0x30313) && decide (read64 t.mem 0x4048 = 0x50) &&
    decide (read64 t.mem 0x4060 = 0x10050) && decide (read64 t.mem 0x4080 = 0x60)) = true := by decide +kernel

/-- A stream over the scratchpad: 2 vectors from an offset on. -/
def strm (off : Nat) : Stream := { Stream.zero with base := BitVec.ofNat 64 off, ext := #v[2, 1, 1, 1, 1], stride := #v[64, 0, 0, 0, 0] }

/-- A thread with streams at 0x20000 (s0), 0x21000 (s1) and 0x22000 (s2). -/
def streamer (regs : List (RegNo × Word)) : Ctx :=
  { thread regs with streams := (((Vector.replicate 8 Stream.zero).set 0 (strm 0x20000)).set 1 (strm 0x21000)).set 2 (strm 0x22000) }

/-- Operand n of a vector instruction, a stream at 0x20000 + 0x1000 × n. -/
def src (n : Nat) : VOp := ⟨BitVec.ofNat 3 n, strm (0x20000 + 0x1000 * n), 0, 0, 0, 0⟩

/-- A vector instruction VADD.i32 of those streams that its core has accepted. -/
def addJob : VJob := ⟨1, 0, 0x00, 5, 5, 0, none, ⟨2, strm 0x22000, 0, 0, 0, 0⟩, [src 0, src 1], false, 0, 2, 0, false, 0, [], []⟩

/-- A ring at 0x21000 of 4 slots of 64 bytes with two slots occupied. -/
def aRing : Ring := ⟨0x21000, 64, 4, 0, 2⟩

/-- A vector instruction at one of its two steps, of the first n operands, with s7 as its predicate or none. -/
def vecAtStep (op fmt sfmt step n : Nat) (masked : Bool) : VJob :=
  ⟨1, 0, op, fmt, sfmt, 0, if masked then some (src 7) else none, src 3, (List.range n).map src, false, 7, 2, step, decide (0 < step), 0, [], []⟩

/-- Core 5 with that instruction and no other. -/
def stepping (j : VJob) : State := probeAs { Core.fresh with vjobs := [j] } 0 (streamer [])

theorem steps_of (j : VJob) (h1 : j.step < j.total ∧ (∀ u ∈ j.mask.toList ++ j.srcs, ∀ v ∈ j.mask.toList ++ j.srcs, u.n = v.n → u = v) ∧
      (∀ m ∈ j.mask, m.n = 7) ∧ (j.started = false ∨ j.started = true)) (h2 : j.recent = [])
    (h3 : (j.started = false ∧ ((stepping j).core 5).vjobs.find? (fun k => !k.started) = some j ∧
        ∀ k ∈ ((stepping j).core 5).vjobs, ¬ (k.started = true ∧ k.step < k.total)) ∨
      (j.started = true ∧ ((stepping j).core 5).vjobs.find? (fun k => k.started && decide (k.step < k.total)) = some j)) : StepsNext (stepping j) 5 j :=
  ⟨rfl, h1.1, h1.2.1, h1.2.2.1, fun r hr => by rw [h2] at hr; exact absurd hr List.not_mem_nil, h3⟩

/-- A step of each shape of vector instruction, the first and the last, masked and unmasked. -/
theorem wit_VectorStepResults :
    (∃ (s : State) (g : Nat) (j : VJob), StepsNext s g j ∧ laneFormat j.op j.fmt = true ∧ 1 ≤ j.srcs.length ∧ j.srcs.length ≤ 3 ∧ j.started = false) ∧
    (∃ (s : State) (g : Nat) (j : VJob), StepsNext s g j ∧ laneFormat j.op j.fmt = true ∧ 1 ≤ j.srcs.length ∧ j.srcs.length ≤ 3 ∧ j.started = true ∧
      j.mask.isSome = true) ∧
    (∃ (s : State) (g : Nat) (j : VJob) (a b : VOp), StepsNext s g j ∧ 0x15 ≤ j.op ∧ j.op ≤ 0x17 ∧ j.fmt ≤ 8 ∧ j.srcs = [a, b]) ∧
    (∃ (s : State) (g : Nat) (j : VJob) (a b c : VOp), StepsNext s g j ∧ j.op = 0x18 ∧ j.fmt ≤ 11 ∧ j.srcs = [a, b, c]) ∧
    (∃ (s : State) (g : Nat) (j : VJob) (a b : VOp), StepsNext s g j ∧ j.op = 0x23 ∧ j.fmt ≤ 8 ∧ j.srcs = [a, b]) ∧
    (∃ (s : State) (g : Nat) (j : VJob) (a : VOp), StepsNext s g j ∧ j.op = 0x19 ∧ pairOk 0x19 j.sfmt j.fmt = true ∧ j.srcs = [a]) ∧
    (∃ (s : State) (g : Nat) (j : VJob) (a b : VOp), StepsNext s g j ∧ j.op = 0x1A ∧ pairOk 0x1A j.sfmt j.fmt = true ∧ j.srcs = [a, b]) ∧
    (∃ (s : State) (g : Nat) (j : VJob) (a : VOp), StepsNext s g j ∧ j.op = 0x1B ∧ pairOk 0x1B j.sfmt j.fmt = true ∧ j.srcs = [a]) ∧
    (∃ (s : State) (g : Nat) (j : VJob) (a b c : VOp), StepsNext s g j ∧ j.op = 0x20 ∧ j.fmt = 9 ∧ j.srcs = [a, b, c]) ∧
    (∃ (s : State) (g : Nat) (j : VJob) (a : VOp), StepsNext s g j ∧ j.op = 0x21 ∧ j.fmt = 0 ∧ j.srcs = [a]) ∧
    (∃ (s : State) (g : Nat) (j : VJob), StepsNext s g j ∧ j.op = 64 ∧ j.fmt ≤ 11 ∧ j.mask = none ∧ j.srcs = []) ∧
    (∃ (s : State) (g : Nat) (j : VJob) (a : VOp), StepsNext s g j ∧ j.op = 0x1C ∧ j.fmt ≤ 8 ∧ j.srcs = [a] ∧
      (j.step ≠ 0 → j.lanes.length = fmtCount j.fmt) ∧ j.step + 1 < j.total) ∧
    (∃ (s : State) (g : Nat) (j : VJob) (a : VOp), StepsNext s g j ∧ j.op = 0x1C ∧ j.fmt ≤ 8 ∧ j.srcs = [a] ∧
      (j.step ≠ 0 → j.lanes.length = fmtCount j.fmt) ∧ j.total ≤ j.step + 1) ∧
    (∃ (s : State) (g : Nat) (j : VJob) (a : VOp) (mx : Bool), StepsNext s g j ∧ j.op = (if mx then 0x1D else 0x1E) ∧ j.fmt ≤ 8 ∧ j.srcs = [a] ∧
      j.lanes.length ≤ 1 ∧ j.step + 1 < j.total) ∧
    ∃ (s : State) (g : Nat) (j : VJob) (a : VOp) (mx : Bool), StepsNext s g j ∧ j.op = (if mx then 0x1D else 0x1E) ∧ j.fmt ≤ 8 ∧ j.srcs = [a] ∧
      j.lanes.length ≤ 1 ∧ j.total ≤ j.step + 1 :=
  ⟨⟨_, 5, vecAtStep 0 0 0 0 2 false, steps_of _ (by decide +kernel) rfl (by decide +kernel), by decide +kernel⟩,
   ⟨_, 5, vecAtStep 2 8 8 1 3 true, steps_of _ (by decide +kernel) rfl (by decide +kernel), by decide +kernel⟩,
   ⟨_, 5, vecAtStep 0x17 8 8 0 2 true, _, _, steps_of _ (by decide +kernel) rfl (by decide +kernel), by decide +kernel, by decide +kernel, by decide +kernel, rfl⟩,
   ⟨_, 5, vecAtStep 0x18 11 11 1 3 false, _, _, _, steps_of _ (by decide +kernel) rfl (by decide +kernel), rfl, by decide +kernel, rfl⟩,
   ⟨_, 5, vecAtStep 0x23 8 8 0 2 true, _, _, steps_of _ (by decide +kernel) rfl (by decide +kernel), rfl, by decide +kernel, rfl⟩,
   ⟨_, 5, vecAtStep 0x19 0 5 1 1 false, _, steps_of _ (by decide +kernel) rfl (by decide +kernel), rfl, by decide +kernel, rfl⟩,
   ⟨_, 5, vecAtStep 0x1A 1 0 0 2 true, _, _, steps_of _ (by decide +kernel) rfl (by decide +kernel), rfl, by decide +kernel, rfl⟩,
   ⟨_, 5, vecAtStep 0x1B 0 2 1 1 false, _, steps_of _ (by decide +kernel) rfl (by decide +kernel), rfl, by decide +kernel, rfl⟩,
   ⟨_, 5, vecAtStep 0x20 9 5 0 3 true, _, _, _, steps_of _ (by decide +kernel) rfl (by decide +kernel), rfl, rfl, rfl⟩,
   ⟨_, 5, vecAtStep 0x21 0 9 1 1 false, _, steps_of _ (by decide +kernel) rfl (by decide +kernel), rfl, rfl, rfl⟩,
   ⟨_, 5, vecAtStep 64 11 11 0 0 false, steps_of _ (by decide +kernel) rfl (by decide +kernel), rfl, by decide +kernel, rfl, rfl⟩,
   ⟨_, 5, vecAtStep 0x1C 2 2 0 1 true, _, steps_of _ (by decide +kernel) rfl (by decide +kernel), rfl, by decide +kernel, rfl, by decide +kernel⟩,
   ⟨_, 5, { vecAtStep 0x1C 0 0 1 1 false with lanes := List.replicate 16 0 }, _, steps_of _ (by decide +kernel) rfl (by decide +kernel), rfl,
      by decide +kernel, rfl, by decide +kernel⟩,
   ⟨_, 5, vecAtStep 0x1D 8 8 0 1 true, _, true, steps_of _ (by decide +kernel) rfl (by decide +kernel), rfl, by decide +kernel, rfl, by decide +kernel⟩,
   _, 5, vecAtStep 0x1E 0 0 1 1 false, _, false, steps_of _ (by decide +kernel) rfl (by decide +kernel), rfl, by decide +kernel, rfl, by decide +kernel⟩

/-- R242: the step adds elements modulo 2^32, and writes no byte outside the destination's vector. -/
theorem test_vadd_step : goes (exec (.vectorExecutionStart 5) { probeAs { Core.fresh with vjobs := [addJob] } 0 (streamer []) with
    mem := [(0x080001420000, 0xFF), (0x080001420001, 0xFF), (0x080001420002, 0xFF), (0x080001420003, 0xFF), (0x080001421000, 2)] }) (fun t =>
    decide (readBytes t.mem 0x080001422000 4 = [1, 0, 0, 0]) && decide ((t.core 5).vjobs.map (fun j => j.step) = [1])) = true := by decide +kernel

theorem wit_VectorIssueAndCompletion :
    (∃ (s : State) (i : Instr) (v : VIns), vecForm s i = some v ∧ Ready s (vecUse i) ∧ (v.op = 0x20 ∨ v.op = 0x21 → s.caps.getLsbD 9 = true) ∧
      Accepted s v) ∧
    ∃ (s : State) (g : Nat) (j : VJob) (l : List VJob), (s.core g).vjobs = j :: l ∧ j.started = true ∧ j.total ≤ j.step ∧ (s.core g).resv = [] ∧
      (l.all fun k => decide (¬ (k.started = true ∧ k.step < k.total))) = true :=
  ⟨⟨probeAs Core.fresh 0 (streamer []), .vadd ⟨2, 0, 1, 5, false⟩, _, rfl, ready_of (by decide +kernel), by decide +kernel,
      by constructor <;> decide +kernel⟩,
   probeAs { Core.fresh with vjobs := [{ addJob with started := true, step := 2 }, addJob] } 0 (streamer []), 5, { addJob with started := true, step := 2 },
     [addJob], by decide +kernel⟩

theorem wit_StreamsAndRings :
    (∃ (s : State) (o : Fld), Ready s o.useSrc ∧ o.i.toNat ≤ 12 ∧ (s.me.stream o.s).accepts o.i.toNat (s.g o.g) = true) ∧
    (∃ (s : State) (o : Fld), Ready s o.useDst) ∧
    (∃ (s : State) (o : Sg), Ready s o.use ∧
      ((s.me.stream o.s).ringv = true → (s.me.stream o.s).broadcast = true ∨ (s.me.stream o.s).pos + (s.g o.g).toNat < (s.me.stream o.s).total)) ∧
    (∃ (s : State) (o : Fld), Ready s o.useSrc ∧ o.i.toNat ≤ 4 ∧ Memory.wf s.mem = true ∧
      ringAccepts (s.myCore.ring o.s.toNat) o.i.toNat (s.g o.g).toNat = true ∧ ringBusy s.myCore o.s.toNat = false) ∧
    (∃ (s : State) (o : R3) (r : Ring), Ready s o.use ∧ Memory.wf s.mem = true ∧ KeepsBlock s.myCore r ∧ (s.g o.a).toNat ≤ 7 ∧ r = s.myCore.ring (s.g o.a).toNat ∧ 1 ≤ (s.g o.b).toNat ∧
      (s.g o.b).toNat ≤ r.slots ∧ vectorBusy s s.cur.1 s.cur.2 = false ∧ s.me.relMark = none ∧ visibleAt s 1 s.cur.1 s.serial = true ∧
      r.occupied + (s.g o.b).toNat ≤ r.slots) ∧
    ∃ (s : State) (o : R3) (r : Ring), Ready s o.use ∧ Memory.wf s.mem = true ∧ ¬ KeepsBlock s.myCore r ∧ (s.g o.a).toNat ≤ 7 ∧ r = s.myCore.ring (s.g o.a).toNat ∧ 1 ≤ (s.g o.b).toNat ∧
      (s.g o.b).toNat ≤ r.slots ∧ vectorBusy s s.cur.1 s.cur.2 = false ∧ s.me.relMark = none ∧ visibleAt s 1 s.cur.1 s.serial = true ∧
      (s.g o.b).toNat ≤ r.occupied :=
  ⟨⟨probeAs Core.fresh 0 (streamer [(6, 1)]), ⟨6, 0, 12⟩, ready_of (by decide +kernel), by decide +kernel⟩,
   ⟨probe [], ⟨6, 0, 12⟩, ready_of (by decide +kernel)⟩,
   ⟨probeAs Core.fresh 0 (streamer [(6, 5)]), ⟨6, 0⟩, ready_of (by decide +kernel), by decide +kernel⟩,
   ⟨probe [(6, 256)], ⟨6, 7, 2⟩, ready_of (by decide +kernel), by decide +kernel⟩,
   ⟨probeAs { Core.fresh with rings := [(7, aRing)] } 0 (thread [(6, 7), (7, 2)]), ⟨5, 6, 7, false, false⟩, aRing, ready_of (by decide +kernel),
      by decide +kernel, by unfold KeepsBlock; decide +kernel, by decide +kernel⟩,
   probeAs { Core.fresh with rings := [(7, { aRing with base := 0x10000 })] } 0 (thread [(6, 7), (7, 2)]), ⟨5, 6, 7, false, false⟩, { aRing with base := 0x10000 },
     ready_of (by decide +kernel), by decide +kernel, by unfold KeepsBlock; decide +kernel, by decide +kernel⟩

/-- R286: a push writes the ring's head and tail 64 bytes below its base. -/
theorem test_ringpush_block : goes (exec (.ringpush ⟨5, 6, 7, false, false⟩) (probeAs { Core.fresh with rings := [(7, aRing)] } 0
    (thread [(6, 7), (7, 1)]))) (fun t => decide (t.g 5 = 3) && decide (read64 t.mem 0x080001420FC0 = 0) && decide (read64 t.mem 0x080001420FC8 = 3)) = true := by
  decide +kernel

/-- A tile engine bound by context 0 with rings 0 and 1 holding two tiles each, and a queue. -/
def tileCore (q : List Tmma) (l : List (TileSet × List Byte × List Byte)) : Core :=
  { Core.fresh with
    rings := [(0, ⟨0x21000, 4096, 4, 0, 2⟩), (1, ⟨0x26000, 4096, 4, 0, 2⟩)]
    tile := { Tile.fresh with binder := some 0, queue := q, loads := l } }

/-- A TMMA of accumulator 1 with two K-steps. -/
def aTmma (done : Nat) : Tmma := ⟨1, 2, ⟨1, 0, 8, 8, 0, 1⟩, done, 5, 0, false, 9, 1⟩

theorem wit_TileState :
    (∃ (s : State) (o : Rd), Ready s o.use ∧ s.myCore.tile.binder = none ∧ s.myCore.tile.waiters = []) ∧
    (∃ (s : State) (o : Rd), Ready s o.use ∧ s.myCore.tile.binder = some s.cur.2 ∧ s.myCore.tile.queue = []) ∧
    (∃ (s : State) (o : Fone), Ready s o.useSrc ∧ tsetAbsent s.caps o.i.toNat (s.g o.g).toNat = false ∧ s.myCore.tile.binder = some s.cur.2 ∧
      o.i.toNat ≤ 5 ∧ setAccepts o.i.toNat (s.g o.g).toNat = true) ∧
    (∃ (s : State) (o : Fone), Ready s o.useDst) ∧
    (∃ (s : State) (o : Ra) (n : Nat), Ready s o.use ∧ NamesAcc s o.a n) ∧
    (∃ (s : State) (o : Rab) (n off : Nat), Ready s o.use ∧ NamesAcc s o.a n ∧ NamesImage s o.b true off ∧ Memory.wf s.mem = true ∧
      (s.myCore.tile.acc n).length = 1024 ∧ s.me.fences = []) ∧
    (∃ (s : State) (o : R3) (n off : Nat), Allowed s .s false ∧ Ready s o.use ∧ (s.g o.a).toNat = n ∧ n ≤ 3 ∧ NamesImage s o.b true off ∧
      Memory.wf s.mem = true ∧ (s.myCore.tile.acc n).length = 1024 ∧ s.me.fences = [] ∧ s.myCore.tile.isFull n = true) ∧
    (∃ (s : State) (o : R3) (n off : Nat), Allowed s .s false ∧ Ready s o.use ∧ (s.g o.a).toNat = n ∧ n ≤ 3 ∧ NamesImage s o.b true off ∧
      s.me.fences = [] ∧ s.myCore.tile.isFull n = false) ∧
    ∃ (s : State) (g k n off : Nat) (d : RegNo) (q : Tmma) (r : List Tmma) (x : TileSet) (a b : List Byte) (l : List (TileSet × List Byte × List Byte)),
      (s.core g).tile.queue = q :: r ∧ (s.core g).tile.loads = (x, a, b) :: l ∧ q.done < q.k ∧ visibleAt s 1 g q.mark = true ∧
      peekers (s.core g) = [(k, n, off, d)] ∧ protectedAt (s.core g) off 4096 = false ∧ Memory.wf s.mem = true ∧
      ∀ m, ((s.core g).tile.acc m).length = 1024 :=
  ⟨⟨probe [], ⟨5⟩, ready_of (by decide +kernel), by decide +kernel⟩,
   ⟨probeAs (tileCore [] []) 0 (thread []), ⟨5⟩, ready_of (by decide +kernel), by decide +kernel⟩,
   ⟨probeAs (tileCore [] []) 0 (thread [(6, 3)]), ⟨6, 5⟩, ready_of (by decide +kernel), by decide +kernel⟩,
   ⟨probe [], ⟨6, 7⟩, ready_of (by decide +kernel)⟩,
   ⟨probeAs (tileCore [] []) 0 (thread [(6, 3)]), ⟨6, false⟩, 3, ready_of (by decide +kernel), by unfold NamesAcc; decide +kernel⟩,
   ⟨probeAs (tileCore [] []) 0 (thread [(6, 3), (7, own 0x30000)]), ⟨6, 7, false, false⟩, 3, 0x30000, ready_of (by decide +kernel),
      by unfold NamesAcc; decide +kernel, by unfold NamesImage; decide +kernel, by decide +kernel⟩,
   ⟨probeAs (tileCore [] []) 0 (thread [(6, 3), (7, own 0x30000)]), ⟨5, 6, 7, false, false⟩, 3, 0x30000, by unfold Allowed; decide +kernel,
      ready_of (by decide +kernel), by decide +kernel, by decide, by unfold NamesImage; decide +kernel, by decide +kernel⟩,
   ⟨probeAs (tileCore [aTmma 0] []) 0 (thread [(6, 1), (7, own 0x30000)]), ⟨5, 6, 7, false, false⟩, 1, 0x30000, by unfold Allowed; decide +kernel,
     ready_of (by decide +kernel), by decide +kernel, by decide, by unfold NamesImage; decide +kernel, by decide +kernel⟩,
   probeAs (coreWith 3 { thread [] with park := some (.peek 1 0x30000 9) } (tileCore [aTmma 0] [((aTmma 0).set, [], [])])) 0 (thread []), 5, 3, 1,
     0x30000, 9, _, _, _, _, _, _, rfl, rfl, by decide +kernel, by decide +kernel, by decide +kernel, by decide +kernel, by decide +kernel,
     fun _ => List.length_replicate⟩

theorem wit_TileMultiply :
    (∃ (s : State) (o : R3) (n k : Nat), Ready s o.use ∧ s.myCore.tile.binder = some s.cur.2 ∧ (s.g o.a).toNat = n ∧ (s.g o.b).toNat = k ∧ n ≤ 3 ∧
      k ≤ 65535 ∧ s.myCore.tile.set.legal = true ∧ ringFault s.myCore s.me.mode s.myCore.tile.set = none ∧ s.myCore.tile.queue.length < 4) ∧
    (∃ (s : State) (g : Nat) (q : Tmma) (x : TileSet), (s.core g).tile.loads = [] ∧ nextLoad (s.core g).tile.queue 0 = some q ∧ x = q.set ∧
      (if x.ra = x.rb then 2 else 1) ≤ ((s.core g).ring x.ra).occupied ∧ (if x.ra = x.rb then 2 else 1) ≤ ((s.core g).ring x.rb).occupied ∧
      (∀ j ∈ (s.core g).vjobs, j.ctx = q.ctx → q.mark ≤ j.id) ∧ x.ra ≠ x.rb) ∧
    (∃ (s : State) (g : Nat) (q : Tmma) (x : TileSet), (s.core g).tile.loads = [] ∧ nextLoad (s.core g).tile.queue 0 = some q ∧ x = q.set ∧
      (if x.ra = x.rb then 2 else 1) ≤ ((s.core g).ring x.ra).occupied ∧ (∀ j ∈ (s.core g).vjobs, j.ctx = q.ctx → q.mark ≤ j.id) ∧ x.ra = x.rb) ∧
    (∃ (s : State) (g : Nat) (q : Tmma) (r : List Tmma) (x : TileSet) (a b : List Byte) (l : List (TileSet × List Byte × List Byte)),
      (s.core g).tile.queue = q :: r ∧ (s.core g).tile.loads = (x, a, b) :: l ∧ q.done < q.k ∧ q.acc ≤ 3 ∧ x.mode = 1 ∧ x.semi = 3 ∧ x.legal = true ∧
      visibleAt s 1 g q.mark = true) ∧
    (∃ (s : State) (g : Nat) (q : Tmma) (r : List Tmma) (x : TileSet) (a b : List Byte) (l : List (TileSet × List Byte × List Byte)),
      (s.core g).tile.queue = q :: r ∧ (s.core g).tile.loads = (x, a, b) :: l ∧ q.done < q.k ∧ q.acc ≤ 3 ∧ x.mode = 0 ∧ x.semi = 0 ∧ x.legal = true ∧
      visibleAt s 1 g q.mark = true) ∧
    ∃ (s : State) (g : Nat) (q : Tmma) (r : List Tmma), (s.core g).tile.queue = q :: r ∧ q.k ≤ q.done ∧ q.core < 4096 ∧ BankReg q.shadow q.rd :=
  ⟨⟨probeAs (tileCore [] []) 0 (thread [(6, 3), (7, 65535)]), ⟨5, 6, 7, false, false⟩, 3, 65535, ready_of (by decide +kernel), by decide +kernel⟩,
   ⟨probeAs (tileCore [aTmma 0] []) 0 (thread []), 5, aTmma 0, (aTmma 0).set, by decide +kernel⟩,
   ⟨probeAs (tileCore [{ aTmma 0 with set := ⟨0, 0, 8, 8, 0, 0⟩ }] []) 0 (thread []), 5, { aTmma 0 with set := ⟨0, 0, 8, 8, 0, 0⟩ }, ⟨0, 0, 8, 8, 0, 0⟩,
      by decide +kernel⟩,
   ⟨probeAs (tileCore [aTmma 0] [(⟨1, 3, 8, 8, 0, 1⟩, [], [])]) 0 (thread []), 5, _, _, _, _, _, _, rfl, rfl, by decide +kernel⟩,
   ⟨probeAs (tileCore [aTmma 0] [(⟨0, 0, 1, 8, 0, 1⟩, [], [])]) 0 (thread []), 5, _, _, _, _, _, _, rfl, rfl, by decide +kernel⟩,
   probeAs (tileCore [aTmma 2] []) 0 (thread []), 5, _, _, rfl, by decide +kernel, by decide +kernel, by unfold BankReg; decide +kernel⟩

/-- A live copy of 64 bytes from DRAM 0x2000 to core 5's scratchpad. -/
def aCopy (n : Nat) (running : Bool) : Copy :=
  ⟨1, 7, 0, .m, 0xFFFF, #v[0x2000, 0x080001420000, 64, 0, 0, 1, 0, 0, 1, 1, 0], 0, 0, none, 0, 0, n, running, false, false, false, none⟩

def copying (l : List Copy) (regs : List (RegNo × Word)) : State :=
  { lineHeld (probeAs { Core.fresh with copies := l } 0 (thread regs)) with running := none }

/-- A copy from a slot of ring 0 to a slot of ring 1 whose bytes are all written, on a core with given reserved advances. -/
def moved : Copy := { aCopy 64 true with desc := (aCopy 64 true).desc.set 9 (0x130001 : Word) }

def reserving (l : List Resv) : State :=
  probeAs { Core.fresh with copies := [moved], resv := l, rings := [(0, ⟨0x21000, 64, 4, 0, 2⟩), (1, ⟨0x26000, 64, 4, 0, 0⟩)] } 0 (thread [])

/-- A place that a copy found is a given one, in a given state. -/
theorem placed_of {p : Option (Except Nat Where) × State} {w : Where} {s : State} (h : (match p.1 with
    | some (.ok x) => decide (x = w)
    | _ => false) = true) (hs : p.2 = s) : p = (some (.ok w), s) := by
  obtain ⟨_ | _ | x, t⟩ := p <;> simp_all

theorem wit_CopyEngine :
    (∃ (s : State) (o : R3), Ready s o.use ∧ vectorBusy s s.cur.1 s.cur.2 = false ∧ o.a = 0 ∧
      ((List.range 11).all fun f => !fieldBad s.myCore s.me.desc f) = true ∧ badRing s.myCore s.me.mode s.me.desc = none ∧ pushV s.me.desc = false ∧
      popV s.me.desc = false ∧ s.myCore.copies.length < 16) ∧
    (∃ (s : State) (o : R3) (f : Nat), Ready s o.use ∧ vectorBusy s s.cur.1 s.cur.2 = false ∧ o.a = 0 ∧
      (List.range 11).find? (fieldBad s.myCore s.me.desc) = some f) ∧
    (∃ (s : State) (o : R2), Ready s o.use ∧ (s.g o.a).toNat < 2 ^ 16 ∧ findCopy s (s.g o.a).toNat = none) ∧
    (∃ (s : State) (o : R2) (c : Copy), Ready s o.use ∧ (s.g o.a).toNat < 2 ^ 16 ∧ findCopy s (s.g o.a).toNat = some c ∧ (c.running = false ∨ c.paused ≠ none) ∧
      c.finished = false ∧ c.visible s s.cur.1 = true ∧ s.me.park = none) ∧
    (∃ (s : State) (o : R2) (c : Copy), Ready s o.use ∧ (s.g o.a).toNat < 2 ^ 16 ∧ findCopy s (s.g o.a).toNat = some c ∧ (c.running = false ∨ c.paused ≠ none) ∧
      c.visible s s.cur.1 = false) ∧
    (∃ (s : State) (o : R2) (c : Copy), Ready s o.use ∧ (s.g o.a).toNat < 2 ^ 16 ∧ findCopy s (s.g o.a).toNat = some c ∧ c.running = true ∧ c.paused = none) ∧
    (∃ (s : State) (o : Fone), Ready s o.useSrc ∧ o.i.toNat < 11) ∧
    (∃ (s s1 : State) (g m h off : Nat) (c : Copy) (a b : Where) (bs : List Byte),
      (s.core g).copies.find? (fun c => decide (c.paused = none) && !c.finished && decide (c.n < copyTotal c.desc)) = some c ∧ c.abort = false ∧
      fillV c.desc = false ∧ m = c.piece ∧ m ≤ 64 - (c.srcAt c.n).toNat % 64 ∧ Memory.wf s.mem = true ∧ 1 ≤ m ∧
      copyPlace s g { c with running := true } (popV c.desc) (c.srcAt c.n) m .load = (some (.ok a), s) ∧
      forkWaits s g { c with running := true } a.pa m false = false ∧ copyRead s g { c with running := true } a m = (bs, s1) ∧
      copyPlace s1 g { c with running := true } (pushV c.desc) (c.dstAt c.n) m .store = (some (.ok b), s1) ∧ placeOf s1 b.pa = .spad h off ∧
      forkWaits s1 g { c with running := true } b.pa m true = false ∧ copyLeaves s1 g b = false) ∧
    (∃ (s : State) (g : Nat) (c : Copy), (s.core g).copies.find? (fun c => decide (c.paused = none) && !c.finished && decide (c.n < copyTotal c.desc)) = some c ∧
      c.abort = true ∧ c.n % 4096 = 0) ∧
    (∃ (s : State) (g n k : Nat) (rd : RegNo) (c : Copy), (s.core g).copies.find? (fun c => decide (c.ticket = n)) = some c ∧ c.finished = true ∧
      c.visible s g = true ∧ (s.ctx g k).park = some (.copy n rd)) ∧
    (∃ (s : State) (g n : Nat) (c : Copy), (s.core g).copies.find? (fun c => decide (c.ticket = n)) = some c ∧ c.paused = none ∧ copyTotal c.desc ≤ c.n ∧
      c.visible s g = true ∧ (s.core g).resv = [] ∧ c.word = none) ∧
    (∃ (s : State) (g n h off : Nat) (c : Copy) (va x : Word) (w : Where), (s.core g).copies.find? (fun c => decide (c.ticket = n)) = some c ∧
      c.paused = none ∧ copyTotal c.desc ≤ c.n ∧ c.finished = false ∧ c.visible s g = true ∧ (s.core g).resv = [] ∧ c.advanced = true ∧
      c.word = some (va, x) ∧ copyPlace s g c false va 8 .store = (some (.ok w), s) ∧ placeOf s w.pa = .spad h off ∧ Memory.wf s.mem = true ∧
      forkWaits s g c w.pa 8 true = false ∧ copyLeaves s g w = false) ∧
    (∃ (s : State) (g n : Nat) (c : Copy) (l1 l2 l3 : List Resv), (s.core g).copies.find? (fun c => decide (c.ticket = n)) = some c ∧ c.paused = none ∧
      copyTotal c.desc ≤ c.n ∧ c.finished = false ∧ c.advanced = false ∧ c.visible s g = true ∧ c.word = none ∧
      (s.core g).resv = l1 ++ ⟨c.id, popRing c.desc, false, false, false⟩ :: l2 ++ ⟨c.id, pushRing c.desc, true, false, false⟩ :: l3 ∧
      ∀ r ∈ l1 ++ l2 ++ l3, r.owner ≠ c.id ∧ r.ready = false ∧ (r.ring, r.push) ≠ (popRing c.desc, false) ∧ (r.ring, r.push) ≠ (pushRing c.desc, true)) ∧
    ∃ (s : State) (g n : Nat) (c : Copy) (r : Resv), (s.core g).copies.find? (fun c => decide (c.ticket = n)) = some c ∧ c.paused = none ∧
      copyTotal c.desc ≤ c.n ∧ c.finished = false ∧ c.advanced = false ∧ c.visible s g = true ∧
      (s.core g).resv = [r, ⟨c.id, popRing c.desc, false, false, false⟩, ⟨c.id, pushRing c.desc, true, false, false⟩] ∧
      r.owner ≠ c.id ∧ r.ready = false ∧ r.ring = popRing c.desc ∧ r.push = false :=
  ⟨⟨probeAs Core.fresh 0 { thread [] with desc := (aCopy 0 false).desc }, ⟨5, 0, 7, false, false⟩, ready_of (by decide +kernel), by decide +kernel⟩,
   ⟨probeAs Core.fresh 0 { thread [] with desc := (aCopy 0 false).desc.set 5 0 }, ⟨5, 0, 7, false, false⟩, 5, ready_of (by decide +kernel), by decide +kernel⟩,
   ⟨copying [] [(6, 7)], ⟨5, 6, false⟩, ready_of (by decide +kernel), by decide +kernel⟩,
   ⟨copying [aCopy 0 false] [(6, 7)], ⟨5, 6, false⟩, aCopy 0 false, ready_of (by decide +kernel), by decide +kernel⟩,
   ⟨probeAs { Core.fresh with copies := [{ aCopy 0 false with desc := (aCopy 0 false).desc.set 9 (3 : Word), mark := 1 }]
                              wbuf := [⟨64, 0, 0, [⟨0, 1, 0, gctx 5 0, 0, 64⟩], 0⟩] } 0 (thread [(6, 7)]), ⟨5, 6, false⟩,
      { aCopy 0 false with desc := (aCopy 0 false).desc.set 9 (3 : Word), mark := 1 }, ready_of (by decide +kernel), by decide +kernel⟩,
   ⟨copying [aCopy 0 true] [(6, 7)], ⟨5, 6, false⟩, aCopy 0 true, ready_of (by decide +kernel), by decide +kernel⟩,
   ⟨probe [], ⟨6, 10⟩, ready_of (by decide +kernel), by decide⟩,
   ⟨copying [aCopy 0 false] [], (copyRead (copying [aCopy 0 false] []) 5 (aCopy 0 true) ⟨0x2000, false, false⟩ 64).2, 5, 64, 5, 0x20000, aCopy 0 false,
      ⟨0x2000, false, false⟩, ⟨0x080001420000, false, true⟩, (copyRead (copying [aCopy 0 false] []) 5 (aCopy 0 true) ⟨0x2000, false, false⟩ 64).1,
      by and_intros <;> first | exact placed_of (by decide +kernel) (by decide +kernel) | decide +kernel⟩,
   ⟨copying [{ aCopy 0 true with abort := true }] [], 5, { aCopy 0 true with abort := true }, by decide +kernel⟩,
   ⟨{ copying [{ aCopy 0 true with finished := true }] [] with
        cores := [(5, ({ Core.fresh with copies := [{ aCopy 0 true with finished := true }] }).setCtx 0 { thread [] with park := some (.copy 7 9) })] },
      5, 7, 0, 9, { aCopy 0 true with finished := true }, by decide +kernel⟩,
   ⟨copying [aCopy 64 true] [], 5, 7, aCopy 64 true, by decide +kernel⟩,
   ⟨copying [{ aCopy 64 true with advanced := true, word := some (0x080001420040, 9) }] [], 5, 7, 5, 0x20040,
      { aCopy 64 true with advanced := true, word := some (0x080001420040, 9) }, 0x080001420040, 9, ⟨0x080001420040, false, true⟩,
      by and_intros <;> first | exact placed_of (by decide +kernel) (by decide +kernel) | decide +kernel⟩,
   ⟨reserving [⟨9, 5, false, false, false⟩, ⟨1, 0, false, false, false⟩, ⟨1, 1, true, false, false⟩], 5, 7, moved, [⟨9, 5, false, false, false⟩], [], [],
      by decide +kernel⟩,
   reserving [⟨9, 0, false, false, false⟩, ⟨1, 0, false, false, false⟩, ⟨1, 1, true, false, false⟩], 5, 7, moved, ⟨9, 0, false, false, false⟩, by decide +kernel⟩

/-- R291 step 2: with its bytes written, the copy's reserved pop and push are made, and the ring's slot is free. -/
theorem test_copy_advances : goes (exec (.copyCompletion 5 7) (reserving [⟨1, 0, false, false, false⟩, ⟨1, 1, true, false, false⟩])) (fun t =>
    decide (((t.core 5).ring 0).head = 1) && decide (((t.core 5).ring 1).tail = 1) && decide ((t.core 5).resv = [])) = true := by decide +kernel

/-- A thread of context 0 beside one of context 1, which a PREEMPT or RESUME names by 0x51. -/
def twoThreads (x y : Ctx) : State := probeAs (coreWith 1 y Core.fresh) 0 x

/-- The value that names core 5, context 1 (R320). -/
def names51 : Word := 0x51

/-- A save of context 1 that a PREEMPT of context 0 asked for. -/
def aSave : SaveReq := ⟨3, 5, 1, 1, some (5, 0, 9), false, false, false, none, false⟩

/-- A frame of a saved thread in the save area. -/
def aFrame : Frame := ⟨7, 0x80000, 0x080001480000, 2048, false, [], false, [], 5, true, 64, .m, false, false, false, [], [], none, none, [], none, false, []⟩

theorem saved_of {o : SaveOut} (h : (match o with
    | .saved _ _ => true
    | _ => false) = true) : ∃ s f, o = .saved s f := by
  cases o <;> simp at h
  exact ⟨_, _, rfl⟩

theorem wit_PreemptionAndSaves :
    (∃ (s : State) (o : R3) (g k : Nat), Allowed s .s false ∧ Ready s o.use ∧ s.g o.b = 0 ∧ targetCtx s (s.g o.a) = some (g, k) ∧ (g, k) ≠ s.cur) ∧
    (∃ (s : State) (o : R3) (key : Nat) (x : Grid), Allowed s .s false ∧ Ready s o.use ∧ s.g o.b = 1 ∧
      liveGrid s (s.g o.a) (recordBasin s) = some (key, x) ∧ x.st = .waiting) ∧
    (∃ (s : State) (o : R3), Allowed s .s false ∧ Ready s o.use ∧ 1 < (s.g o.b).toNat) ∧
    (∃ (s : State) (o : R3) (g k : Nat), Allowed s .s false ∧ Ready s o.use ∧ s.g o.b = 2 ∧ vectorBusy s s.cur.1 s.cur.2 = false ∧
      s.me.relMark = none ∧ visibleAt s 3 s.cur.1 s.serial = true ∧ targetCtx s (s.g o.a) = some (g, k) ∧ (g, k) ≠ s.cur ∧
      (s.ctx g k).phase = .run ∧ (s.ctx g k).stop = some .halted) ∧
    (∃ (s : State) (o : R3) (key : Nat) (x : Grid), Allowed s .s false ∧ Ready s o.use ∧ s.g o.b = 1 ∧ vectorBusy s s.cur.1 s.cur.2 = false ∧
      s.me.relMark = none ∧ visibleAt s 3 s.cur.1 s.serial = true ∧ liveGrid s (s.g o.a) (recordBasin s) = some (key, x) ∧ x.st = .stopped) ∧
    (∃ (s : State) (o : R3) (g : Nat) (c : Copy), Allowed s .s false ∧ Ready s o.use ∧ s.g o.b = 3 ∧ vectorBusy s s.cur.1 s.cur.2 = false ∧
      s.me.relMark = none ∧ visibleAt s 3 s.cur.1 s.serial = true ∧ (s.g o.a).toNat < 2 ^ 32 ∧
      targetCore s ((s.g o.a).toNat / 2 ^ 16) = some g ∧ s.me.mode = .m ∧
      (s.core g).copies.find? (fun c => decide (c.ticket = (s.g o.a).toNat % 2 ^ 16) && c.paused.isSome) = some c) ∧
    (∃ (s : State) (n h j : Nat) (r : SaveReq) (rd : RegNo), s.saves[n]? = some r ∧ r.why = 1 ∧ r.group = none ∧ r.deferred = false ∧ firstSave s n r = true ∧
      (s.ctx r.core r.ctx).phase = .run ∧ (s.ctx r.core r.ctx).grid = none ∧ openEnd s r.core r.ctx = none ∧ saveable s r.core r.ctx = true ∧
      (s.ctx r.core r.ctx).stop = none ∧ r.answer = some (h, j, rd) ∧ (h, j) ≠ (r.core, r.ctx) ∧ ∃ s1 f, trySave s r.core r.ctx false = .saved s1 f) ∧
    (∃ (s : State) (n h j : Nat) (r : SaveReq) (rd : RegNo), s.saves[n]? = some r ∧ r.why = 1 ∧ r.group = none ∧ firstSave s n r = true ∧
      (openEnd s r.core r.ctx).isSome = true ∧ r.waited = false ∧
      r.answer = some (h, j, rd)) ∧
    (∃ (s : State) (n : Nat) (r : SaveReq), s.saves[n]? = some r ∧ r.deferred = true ∧ r.freed = true) ∧
    ∃ (s : State) (g k id h : Nat) (f : Frame), (s.ctx g k).park = some (.restore id) ∧ findFrame s id = some (h, f) ∧
      (s.core g).tile.waiters.contains k = false ∧ (s.core g).deque.length + f.dq.length ≤ 64 ∧ f.tile = none := by
  refine ⟨⟨twoThreads (thread [(6, names51)]) (thread []), ⟨5, 6, 7, false, false⟩, 5, 1, ?_, ready_of (by decide +kernel), by decide +kernel⟩,
    ⟨withGrid { twoGroups with st := .waiting } [(6, gridWord), (7, 1)], ⟨5, 6, 7, false, false⟩, 0, { twoGroups with st := .waiting }, ?_,
      ready_of (by decide +kernel), by decide +kernel⟩,
    ⟨probe [(7, 2)], ⟨5, 6, 7, false, false⟩, ?_, ready_of (by decide +kernel), by decide +kernel⟩,
    ⟨twoThreads (thread [(6, names51), (7, 2)]) { thread [] with stop := some .halted }, ⟨5, 6, 7, false, false⟩, 5, 1, ?_, ready_of (by decide +kernel),
      by decide +kernel⟩,
    ⟨withGrid { twoGroups with st := .stopped } [(6, gridWord), (7, 1)], ⟨5, 6, 7, false, false⟩, 0, { twoGroups with st := .stopped }, ?_,
      ready_of (by decide +kernel), by decide +kernel⟩,
    ⟨copying [{ aCopy 0 true with paused := some (1, 0x2000) }] [(6, 0x50007), (7, 3)], ⟨5, 6, 7, false, false⟩, 5,
      { aCopy 0 true with paused := some (1, 0x2000) }, ?_, ready_of (by decide +kernel), by decide +kernel⟩,
    ⟨{ twoThreads { thread [] with park := some (.answer 3) } (thread []) with saves := [aSave] }, 0, 5, 0, aSave, 9, by
      and_intros <;> first | exact saved_of (by decide +kernel) | decide +kernel⟩,
    ⟨{ ends { thread [] with park := some (.answer 3) } [{ chan with openPkt := 1, snd := { chan.snd with holder := .thread 5 1 } }] with saves := [aSave] },
      0, 5, 0, aSave, 9, by decide +kernel⟩,
    ⟨{ probe [] with saves := [{ aSave with deferred := true, freed := true }] }, 0, { aSave with deferred := true, freed := true }, by decide +kernel⟩,
    probeAs { Core.fresh with frames := [aFrame] } 0 { thread [] with park := some (.restore 7) }, 5, 0, 7, 5, aFrame, by decide +kernel⟩
  all_goals unfold Allowed; decide +kernel

/-- A thread of context 1 that a save takes, beside a context that waits for the answer and one that waits for the restore of the
frame that the save makes. -/
def recorded : State :=
  { probeAs ((coreWith 1 (sThread [(6, 0xDEADBEEF)]) Core.fresh).setCtx 2 { Ctx.fresh with phase := .run, park := some (.restore 1) }) 0
      { thread [] with park := some (.answer 3) } with saves := [aSave] }

/-- The state that an outcome goes on to. -/
def nextOf : Host.Outcome State Fault Refusal → State
  | .next t => t
  | _ => State.reset

theorem next_of {o : Host.Outcome State Fault Refusal} (h : goes o (fun _ => true) = true) : o = .next (nextOf o) := by
  cases o <;> first | rfl | cases h

/-- The state after that save, and the frame it has made. -/
def recordedNext : State := nextOf (execContextSave 0 recorded)
def recordedFrame : Frame := ((recordedNext.core 5).frames.head?).getD aFrame

theorem recorded_saves : SavesAt recorded 0 aSave 0x80000 where
  request := by decide +kernel
  runs := ⟨by decide +kernel, by decide +kernel, fun c v => by rw [show (recorded.ctx aSave.core aSave.ctx).stop = none by decide +kernel]; exact nofun⟩
  idle := by decide +kernel
  boundary := by decide +kernel
  engine := by decide +kernel
  room := by decide +kernel
  asked := ⟨5, 0, 9, by decide +kernel⟩
  aligned := by decide
  wf := by decide +kernel

theorem wit_FramesRecordThreads : (∃ (s : State) (n off : Nat) (r : SaveReq), SavesAt s n r off) ∧
    ∃ (s t u : State) (n off g k : Nat) (r : SaveReq) (f : Frame) (b : Bool), SavesAt s n r off ∧ exec (.contextSave n) s = .next t ∧
      f ∈ (t.core r.core).frames ∧ f ∉ (s.core r.core).frames ∧ findFrame u f.id = some (r.core, { f with placed := b }) ∧
      (∀ a, windowOf r.core + off ≤ a → a < windowOf r.core + off + 1792 → readByte u.mem a = readByte t.mem a) ∧
      (∀ o, off ≤ o → o < off + 1792 → tagAt u r.core o = tagAt t r.core o) ∧ (u.ctx g k).park = some (.restore f.id) ∧
      (u.core g).tile.waiters.contains k = false ∧ (u.core g).deque.length ≤ 64 :=
  ⟨⟨recorded, 0, 0x80000, aSave, recorded_saves⟩,
   recorded, recordedNext, recordedNext, 0, 0x80000, 5, 2, aSave, recordedFrame, false, recorded_saves, next_of (by decide +kernel), by decide +kernel,
     by decide +kernel, by decide +kernel, fun _ _ _ => rfl, fun _ _ _ => rfl, by decide +kernel, by decide +kernel, by decide +kernel⟩

/-- A basin-0 core whose S-mode thread waits for a page walk at 0x10000. -/
def walking (entry : List Host.Cell) : State :=
  { probeAs { Core.fresh with tenant := 0, ptbase := 0x4000 } 0 { sThread [] with mode := .u, park := some (.walk 0x10000 .load 0x21) } with mem := entry }

/-- A page table of basin 0 with its root at 0x4000 that maps the 64 KiB page at 0x10000 to 0x20000, readable in U mode. -/
def walkCells : List Host.Cell :=
  [(0x4000, 1), (0x4001, 0x60), (0x6000, 1), (0x6001, 0x80), (0x8000, 1), (0x8001, 0xA0), (0xA008, 0x27), (0xA00A, 2)]

theorem wit_FetchAndMemoryPath :
    (∃ (s : State) (g k : Nat) (w : Where), alive s g k = true ∧ (s.ctx g k).park = some .fetch ∧
      translate s ⟨g, (s.ctx g k).mode, (coreBasin s g).getD 64⟩ (s.ctx g k).pc .fetch 4 = .ok w ∧ canRead s g (lineOf w.pa) = true ∧
      overlaps s g (gctx g k) w.pa 4 = false) ∧
    (∃ (s : State) (g k : Nat), mayWake s g k = true) ∧
    (∃ (s : State) (o : Jt), Ready s o.use ∧ o.c.toNat ≤ (s.g o.a).toNat) ∧
    (∃ (s : State) (o : Jt) (w : Where) (off : Nat), Ready s o.use ∧ (s.g o.a).toNat < o.c.toNat ∧
      (s.g o.b + BitVec.ofNat 64 (4 * (s.g o.a).toNat)).toNat % 4 = 0 ∧
      translate s s.who (s.g o.b + BitVec.ofNat 64 (4 * (s.g o.a).toNat)) .load 4 = .ok w ∧ placeOf s w.pa = .spad s.cur.1 off ∧ Unhindered s w 0 ∧
      (s.g o.b + (BitVec.ofNat 32 (leNat (readBytes s.mem w.pa 4))).signExtend 64).toNat % 4 = 0) ∧
    (∃ (s : State) (o : Jt) (w : Where), Ready s o.use ∧ (s.g o.a).toNat < o.c.toNat ∧
      (s.g o.b + BitVec.ofNat 64 (4 * (s.g o.a).toNat)).toNat % 4 = 0 ∧
      translate s s.who (s.g o.b + BitVec.ofNat 64 (4 * (s.g o.a).toNat)) .load 4 = .ok w ∧ placeOf s w.pa = .dram ∧
      lineBusy s s.cur.1 s.cur.2 (lineOf w.pa) = false ∧ overlaps s s.cur.1 (gctx s.cur.1 s.cur.2) w.pa 4 = false) ∧
    (∃ (s : State) (g k : Nat) (op : LoadOp) (base : Word), alive s g k = true ∧ (s.ctx g k).park = some (.load op) ∧ op.table = some base ∧
      overlaps s g (gctx g k) op.addr op.size = false ∧ canRead s g (lineOf op.addr) = true ∧
      (base + op.value (seenBytes s g (gctx g k) false op.addr op.size)).toNat % 4 = 0) ∧
    (∃ (s s2 : State) (g bank : Nat) (e : WEntry) (c : Core), popBank s (s.core g) (sliceTower s g) bank = some (e, c) ∧
      e.home / 256 = sliceTower s g ∧ (∀ x ∈ outQueue (s.tower (sliceTower s g)) (sliceTower s g), x.line ≠ e.line) ∧
      homeWrite (s.setCore g c) e.line e.home (basinMask s e.basin) = some s2) ∧
    (∃ (s : State) (g bank : Nat) (e : WEntry) (c : Core), popBank s (s.core g) (sliceTower s g) bank = some (e, c) ∧
      e.home / 256 ≠ sliceTower s g) ∧
    (∃ (s : State) (g bank : Nat) (e : WEntry) (c : Core), popBank s (s.core g) (sliceTower s g) bank = some (e, c) ∧
      e.home / 256 = sliceTower s g ∧ ∃ x ∈ outQueue (s.tower (sliceTower s g)) (sliceTower s g), x.line = e.line) ∧
    (∃ (s : State) (g bank : Nat) (e : WEntry) (c : Core), popBank s (s.core g) (sliceTower s g) bank = some (e, c) ∧
      e.home / 256 = sliceTower s g ∧ homeWrite (s.setCore g c) e.line e.home (basinMask s e.basin) = none) ∧
    (∃ (s s0 : State) (n d : Nat) (e : WEntry), nextStore s n d = some e ∧ heldBack s n d e.sent = false ∧ wrNext s n d e.sent = true ∧
      (∀ x ∈ (s.tower n).outbound, x.unitBefore e = false) ∧ homeWrite s e.line e.home (basinMask s e.basin) = some s0) ∧
    (∃ (s : State) (g k cause entry : Nat) (va : Word) (acc : Access) (x : Xlat), alive s g k = true ∧ (s.ctx g k).park = some (.walk va acc cause) ∧
      (s.tower (sliceTower s g)).tcache.find? (fun x => x.covers ((coreBasin s g).getD 64) va.toNat) = none ∧
      walk s g ((coreBasin s g).getD 64) va.toNat = .leaf x entry false false ∧ x.permits (s.ctx g k).mode acc = true) ∧
    (∃ (s : State) (g k cause : Nat) (va : Word) (acc : Access), alive s g k = true ∧ (s.ctx g k).park = some (.walk va acc cause) ∧
      (s.tower (sliceTower s g)).tcache.find? (fun x => x.covers ((coreBasin s g).getD 64) va.toNat) = none ∧
      walk s g ((coreBasin s g).getD 64) va.toNat = .fault ∧ (s.ctx g k).mode ≠ .s ∧ (s.ctx g k).th = false) ∧
    (∃ (s : State) (g : Nat) (p : Prefetch) (r : List Prefetch), (s.core g).prefetch = p :: r ∧
      (translateNow (s.setCore g { s.core g with prefetch := if p.left ≤ 1 then r else ⟨p.va + 128, p.left - 1, p.mode, p.basin⟩ :: r })
        ⟨g, p.mode, p.basin⟩ p.va .load 8).1 ≠ .miss) ∧
    (∃ (s : State) (n : Nat) (e : Esc), s.escs[n]? = some e ∧ (s.guard (sliceTower s e.rel)).on = false ∧
      (∀ d, atomStamps s (sliceTower s e.rel) d = []) ∧
      ∀ x ∈ (s.core e.rel).wbuf ++ (s.tower (sliceTower s e.rel)).outbound, ∀ b ∈ x.bytes, b.gctx < 2 ^ 21) ∧
    ∃ (s : State) (n : Nat) (e : Esc), s.escs[n]? = some e ∧ e.drained = true ∧ visibleAt s (scopeOf e.rel e.core) e.rel e.mark = true ∧
      (s.ctx e.core e.ctx).park = some (.escalation e.id) :=
  ⟨⟨{ probeAs Core.fresh 0 { thread [] with park := some .fetch } with lines := [(32, { LineTok.fresh with slices := [(0, ⟨.data, 1, false, 0, 0, 0, 0⟩)] })] },
      5, 0, ⟨0x1000, false, false⟩, by decide +kernel⟩,
   ⟨probeAs Core.fresh 0 { thread [] with park := some (.regs [(false, 6)]) }, 5, 0, by decide +kernel⟩,
   ⟨probe [(6, 8)], ⟨6, 7, false, false, 8⟩, ready_of (by decide +kernel), by decide +kernel⟩,
   ⟨{ probe [(6, 7), (7, own 0x20000)] with mem := [(0x08000142001C, 0x10)] }, ⟨6, 7, false, false, 8⟩, ⟨0x08000142001C, false, true⟩, 0x2001C,
      ready_of (by decide +kernel), by decide +kernel, by decide +kernel, by decide +kernel, by decide +kernel, by unfold Unhindered; decide +kernel,
      by decide +kernel⟩,
   ⟨probe [(6, 7), (7, 0x20000)], ⟨6, 7, false, false, 8⟩, ⟨0x2001C, false, false⟩, ready_of (by decide +kernel), by decide +kernel, by decide +kernel,
      by decide +kernel, by decide +kernel, by decide +kernel, by decide +kernel⟩,
   ⟨{ probeAs Core.fresh 0 { thread [] with park := some (.load ⟨0x2000, false, 4, true, 0, false, 0, false, some 0x3000⟩) } with
       lines := [(64, { LineTok.fresh with slices := [(0, ⟨.data, 1, false, 0, 0, 0, 0⟩)] })] },
      5, 0, ⟨0x2000, false, 4, true, 0, false, 0, false, some 0x3000⟩, 0x3000, by decide +kernel⟩,
   ⟨lineHeld (probeAs { Core.fresh with wbuf := [⟨64, 0, 0, [⟨0, 1, 0, gctx 5 0, 0, 64⟩], 0⟩] } 0 (thread [])),
      (homeWrite (lineHeld (probe [])) 64 0 (basinMask (probe []) 64)).getD State.reset, 5, bankOf 64, ⟨64, 0, 0, [⟨0, 1, 0, gctx 5 0, 0, 64⟩], 0⟩, Core.fresh.setCtx 0 (thread []),
      by decide +kernel⟩,
   ⟨probeAs { Core.fresh with wbuf := [⟨64, 256, 0, [⟨0, 1, 0, gctx 5 0, 0, 64⟩], 0⟩] } 0 (thread []), 5, bankOf 64, ⟨64, 256, 0, [⟨0, 1, 0, gctx 5 0, 0, 64⟩], 0⟩,
      Core.fresh.setCtx 0 (thread []), by decide +kernel⟩,
   ⟨{ lineHeld (probeAs { Core.fresh with wbuf := [⟨64, 0, 0, [⟨0, 1, 0, gctx 5 0, 0, 64⟩], 0⟩] } 0 (thread [])) with
       towers := [(0, { Tower.fresh with outbound := [⟨64, 0, 0, [⟨1, 1, 0, 0, 0, 64⟩], 1⟩] })] }, 5, bankOf 64, ⟨64, 0, 0, [⟨0, 1, 0, gctx 5 0, 0, 64⟩], 0⟩,
      Core.fresh.setCtx 0 (thread []), by decide +kernel⟩,
   ⟨probeAs { Core.fresh with wbuf := [⟨64, 0, 0, [⟨0, 1, 0, gctx 5 0, 0, 64⟩], 0⟩] } 0 (thread []), 5, bankOf 64, ⟨64, 0, 0, [⟨0, 1, 0, gctx 5 0, 0, 64⟩], 0⟩,
      Core.fresh.setCtx 0 (thread []), by decide +kernel⟩,
   ⟨{ lineHeld (probe []) with towers := [(1, { Tower.fresh with outbound := [⟨64, 0, 0, [⟨0, 1, 0, 0, 0, 64⟩], 1⟩] })] },
      (homeWrite { lineHeld (probe []) with towers := [(1, { Tower.fresh with outbound := [⟨64, 0, 0, [⟨0, 1, 0, 0, 0, 64⟩], 1⟩] })] } 64 0 (basinMask (probe []) 64)).getD State.reset,
      1, 0, ⟨64, 0, 0, [⟨0, 1, 0, 0, 0, 64⟩], 1⟩, by decide +kernel⟩,
   ⟨walking walkCells, 5, 0, 0x21, 0xA008, 0x10000, .load, ⟨0, 0x10000, 16, 0x20000, true, false, false, true, false⟩, by decide +kernel⟩,
   ⟨walking [], 5, 0, 0x21, 0x10000, .load, by decide +kernel⟩,
   ⟨probeAs { Core.fresh with prefetch := [⟨0x2000, 1, .m, 64⟩] } 0 (thread []), 5, _, _, rfl, by decide +kernel⟩,
   ⟨{ probe [] with escs := [⟨4, 5, 0, 6, 0, false⟩] }, 0, ⟨4, 5, 0, 6, 0, false⟩, by decide +kernel, by decide +kernel, fun _ => rfl, by decide +kernel⟩,
   { probeAs Core.fresh 0 { thread [] with park := some (.escalation 4) } with escs := [⟨4, 5, 0, 6, 0, true⟩] }, 0, ⟨4, 5, 0, 6, 0, true⟩, by decide +kernel⟩

/-- A message about line 64 (of tower 0's controller) in flight from tower 1. -/
def inFlight (m : TokMsg) (x : LineTok) : State := { probe [] with msgs := [m], lines := [(64, x)] }

/-- Such a message to the controller, or to tower 0's slice. -/
def toCtl (b : TokBody) : TokMsg := ⟨1, 0, true, 0, 1, 64, 0, b⟩
def toSlice (b : TokBody) : TokMsg := ⟨1, 2, false, 0, 1, 64, 0, b⟩

/-- A line whose controller holds all, one a slice of tower 2 shares, one with a request of tower 2. -/
def shared : LineTok := { LineTok.fresh with ctl := ⟨7, true, false, false, 0⟩, slices := [(2, ⟨.data, 1, false, 0, 0, 0, 0⟩)] }
/-- A line with seven tokens and the owner at its home slice on tower 0. -/
def homed : LineTok := { LineTok.fresh with ctl := ⟨0, false, false, false, 0⟩, slices := [(0, ⟨.data, 7, true, 0, 0, 0, 0⟩)] }
def asking (stage : Nat) : LineTok := { LineTok.fresh with reqs := [(2, ⟨true, stage, 64, 0, none⟩)] }
def weirLine (e : WeirEntry) : LineTok := { LineTok.fresh with weir := [e] }

theorem wit_TokensConserved : ∃ (i : Instr) (s : State), tokenEvent i = true ∧ SlicesOk s := by
  refine ⟨.treqReceive 0, inFlight (toCtl (.treq true 1)) shared, rfl, ?_⟩
  intro l
  by_cases h : l = 64
  · subst h; decide +kernel
  · have : (inFlight (toCtl (.treq true 1)) shared).line l = LineTok.fresh := by
      show (if 64 = l then shared else LineTok.fresh) = _
      rw [if_neg (by omega)]
    rw [this]; decide

theorem wit_TransientRequestsAndCensus :
    (∃ (s : State) (n q : Nat) (m : TokMsg), Arrives s n m (.treq true q) ∧ m.toCtl = true ∧ (s.line m.line).activeAt 8 = none ∧
      (s.line m.line).maker = none ∧ (s.line m.line).due = [] ∧ 0 < (s.line m.line).ctl.tok) ∧
    (∃ (s : State) (n q : Nat) (m : TokMsg), Arrives s n m (.treq false q) ∧ m.toCtl = true ∧ (s.line m.line).activeAt 8 = none ∧
      (s.line m.line).maker = none ∧ (s.line m.line).ctl.own = true ∧ 2 ≤ (s.line m.line).ctl.tok) ∧
    (∃ (s : State) (n q : Nat) (m : TokMsg) (g : SliceTag), Arrives s n m (.treq true q) ∧ m.toCtl = false ∧
      (s.line m.line).activeAt m.dst = none ∧ (s.line m.line).maker = none ∧ flook (s.line m.line).slices m.dst = some g ∧ m.dst ≠ m.home / 256) ∧
    (∃ (s : State) (n c r : Nat) (o z d : Bool) (m : TokMsg), Arrives s n m (.tok c o z d r) ∧ m.toCtl = true ∧ (s.line m.line).activeAt 8 = none) ∧
    (∃ (s : State) (n c r : Nat) (o z d : Bool) (m : TokMsg) (g : SliceTag), Arrives s n m (.tok c o z d r) ∧ m.toCtl = false ∧
      (s.line m.line).activeAt m.dst = none ∧ flook (s.line m.line).slices m.dst = some g ∧ flook (s.line m.line).reqs m.dst = none) ∧
    (∃ (s : State) (n : Nat) (m : TokMsg), Arrives s n m .dmark) ∧
    (∃ (s : State) (tower line : Nat) (r : TokReq), flook (s.line line).reqs tower = some r ∧ r.stage = 1) ∧
    (∃ (s : State) (tower line : Nat) (r : TokReq), flook (s.line line).reqs tower = some r ∧ r.stage = 2 ∧ weirRoom s r.home tower = true) ∧
    (∃ (s : State) (line r : Nat) (l : List Nat), (s.line line).ctl.own = true ∧ pageSaved s (line / 512) = true ∧ (s.line line).maker = none ∧
      (s.line line).due = r :: l ∧ (s.line line).ownerSlice = none ∧ (s.line line).weir = [⟨0, 1, true, .placed, 0⟩]) ∧
    (∃ (s : State) (line r h : Nat) (l : List Nat), pageSaved s (line / 512) = true ∧ (s.line line).maker = none ∧ (s.line line).due = r :: l ∧
      (s.line line).ownerSlice = some h ∧ ∀ e ∈ (s.line line).weir, e.st = .placed) ∧
    (∃ (s : State) (n r k : Nat) (m : TokMsg), Arrives s n m (.census false) ∧ m.toCtl = false ∧ (s.line m.line).maker = some (r, k) ∧ m.dst ≠ r) ∧
    (∃ (s : State) (n r k : Nat) (m : TokMsg), Arrives s n m (.census true) ∧ m.toCtl = false ∧ (s.line m.line).maker = some (r, k) ∧ m.dst ≠ r ∧
      m.dst ≠ m.src) ∧
    (∃ (s : State) (n r k : Nat) (m : TokMsg), Arrives s n m (.census true) ∧ m.toCtl = true ∧ (s.line m.line).maker = some (r, k)) ∧
    (∃ (s : State) (n c r k : Nat) (m : TokMsg), Arrives s n m (.reply c) ∧ m.toCtl = true ∧ (s.line m.line).maker = some (r, k)) ∧
    (∃ (s : State) (n c r k : Nat) (m : TokMsg) (g : SliceTag), Arrives s n m (.reply c) ∧ m.toCtl = false ∧ (s.line m.line).maker = some (r, k) ∧
      (s.line m.line).activeAt m.dst = none ∧ flook (s.line m.line).slices m.dst = some g ∧ flook (s.line m.line).reqs m.dst = none) ∧
    (∃ (s : State) (line r : Nat), (s.line line).ctl.own = true ∧ pageSaved s (line / 512) = true ∧ (s.line line).maker = some (r, 0) ∧
      (s.line line).slices = [] ∧ flying s line = 0 ∧ ∀ m ∈ s.msgs, m.line = line → m.body ≠ .census false) ∧
    ∃ (s : State) (line r h : Nat) (g : SliceTag), pageSaved s (line / 512) = true ∧ (s.line line).maker = some (r, 0) ∧
      (s.line line).slices = [(h, g)] ∧ g.owner = true ∧ (s.line line).ctl.tok = 0 ∧ flying s line = 0 ∧
      (∀ m ∈ s.msgs, m.line = line → m.body ≠ .census true) ∧ flook (s.line line).reqs h = none :=
  ⟨⟨inFlight (toCtl (.treq true 1)) shared, 0, 1, toCtl (.treq true 1), by unfold Arrives; decide +kernel, by decide +kernel⟩,
   ⟨inFlight (toCtl (.treq false 1)) shared, 0, 1, toCtl (.treq false 1), by unfold Arrives; decide +kernel, by decide +kernel⟩,
   ⟨inFlight (toSlice (.treq true 1)) shared, 0, 1, toSlice (.treq true 1), ⟨.data, 1, false, 0, 0, 0, 0⟩, by unfold Arrives; decide +kernel, by decide +kernel⟩,
   ⟨inFlight (toCtl (.tok 1 false false false 0)) shared, 0, 1, 0, false, false, false, toCtl (.tok 1 false false false 0), by unfold Arrives; decide +kernel,
      by decide +kernel⟩,
   ⟨inFlight (toSlice (.tok 1 false false true 0)) shared, 0, 1, 0, false, false, true, toSlice (.tok 1 false false true 0), ⟨.data, 1, false, 0, 0, 0, 0⟩,
      by unfold Arrives; decide +kernel, by decide +kernel⟩,
   ⟨inFlight (toCtl .dmark) shared, 0, toCtl .dmark, by unfold Arrives; decide +kernel⟩,
   ⟨{ probe [] with lines := [(64, asking 1)] }, 2, 64, ⟨true, 1, 64, 0, none⟩, by decide +kernel⟩,
   ⟨{ probe [] with lines := [(64, asking 2)] }, 2, 64, ⟨true, 2, 64, 0, none⟩, by decide +kernel⟩,
   ⟨{ probe [] with lines := [(64, { weirLine ⟨0, 1, true, .placed, 0⟩ with due := [3] })] }, 64, 3, [], by decide +kernel⟩,
   ⟨{ probe [] with lines := [(64, { homed with due := [3] })] }, 64, 3, 0, [], by decide +kernel⟩,
   ⟨inFlight (toSlice (.census false)) { shared with maker := some (3, 7) }, 0, 3, 7, toSlice (.census false), by unfold Arrives; decide +kernel, by decide +kernel⟩,
   ⟨inFlight (toSlice (.census true)) { shared with maker := some (3, 7) }, 0, 3, 7, toSlice (.census true), by unfold Arrives; decide +kernel, by decide +kernel⟩,
   ⟨inFlight (toCtl (.census true)) { shared with maker := some (3, 7) }, 0, 3, 7, toCtl (.census true), by unfold Arrives; decide +kernel, by decide +kernel⟩,
   ⟨inFlight (toCtl (.reply 1)) { shared with maker := some (3, 7) }, 0, 1, 3, 7, toCtl (.reply 1), by unfold Arrives; decide +kernel, by decide +kernel⟩,
   ⟨inFlight (toSlice (.reply 1)) { shared with maker := some (3, 7) }, 0, 1, 3, 7, toSlice (.reply 1), ⟨.data, 1, false, 0, 0, 0, 0⟩,
      by unfold Arrives; decide +kernel, by decide +kernel⟩,
   ⟨{ probe [] with lines := [(64, { LineTok.fresh with ctl := ⟨7, true, false, false, 0⟩, maker := some (3, 0) })] }, 64, 3, by decide +kernel⟩,
   { probe [] with lines := [(64, { homed with maker := some (3, 0) })] }, 64, 3, 0, ⟨.data, 7, true, 0, 0, 0, 0⟩, by decide +kernel⟩

theorem wit_PersistentRequests :
    (∃ (s : State) (n q : Nat) (w : Bool) (m : TokMsg), Arrives s n m (.preq w q) ∧ weirCount s m.home q < 2 ∧ (s.line m.line).weir = [] ∧
      (s.line m.line).maker = none ∧ w = true ∧ (s.line m.line).due = []) ∧
    (∃ (s : State) (n q : Nat) (w : Bool) (m : TokMsg), Arrives s n m (.preq w q) ∧ 2 ≤ weirCount s m.home q ∧
      weirWaiting s m.home < 32) ∧
    (∃ (s : State) (n q : Nat) (m : TokMsg) (g : SliceTag), Arrives s n m (.pact false q) ∧ m.toCtl = false ∧ m.dst ≠ q ∧ m.dst ≠ 8 ∧
      flook (s.line m.line).slices m.dst = some g ∧ g.owner = true ∧ g.tok = 1) ∧
    (∃ (s : State) (n : Nat) (z : Bool) (m : TokMsg) (g : SliceTag), Arrives s n m (.data z) ∧ flook (s.line m.line).slices m.dst = some g ∧
      g.form = .tokenOnly ∧ flook (s.line m.line).reqs m.dst = none) ∧
    (∃ (s : State) (n q : Nat) (w : Bool) (m : TokMsg), Arrives s n m (.pact w q)) ∧
    (∃ (s : State) (n q : Nat) (m : TokMsg) (g : SliceTag), Arrives s n m (.pact true q) ∧ m.toCtl = false ∧ m.dst ≠ q ∧ m.dst ≠ 8 ∧
      flook (s.line m.line).slices m.dst = some g ∧ 0 < g.tok) ∧
    (∃ (s : State) (n : Nat) (m : TokMsg) (e : WeirEntry) (r : List WeirEntry), Arrives s n m .pack ∧ (s.line m.line).weir = e :: r ∧ 1 < e.acks) ∧
    (∃ (s : State) (n : Nat) (m : TokMsg) (e : WeirEntry) (r : List WeirEntry), Arrives s n m .pack ∧ (s.line m.line).weir = e :: r ∧ e.acks = 1 ∧
      e.st = .activating) ∧
    (∃ (s : State) (n : Nat) (m : TokMsg) (e : WeirEntry) (r : List WeirEntry), Arrives s n m .pdone ∧ (s.line m.line).weir = e :: r) ∧
    ∃ (s : State) (n q : Nat) (w : Bool) (m : TokMsg), Arrives s n m (.pdeact w q) :=
  ⟨⟨inFlight (toSlice (.preq true 1)) shared, 0, 1, true, toSlice (.preq true 1), by unfold Arrives; decide +kernel, by decide +kernel⟩,
   ⟨{ probe [] with msgs := [toSlice (.preq true 1)], lines := [(64, weirLine ⟨0, 1, true, .placed, 0⟩), (65, weirLine ⟨0, 1, true, .placed, 0⟩)] },
      0, 1, true, toSlice (.preq true 1), by unfold Arrives; decide +kernel, by decide +kernel⟩,
   ⟨inFlight (toSlice (.pact false 1)) { shared with slices := [(2, ⟨.data, 1, true, 0, 0, 0, 0⟩)] }, 0, 1, toSlice (.pact false 1), ⟨.data, 1, true, 0, 0, 0, 0⟩,
      by unfold Arrives; decide +kernel, by decide +kernel⟩,
   ⟨inFlight (toSlice (.data true)) { shared with slices := [(2, ⟨.tokenOnly, 1, false, 0, 0, 0, 0⟩)] }, 0, true, toSlice (.data true), ⟨.tokenOnly, 1, false, 0, 0, 0, 0⟩,
      by unfold Arrives; decide +kernel, by decide +kernel⟩,
   ⟨inFlight (toCtl (.pact true 1)) shared, 0, 1, true, toCtl (.pact true 1), by unfold Arrives; decide +kernel⟩,
   ⟨inFlight (toSlice (.pact true 1)) shared, 0, 1, toSlice (.pact true 1), ⟨.data, 1, false, 0, 0, 0, 0⟩, by unfold Arrives; decide +kernel, by decide +kernel⟩,
   ⟨inFlight (toSlice .pack) (weirLine ⟨0, 1, true, .activating, 2⟩), 0, toSlice .pack, ⟨0, 1, true, .activating, 2⟩, [], by unfold Arrives; decide +kernel,
      by decide +kernel⟩,
   ⟨inFlight (toSlice .pack) (weirLine ⟨0, 1, true, .activating, 1⟩), 0, toSlice .pack, ⟨0, 1, true, .activating, 1⟩, [], by unfold Arrives; decide +kernel,
      by decide +kernel⟩,
   ⟨inFlight (toSlice .pdone) (weirLine ⟨0, 1, true, .active, 0⟩), 0, toSlice .pdone, ⟨0, 1, true, .active, 0⟩, [], by unfold Arrives; decide +kernel,
      by decide +kernel⟩,
   inFlight (toSlice (.pdeact true 1)) shared, 0, 1, true, toSlice (.pdeact true 1), by unfold Arrives; decide +kernel⟩

/-- A part whose CAPS says that checkpoints (bit 10) and peers (bit 11) are present, with one tower's guard. -/
def guarded (n : Nat) (x : Guard) : State := { probe [] with caps := 0x000000FF00010FFF, guards := [(n, x)] }

/-- A checkpoint of tower 0. -/
def aCkpt : Ckpt := capture (probe []) 0

theorem wit_TowerResets :
    (∃ (s : State) (r : Nat), towerPresent s r = true ∧ (s.guard r).on = false) ∧
    (∃ (s : State) (r : Nat) (c : Ckpt), towerPresent s r = true ∧ (s.guard r).resetDue = true ∧ (s.guard r).on = true ∧ s.caps.getLsbD 10 = true ∧
      buddyStands s r = true ∧ (s.guard r).stored = some c ∧ (c.cores.map Prod.fst).Pairwise (· < ·) ∧
      (c.cores.all fun p => decide (p.1 / 256 = r)) = true) ∧
    ∃ (s : State) (r : Nat), towerPresent s r = true ∧ (s.guard r).resetDue = false :=
  ⟨⟨probe [], 7, by decide +kernel⟩,
   ⟨guarded 0 { Guard.fresh with on := true, resetDue := true, stored := some aCkpt }, 0, aCkpt, by decide +kernel⟩,
   probe [], 0, by decide +kernel⟩

theorem wit_LinksAndCheckpoints :
    (∃ (s : State) (tower link : Nat), linkUp s tower link = true) ∧
    (∃ (s : State) (tower link : Nat), linkUp s tower link = true ∧ 16 ≤ fget 0 (s.guard tower).bad link) ∧
    (∃ (s : State) (r : Nat), (s.guard r).on = true ∧ (s.guard r).pending = none ∧ towerQuiet s r = true) ∧
    (∃ (s : State) (r : Nat), (s.guard r).on = true ∧ (s.guard r).pending = none ∧ towerQuiet s r = false) ∧
    (∃ (s : State) (r : Nat) (c : Ckpt), (s.guard r).pending = some c ∧ buddyStands s r = true) ∧
    (∃ (s : State) (r n : Nat) (c : Ckpt), (s.guard r).pending = some c ∧ n = 1) ∧
    (∃ (s : State) (r n : Nat) (c : Ckpt), (s.guard r).pending = some c ∧ n = 2) ∧
    ∃ page : Nat, page * 65536 / 2 ^ 35 < 8 :=
  ⟨⟨probe [], 7, 3, by decide +kernel⟩, ⟨guarded 3 { Guard.fresh with bad := [(2, 16)] }, 3, 2, by decide +kernel⟩,
   ⟨guarded 0 { Guard.fresh with on := true }, 0, by decide +kernel⟩,
   ⟨{ probeAs { Core.fresh with vjobs := [addJob] } 0 (thread []) with guards := [(0, { Guard.fresh with on := true })] }, 0, by decide +kernel⟩,
   ⟨guarded 0 { Guard.fresh with pending := some aCkpt }, 0, aCkpt, by decide +kernel⟩,
   ⟨guarded 0 { Guard.fresh with pending := some aCkpt, stored := some aCkpt }, 0, 1, aCkpt, by decide +kernel⟩,
   ⟨guarded 0 { Guard.fresh with pending := some aCkpt, stored := some aCkpt }, 0, 2, aCkpt, by decide +kernel⟩, 4194303, by decide⟩

/-- A store of an 8-byte value that is due at a device register. -/
def due (a : Nat) (v : Word) : RemoteOp := ⟨9, 2048, 0, 64, a, 8, some (leBytes 8 v.toNat), none, 1, none⟩

def storing (a : Nat) (v : Word) : State := { probe [] with remotes := [due a v] }

theorem wit_DeviceRegisters :
    (∃ (s : State) (n : Nat) (v : Word) (r : RemoteOp), DueWrite s (towerAddr n 0x008) v r ∧ towerPresent s n = true ∧
      (v.getLsbD 0 = true → s.caps.getLsbD 10 = true) ∧ 100 ≤ v.toNat / 2 ^ 32 ∧ v.toNat / 2 ^ 32 ≤ 100000) ∧
    (∃ (s : State) (n : Nat) (r : RemoteOp), DueWrite s (towerAddr n 0x010) 1 r ∧ towerPresent s n = true ∧ (s.guard n).on = true ∧
      (s.guard n).pending = none ∧ towerQuiet s n = true) ∧
    (∃ (s : State) (n : Nat) (v : Word) (r : RemoteOp), DueWrite s (towerAddr n 0x018) v r ∧ towerPresent s n = true) ∧
    (∃ (s : State) (n bed : Nat) (v : Word) (r : RemoteOp), DueWrite s (towerAddr n (0x100 + 8 * bed)) v r ∧ r.idle = false ∧ bedExists s n bed = true ∧
      moving s n bed = false ∧ v.getLsbD 6 = true ∧ (bedOwner s n bed).getLsbD 6 = false) ∧
    (∃ (s : State) (n bed : Nat) (v : Word) (r : RemoteOp), DueWrite s (towerAddr n (0x100 + 8 * bed)) v r ∧ r.idle = false ∧ bedExists s n bed = true ∧
      moving s n bed = false ∧ v.getLsbD 6 = true ∧ (bedOwner s n bed).getLsbD 6 = true) ∧
    (∃ (s : State) (b : Nat) (v : Word) (r : RemoteOp), DueWrite s (basinAddr b 0x008) v r) ∧
    (∃ (s : State) (b : Nat) (v : Word) (r : RemoteOp), DueWrite s (basinAddr b 0x020) v r ∧ vtmapOk s (v &&& 0xFFFFFFFF).toNat = true) ∧
    (∃ (s : State) (b : Nat) (v : Word) (r : RemoteOp), DueWrite s (basinAddr b 0x010) v r) ∧
    (∃ (s : State) (b : Nat) (v : Word) (r : RemoteOp), DueWrite s (basinAddr b 0x018) v r ∧ v.toNat % 1024 = 1000) ∧
    (∃ (s : State) (e n : Nat) (v : Word) (r : RemoteOp) (u : UQueue), DueWrite s (easelAddr e 8) v r ∧ (s.easel e).que = some n ∧ s.queue n = some u ∧
      u.easel = some e ∧ v.getLsbD 0 = false) ∧
    (∃ (s : State) (b : Nat) (v : Word) (r : RemoteOp), b < 64 ∧ DueWrite s (basinAddr b 0) v r ∧ r.addr = basinAddr b 0 ∧ r.size = 8 ∧
      r.store = some (leBytes 8 v.toNat)) ∧
    ∃ (s : State) (a : Nat) (v : Word) (r : RemoteOp), a % 8 = 0 ∧ devReg a = .none ∧ DueWrite s a v r ∧ r.addr = a ∧ r.size = 8 ∧
      r.store = some (leBytes 8 v.toNat) :=
  ⟨⟨storing (towerAddr 7 8) 0x6400000001, 7, 0x6400000001, due (towerAddr 7 8) 0x6400000001, by unfold DueWrite; decide +kernel, by decide +kernel⟩,
   ⟨{ storing (towerAddr 0 16) 1 with guards := [(0, { Guard.fresh with on := true })] }, 0, due (towerAddr 0 16) 1, by unfold DueWrite; decide +kernel,
      by decide +kernel⟩,
   ⟨storing (towerAddr 7 24) 0x52455345, 7, 0x52455345, due (towerAddr 7 24) 0x52455345, by unfold DueWrite; decide +kernel, by decide +kernel⟩,
   ⟨{ storing (towerAddr 7 (0x100 + 8 * 15)) 0x40 with towers := [(7, { Tower.fresh with owners := [(15, 0)] })] }, 7, 15, 0x40,
      due (towerAddr 7 (0x100 + 8 * 15)) 0x40, by unfold DueWrite; decide +kernel, by decide +kernel⟩,
   ⟨storing (towerAddr 7 (0x100 + 8 * 15)) 0x40, 7, 15, 0x40, due (towerAddr 7 (0x100 + 8 * 15)) 0x40, by unfold DueWrite; decide +kernel, by decide +kernel⟩,
   ⟨storing (basinAddr 63 8) 0x4001, 63, 0x4001, due (basinAddr 63 8) 0x4001, by unfold DueWrite; decide +kernel⟩,
   ⟨storing (basinAddr 63 0x20) 0xFFFFFFF0, 63, 0xFFFFFFF0, due (basinAddr 63 0x20) 0xFFFFFFF0, by unfold DueWrite; decide +kernel, by decide +kernel⟩,
   ⟨storing (basinAddr 0 0x10) 0x1FFFF, 0, 0x1FFFF, due (basinAddr 0 0x10) 0x1FFFF, by unfold DueWrite; decide +kernel⟩,
   ⟨storing (basinAddr 0 0x18) 1000, 0, 1000, due (basinAddr 0 0x18) 1000, by unfold DueWrite; decide +kernel, by decide +kernel⟩,
   ⟨{ storing (easelAddr 4095 8) 0 with easels := [(4095, ⟨0, 0, 0, some 1⟩)], queues := [(1, ⟨0, 0, 0, 4, 0, 1, 0, some 4095, 0, 0, 0, 0, 0, 0, 0, 0⟩)] }, 4095, 1, 0,
      due (easelAddr 4095 8) 0, _, by unfold DueWrite; decide +kernel, rfl, rfl, by decide +kernel⟩,
   ⟨storing (basinAddr 63 0) 0x4000, 63, 0x4000, due (basinAddr 63 0) 0x4000, by decide, by unfold DueWrite; decide +kernel, by decide +kernel⟩,
   storing 0x0F4000000000 5, 0x0F4000000000, 5, due 0x0F4000000000 5, by decide +kernel, by decide +kernel, by unfold DueWrite; decide +kernel,
     by decide +kernel⟩

/-! ### Witnesses: clients and the atelier service -/

/-- A byte list of n zero bytes. -/
def zeros (n : Nat) : List Byte := List.replicate n 0

/-- Basin 0, open, with bed 0 of tower 0 and the page table of walkCells. -/
def openBasin : Basin := { Basin.fresh with isOpen := true, vtmap := 0xFFFFFFF0, ptroot := 0x4000, beds := [(0, 0)] }

/-- The cells of that page table, for reading and writing. -/
def pageCells : List Host.Cell :=
  [(0x4000, 1), (0x4001, 0x60), (0x6000, 1), (0x6001, 0x80), (0x8000, 1), (0x8001, 0xA0), (0xA008, 0x2F), (0xA00A, 2)]

/-- A part that serves clients: basin 0 is open, and its page at 0x10000 is at 0x20000. -/
def hosted (cells : List Host.Cell) : State :=
  { probe [] with
    basins := [(0, openBasin)], mem := pageCells ++ cells, caps := 0x000000FF00010FFF
    windows := [⟨3, 0, 0x10000, 0x1000, true, true⟩] }

theorem some_of {α β : Type} (d : β) {o : Option (α × β)} {a : α} (h : o.map Prod.fst = some a) : o = some (a, (o.map Prod.snd).getD d) := by
  cases o with
  | none => cases h
  | some p => cases h; rfl

/-- A write of 8 bytes and a read of 8 through the window with key 3. -/
def aMsg (off : Nat) : RmaMsg := ⟨1, 2, true, 3, off, zeros 8, 8⟩

/-- The same part, whose tower 1 holds its messages back, with a unit of message 9 of its port in that tower's buffer. -/
def holding (l : List WEntry) : State :=
  { hosted [] with guards := [(1, { Guard.fresh with on := true })], towers := [(1, { Tower.fresh with outbound := l })], acks := [⟨1, 2, 9⟩] }

def aUnit : WEntry := ⟨1055, 31, 31, [⟨120, 0, 4, portCtx 9, 3, 0⟩], 3⟩

theorem wit_RmaMessages :
    (∃ (s : State) (m : RmaMsg), s.booted = true ∧ rodWaits s m = false ∧ windowFor s m m.bytes.length true = none) ∧
    (∃ (s : State) (m : RmaMsg), s.booted = true ∧ rodWaits s m = false ∧ windowFor s m m.count false = none) ∧
    (∃ (s s1 : State) (m : RmaMsg) (w : Window) (x : Where), s.booted = true ∧ rodWaits s m = false ∧ windowFor s m m.bytes.length true = some w ∧
      m.bytes.length = 8 ∧ (w.va + m.offset) % 8 = 0 ∧
      unitPlaces s (portTower s m.port) w.basin .store (w.va + m.offset) [8] = some ([(x, 8)], s1) ∧ Memory.wf s1.mem = true ∧
      portFree s1 (portTower s m.port) x = true) ∧
    (∃ (s s1 : State) (m : RmaMsg) (w : Window) (x : Where), s.booted = true ∧ rodWaits s m = false ∧ windowFor s m m.bytes.length true = some w ∧
      m.bytes.length = 8 ∧ (w.va + m.offset) % 8 = 0 ∧
      unitPlaces s (portTower s m.port) w.basin .store (w.va + m.offset) [8] = some ([(x, 8)], s1) ∧ Memory.wf s1.mem = true ∧
      portFree s1 (portTower s m.port) x = false ∧ outFull s1 (portTower s m.port) = false) ∧
    (∃ (s : State) (m : RmaMsg), s.booted = true ∧ rodWaits s m = true) ∧
    (∃ (s : State) (n : Nat) (a : RmaAck), s.acks[n]? = some a ∧ unitsQueued s (portTower s a.port) a.msg = false) ∧
    (∃ (s : State) (n : Nat) (a : RmaAck), s.acks[n]? = some a ∧ unitsQueued s (portTower s a.port) a.msg = true) ∧
    ∃ (s s1 : State) (m : RmaMsg) (w : Window) (l : List (Where × Nat)), s.booted = true ∧ rodWaits s m = false ∧
      windowFor s m m.count false = some w ∧
      unitPlaces s (portTower s m.port) w.basin .load (w.va + m.offset) (unitsFrom m.count (w.va + m.offset) m.count) = some (l, s1) :=
  ⟨⟨hosted [], aMsg 0xFF9, by decide +kernel⟩, ⟨hosted [], aMsg 0xFF9, by decide +kernel⟩,
   ⟨hosted [], _, aMsg 0xFF8, ⟨3, 0, 0x10000, 0x1000, true, true⟩, ⟨0x20FF8, false, false⟩, by decide +kernel, by decide +kernel, by decide +kernel,
      by decide +kernel, by decide +kernel, some_of (hosted []) (by decide +kernel), by decide +kernel, by decide +kernel⟩,
   ⟨holding [], _, aMsg 0xFF8, ⟨3, 0, 0x10000, 0x1000, true, true⟩, ⟨0x20FF8, false, false⟩, by decide +kernel, by decide +kernel, by decide +kernel,
      by decide +kernel, by decide +kernel, some_of (holding []) (by decide +kernel), by decide +kernel, by decide +kernel, by decide +kernel⟩,
   ⟨holding [aUnit], aMsg 0xFF8, by decide +kernel⟩, ⟨holding [], 0, ⟨1, 2, 9⟩, by decide +kernel⟩, ⟨holding [aUnit], 0, ⟨1, 2, 9⟩, by decide +kernel⟩,
   hosted [], _, aMsg 0xFF8, ⟨3, 0, 0x10000, 0x1000, true, true⟩, [(⟨0x20FF8, false, false⟩, 8)], by decide +kernel, by decide +kernel,
     by decide +kernel, some_of (hosted []) (by decide +kernel)⟩

/-- A request from the operator's domain about basin 0. -/
def asks (args : List Word) (body : List Byte) : Req := ⟨none, 0, 0x40, 0, false, 7, args, body⟩

theorem wit_RequestRefusals :
    (∃ (i : Instr) (s : State) (q : Req) (code : Nat) (operator : Bool), basinRequest i = some (q, code, operator) ∧ s.booted = true ∧
      ¬ (q.domain = none ∨ (operator = false ∧ q.domain = some q.basin.toNat))) ∧
    (∃ (i : Instr) (s : State) (q : Req) (code : Nat) (operator : Bool), basinRequest i = some (q, code, operator) ∧ s.booted = true ∧
      (q.domain = none ∨ (operator = false ∧ q.domain = some q.basin.toNat)) ∧
      (q.reserved = true ∨ 4032 < q.body.length ∨ 64 ≤ q.basin.toNat ∨ (s.basin q.basin.toNat).isOpen = false)) ∧
    (∃ (i : Instr) (s : State) (q : Req) (code : Nat) (operator : Bool), basinRequest i = some (q, code, operator) ∧ s.booted = true ∧
      (q.domain = none ∨ (operator = false ∧ q.domain = some q.basin.toNat)) ∧
      q.reserved = false ∧ q.body.length ≤ 4032 ∧ q.basin.toNat < 64 ∧ (s.basin q.basin.toNat).isOpen = true ∧ busy s q.basin.toNat = true) ∧
    ∃ (s : State) (q : Req), s.booted = true ∧ q.domain.isSome = true :=
  ⟨⟨.mapReq { asks [] [] with domain := some 63 }, hosted [], { asks [] [] with domain := some 63 }, 8, false, by decide +kernel⟩,
   ⟨.mapReq { asks [] [] with basin := 64 }, hosted [], { asks [] [] with basin := 64 }, 8, false, by decide +kernel⟩,
   ⟨.mapReq (asks [] []), { hosted [] with basins := [(0, { openBasin with resetting := true })] }, asks [] [], 8, false, by decide +kernel⟩,
   hosted [], { asks [] [] with domain := some 0 }, by decide +kernel⟩

theorem mayAsk (q : Req) (operator : Bool) (s : State) (h : (s.booted && decide (q.basin.toNat < 64) && decide (q.domain = none) && !q.reserved &&
    decide (q.body.length ≤ 4032) && (s.basin q.basin.toNat).isOpen && !(busy s q.basin.toNat)) = true) : MayAsk s q operator := by
  simp only [Bool.and_eq_true, decide_eq_true_eq, Bool.not_eq_true'] at h
  exact ⟨h.1.1.1.1.1.1, h.1.1.1.1.1.2, .inl h.1.1.1.1.2, h.1.1.1.2, h.1.1.2, h.1.2, h.2⟩

/-- A user queue of basin 0 whose header is at 0x10000 and whose ring of four slots is at 0x10100. -/
def aQueue (st : Nat) (easel : Option Nat) (head tail : Word) : UQueue := ⟨0, 0x10000, 0x10100, 4, 0, st, 0, easel, head, tail, 0, 0, 0x20000, 0, 0, 0⟩

/-- Queue 1 on easel 0, or without an easel. -/
def queueing (cells : List Host.Cell) (u : UQueue) : State :=
  { hosted cells with
    queues := [(1, u)]
    easels := match u.easel with
      | some e => [(e, ⟨0x10000, 0, 0, some 1⟩)]
      | none => [] }

/-- For HostRequests, its first half. -/
theorem wit_BasinRequests :
    (∃ (s : State) (q : Req), MayAsk s q true) ∧
    (∃ (s : State) (q : Req) (p : Nat × Nat) (g : Nat), MayAsk s q false ∧ p ∈ (s.basin q.basin.toNat).beds ∧ g ∈ bedCores p.1 p.2) ∧
    (∃ (s : State) (q : Req), MayAsk s q false ∧ arg q 2 < 4 ∧ arg q 0 + arg q 1 ≤ 0x00F0000000000000 ∧
      pagesHave s q.basin.toNat ((argOf q 2).getLsbD 0) ((argOf q 2).getLsbD 1) (if arg q 1 = 0 then 0 else (arg q 0 % 65536 + arg q 1 + 65535) / 65536)
        (arg q 0 / 65536 * 65536) = true) ∧
    (∃ (s : State) (q : Req) (w : Window), MayAsk s q false ∧ ownWindow s q.basin.toNat (argOf q 0) = some w) ∧
    (∃ (s : State) (q : Req), MayAsk s q false ∧ s.caps.getLsbD 10 = true ∧ 100 ≤ arg q 1 ∧ arg q 1 ≤ 100000) ∧
    (∃ (s : State) (q : Req) (n : Nat), MayAsk s q false ∧ s.caps.getLsbD 10 = true ∧ n ∈ basinTowers s q.basin.toNat ∧ (s.guard n).on = true ∧
      (s.guard n).pending = none) ∧
    (∃ (s : State) (q : Req) (key : List Byte), MayAsk s q false ∧ q.body.length = 32 ∧ s.identity = some key) ∧
    (∃ (s : State) (q : Req), MayAsk s q false ∧ q.body.length = 32 ∧ s.identity = none) ∧
    (∃ (s : State) (q : Req), MayAsk s q false ∧ s.caps.getLsbD 11 = true) ∧
    ∃ (s : State) (q : Req), MayAsk s q false ∧ arg q 1 < 1024 ∧ arg q 1 % 32 ≤ 16 ∧ arg q 1 / 32 % 32 ≤ 16 ∧ 1 ≤ arg q 2 ∧ arg q 2 ≤ 1000 :=
  ⟨⟨hosted [], asks [] [], mayAsk _ _ _ (by decide +kernel)⟩,
   ⟨hosted [], asks [] [], (0, 0), 15, mayAsk _ _ _ (by decide +kernel), by decide +kernel⟩,
   ⟨hosted [], asks [0x10000, 0x10000, 3] [], mayAsk _ _ _ (by decide +kernel), by decide +kernel⟩,
   ⟨hosted [], asks [3] [], ⟨3, 0, 0x10000, 0x1000, true, true⟩, mayAsk _ _ _ (by decide +kernel), by decide +kernel⟩,
   ⟨hosted [], asks [1, 100000] [], mayAsk _ _ _ (by decide +kernel), by decide +kernel⟩,
   ⟨{ hosted [] with guards := [(0, { Guard.fresh with on := true })] }, asks [1] [], 0, mayAsk _ _ _ (by decide +kernel), by decide +kernel⟩,
   ⟨{ hosted [] with identity := some [1] }, asks [] (zeros 32), [1], mayAsk _ _ _ (by decide +kernel), by decide +kernel⟩,
   ⟨hosted [], asks [] (zeros 32), mayAsk _ _ _ (by decide +kernel), by decide +kernel⟩,
   ⟨hosted [], asks [] [], mayAsk _ _ _ (by decide +kernel), by decide +kernel⟩,
   hosted [], asks [50, 0x210, 1000] [], mayAsk _ _ _ (by decide +kernel), by decide +kernel⟩

/-- A configuration record of an 8-tower part that is in order but for its signature: its fields, and RECVER n. -/
def aRecord (n : Nat) : List Byte :=
  leBytes 8 (0x5A434647 * 2 ^ 32 + 2 ^ 16 + 256) ++ leBytes 8 (0xFF * 2 ^ 32 + 2 ^ 16 + 0xFF) ++ leBytes 8 9 ++ leBytes 8 (n * 2 ^ 32) ++
    zeros (256 - 32 + 29792)

theorem load_nil (s : State) (b : Nat) (img : List Byte) (h : Config.imageSections img = []) : ∃ s1 addrs, loadImage s b img = .ok s1 addrs := by
  unfold loadImage; rw [h]; exact ⟨_, _, rfl⟩

/-- For HostRequests, its second half; OPEN is in wit_OpenAnswered. -/
theorem wit_LaunchRequests :
    (∃ (s : State) (q : Req) (u : UQueue) (e : Nat), MayAsk s q false ∧ s.queue (arg q 0) = some u ∧ arg q 0 ≠ 0xFFFFFFFF ∧ u.basin = q.basin.toNat ∧
      u.st = 2 ∧ u.easel = some e ∧ powerIn (arg q 1) 4 65536 = true ∧ arg q 2 ≤ 7) ∧
    (∃ (s : State) (q : Req) (u : UQueue), MayAsk s q false ∧ s.queue (arg q 0) = some u ∧ u.basin = q.basin.toNat ∧
      (s.queues.map Prod.fst).Pairwise (· < ·)) ∧
    (∃ (s : State) (q : Req), MayAsk s q false ∧ arg q 0 + arg q 1 ≤ 0x00F0000000000000 ∧ arg q 2 = 0) ∧
    (∃ (s : State) (q : Req) (b page : Nat) (x : Xlat) (ea : Nat) (z : Bool), MayAsk s q false ∧ b = q.basin.toNat ∧ 1 ≤ arg q 1 ∧
      arg q 0 + arg q 1 ≤ 0x00F0000000000000 ∧ page = arg q 0 / 65536 * 65536 ∧ (arg q 0 % 65536 + arg q 1 + 65535) / 65536 = 1 ∧ arg q 2 ≠ 0 ∧
      arg q 2 % 4 = 0 ∧ arg q 2 < 512 ∧ (argOf q 2).getLsbD 6 = false ∧ Memory.wf s.mem = true ∧
      walkFrom s b page 3 (s.basin b).ptroot.toNat = .leaf x ea z false ∧ x.bits = 16 ∧ x.vault = false) ∧
    (∃ (s s0 : State) (q : Req) (w : Window) (img : List Byte), MayAsk s q false ∧
      ownWindow s q.basin.toNat (argOf q 0) = some w ∧ arg q 1 < w.len ∧
      readRange s (portTower s q.port) q.basin.toNat (w.va + arg q 1) (w.len - arg q 1) = some (img, s0) ∧
      (Config.imageSections img = [] → ∃ s1 addrs, loadImage s0 q.basin.toNat img = .ok s1 addrs)) ∧
    (∃ (s : State) (q : Req), MayAsk s q false ∧ q.body.length = 64 ∧
      parseRecord s q.basin.toNat .u ((wordsOf 8 q.body).map fun v => (v, false)) = none) ∧
    (∃ (s s1 : State) (q : Req), MayAsk s q false ∧ q.body.length = 64 ∧
      placeFor s q.basin.toNat (portTower s q.port) (wordsOf 8 q.body) = (0, s1)) ∧
    (∃ (s : State) (q : Req), s.booted = true ∧ q.domain = none ∧ q.reserved = false ∧ q.basin = 0xFFFF ∧ isRecord q.body = true ∧
      (Config.recordSigned q.body = true → recordFollows s.flash.record q.body = true)) ∧
    (∀ l : List Byte, isRecord l = false → imageOk 0 l = true →
      ∃ (s : State) (q : Req), s.booted = true ∧ q.domain = none ∧ q.reserved = false ∧ q.basin = 0xFFFF ∧ isRecord q.body = false ∧
        imageOk (recMinver s.flash.record) q.body = true) ∧
    (∃ (s : State) (q : Req), s.booted = true ∧ q.domain = none ∧ q.reserved = false ∧ q.basin = 0xFFFF ∧ isRecord q.body = true ∧
      recordFollows s.flash.record q.body = false) ∧
    ∃ (s : State) (q : Req), s.booted = true ∧ q.domain = none ∧ q.reserved = false ∧ q.basin = 0xFFFF ∧ powerIn (arg q 2) 4 65536 = false :=
  ⟨⟨queueing [] (aQueue 2 (some 0) 0 5), asks [1, 65536, 7] [], aQueue 2 (some 0) 0 5, 0, mayAsk _ _ _ (by decide +kernel), by decide +kernel⟩,
   ⟨queueing [] (aQueue 2 (some 0) 0 5), asks [1] [], aQueue 2 (some 0) 0 5, mayAsk _ _ _ (by decide +kernel), by decide +kernel⟩,
   ⟨hosted [], asks [0x10000, 0x10000, 0] [], mayAsk _ _ _ (by decide +kernel), by decide +kernel⟩,
   ⟨hosted [], asks [0x10000, 0x100, 12] [], 0, 0x10000, ⟨0, 0x10000, 16, 0x20000, true, false, true, true, false⟩, 0xA008, false,
      mayAsk _ _ _ (by decide +kernel), by decide +kernel⟩,
   ⟨hosted [], _, asks [3, 0xFF8] [], ⟨3, 0, 0x10000, 0x1000, true, true⟩, zeros 8, mayAsk _ _ _ (by decide +kernel), by decide +kernel,
      by decide +kernel, some_of (hosted []) (by decide +kernel), load_nil _ _ _⟩,
   ⟨hosted [], asks [] (zeros 64), mayAsk _ _ _ (by decide +kernel), by decide +kernel⟩,
   ⟨hosted [], _, asks [] (zeros 48 ++ [1, 0, 1] ++ zeros 13), mayAsk _ _ _ (by decide +kernel), by decide +kernel,
      Prod.ext (by decide +kernel) rfl⟩,
   ⟨{ hosted [] with flash := ⟨aRecord 1, [], []⟩ }, { asks [] (aRecord 2) with basin := 0xFFFF }, rfl, rfl, rfl, rfl, by decide +kernel, fun h => by
      replace h : Config.recordSigned (aRecord 2) = true := h
      show recordFollows (aRecord 1) (aRecord 2) = true
      have hl : (aRecord 2).length = 256 + 29792 := by
        simp only [aRecord, zeros, List.length_append, List.length_replicate]
        decide +kernel
      simp only [recordFollows, recordOk, h, hl, Bool.and_true]
      decide +kernel⟩,
   fun l h e => ⟨{ hosted [] with flash := ⟨[], [], []⟩ }, { asks [] l with basin := 0xFFFF }, rfl, rfl, rfl, rfl, h, e⟩,
   ⟨{ hosted [] with flash := ⟨aRecord 2, [], []⟩ }, { asks [] ((aRecord 2).take 64) with basin := 0xFFFF }, by decide +kernel⟩,
   hosted [], { asks [0, 0, 6] [] with basin := 0xFFFF }, by decide +kernel⟩

/-- OPEN finds DRAM in a part that has given none, whatever the atelier chooses: a free range that stands among the candidates is found. -/
theorem give_some (s : State) (basin bits x : Nat) (va : Option Nat) (hx : x = 0 ∨ (∃ a ∈ s.allocs, x = (a.base + 2 ^ a.bits + 2 ^ bits - 1) / 2 ^ bits * 2 ^ bits) ∨
      x = (anchorTable 0 + 2 ^ 26 + 2 ^ bits - 1) / 2 ^ bits * 2 ^ bits)
    (hb : x + 2 ^ bits ≤ 2 ^ 38) (hf : freeRange s x (2 ^ bits) = true) :
    ∃ b, giveRange s basin bits va none = (some b, { s with freeCtr := s.freeCtr + 1, allocs := s.allocs ++ [⟨b, bits, basin, va⟩] }) := by
  have h : (pickRange s 0 (2 ^ 38) bits).1.isSome = true := by
    simp only [pickRange, freeBelow, List.find?_isSome]
    refine ⟨x, ?_, by
      rw [Bool.and_eq_true, Bool.and_eq_true]
      exact ⟨⟨decide_eq_true (Nat.zero_le x), decide_eq_true (by rwa [Nat.zero_add])⟩, hf⟩⟩
    rcases hx with rfl | ⟨a, ha, rfl⟩ | rfl
    · simp
    · exact List.mem_cons_of_mem _ (List.mem_cons_of_mem _ (List.mem_map.2 ⟨_, List.mem_append_left _ (List.mem_map.2 ⟨a, ha, rfl⟩), rfl⟩))
    · exact List.mem_cons_of_mem _ (List.mem_cons_of_mem _
        (List.mem_map.2 ⟨_, List.mem_append_right _ (List.mem_map.2 ⟨0, by decide, rfl⟩), rfl⟩))
  obtain ⟨b, hb⟩ := Option.isSome_iff_exists.1 h
  refine ⟨b, ?_⟩
  unfold giveRange
  rw [show pickRange s 0 (2 ^ 38) bits = (some b, { s with freeCtr := s.freeCtr + 1 }) from Prod.ext hb (by unfold pickRange; rfl)]

theorem low_dram (s : State) (h : s.caps = 0x000000FF00010FFF) (x : Nat) (hx : x < 2 ^ 35) : placeOf s x = .dram := by
  have h0 : x / 2 ^ 35 = 0 := Nat.div_eq_of_lt hx
  have ht : towerPresent s 0 = true := by simp [towerPresent, h]
  simp only [placeOf, h0, ht]
  rw [if_pos (by omega)]; rfl

/-- Which 64 MiB of tower 0 its anchor table leaves for a test: the first, or the second where the table is in the first. -/
def spareNo : Nat := if Config.anchorPlace 0 % 512 = 0 then 1 else 0

theorem spareNo_cases : spareNo = 0 ∧ Config.anchorPlace 0 % 512 ≠ 0 ∨ spareNo = 1 ∧ Config.anchorPlace 0 % 512 = 0 := by
  by_cases h : Config.anchorPlace 0 % 512 = 0
  · exact .inr ⟨if_pos h, h⟩
  · exact .inl ⟨if_neg h, h⟩

theorem anchor_off (x n k p : Nat) (hk : k = 0 ∧ p % 512 ≠ 0 ∨ k = 1 ∧ p % 512 = 0) (hx : k * 2 ^ 26 ≤ x) (hn : x + n ≤ (k + 1) * 2 ^ 26) :
    meets x n (0 * 2 ^ 35 + p % 512 * 2 ^ 26) (2 ^ 26) = false := by
  simp only [meets, Bool.and_eq_false_iff, decide_eq_false_iff_not]
  omega

/-- A range in them is free where it meets no range that has been given. -/
theorem free_spare (s : State) (x n : Nat) (hc : s.caps = 0x000000FF00010FFF) (hx : spareNo * 2 ^ 26 ≤ x) (hn : x + n ≤ (spareNo + 1) * 2 ^ 26)
    (ha : ∀ a ∈ s.allocs, meets x n a.base (2 ^ a.bits) = false) : freeRange s x n = true := by
  have hl : x < 2 ^ 35 := by have := spareNo_cases; omega
  have hs : (s.allocs.any fun a => meets x n a.base (2 ^ a.bits)) = false := by
    rw [List.any_eq_false]; exact fun a h => by rw [ha a h]; decide
  simp only [freeRange, low_dram s hc x hl, Nat.div_eq_of_lt hl, hs, anchorTable, anchor_off x n _ _ spareNo_cases hx hn]
  decide

theorem at_end (x k bits : Nat) (h : bits = 13 ∨ bits = 9 ∨ bits = 16) (hx : x = 0) (hk : k = 1) :
    k * 2 ^ 26 = (x + 2 ^ 26 + 2 ^ bits - 1) / 2 ^ bits * 2 ^ bits := by
  subst hx hk; rcases h with rfl | rfl | rfl <;> simp

theorem table_low (n : Nat) (h : n = 0) : 0 * 2 ^ 35 + n * 2 ^ 26 = 0 := by subst h; rfl

theorem spare_at (bits : Nat) (h : bits = 13 ∨ bits = 9 ∨ bits = 16) :
    spareNo * 2 ^ 26 = 0 ∨ spareNo * 2 ^ 26 = (anchorTable 0 + 2 ^ 26 + 2 ^ bits - 1) / 2 ^ bits * 2 ^ bits := by
  rcases spareNo_cases with e | e
  · exact .inl (by simp [e.1])
  · exact .inr (at_end _ _ bits h ((anchorTable.eq_1 0).trans (table_low _ e.2)) e.1)

theorem bits9 : bitsFor (64 + 64 * 4) = 9 := by decide

theorem second (s : State) (b r : Nat) (hc : s.caps = 0x000000FF00010FFF) (ha : s.allocs = [⟨r, 13, b, none⟩]) :
    ∃ q t, giveRange s b 9 none none = (some q, t) := by
  have hs := spareNo_cases
  by_cases h : r < spareNo * 2 ^ 26 + 2 ^ 9 ∧ spareNo * 2 ^ 26 < r + 2 ^ 13
  · obtain ⟨q, e⟩ := give_some s b 9 ((r + 2 ^ 13 + 2 ^ 9 - 1) / 2 ^ 9 * 2 ^ 9) none
      (.inr (.inl ⟨⟨r, 13, b, none⟩, by rw [ha]; exact List.mem_singleton.2 rfl, rfl⟩)) (by omega)
      (free_spare s _ _ hc (by omega) (by omega) (by
        rw [ha]; intro a h'; rw [List.mem_singleton.1 h']
        simp only [meets, Bool.and_eq_false_iff, decide_eq_false_iff_not]; omega))
    exact ⟨q, _, e⟩
  · obtain ⟨q, e⟩ := give_some s b 9 (spareNo * 2 ^ 26) none ((spare_at 9 (by simp)).imp id .inr) (by omega)
      (free_spare s _ _ hc (Nat.le_refl _) (by omega) (by
        rw [ha]; intro a h'; rw [List.mem_singleton.1 h']
        simp only [meets, Bool.and_eq_false_iff, decide_eq_false_iff_not]; omega))
    exact ⟨q, _, e⟩

theorem clear_plain (s : State) (pa n : Nat) (hl : s.lines = []) (hg : s.guards = []) : clearDram s pa n = { s with mem := clearRange s.mem pa n } := by
  have : takeImages s (pa / 65536) ((n + 65535) / 65536) = s := by simp [takeImages, hg]
  simp [clearDram, hl, this]

theorem open_dram (s : State) (b : Nat) (hc : s.caps = 0x000000FF00010FFF) (ha : s.allocs = []) (hl : s.lines = []) (hg : s.guards = []) :
    ∃ r q t, openDram s b 4 0 = some (r, q, t) := by
  have hs := spareNo_cases
  obtain ⟨r, hr⟩ := give_some s b 13 (spareNo * 2 ^ 26) none ((spare_at 13 (by simp)).imp id .inr) (by omega)
    (free_spare s _ _ hc (Nat.le_refl _) (by omega) (by rw [ha]; exact fun _ h => absurd h List.not_mem_nil))
  obtain ⟨q, t, hq⟩ := second { s with freeCtr := s.freeCtr + 1, allocs := s.allocs ++ [⟨r, 13, b, none⟩], mem := clearRange s.mem r 8192 } b r hc (by rw [ha]; rfl)
  rw [← bits9] at hq
  have e : ∃ t', openDram s b 4 0 = some (r, q, t') := by
    unfold openDram
    rw [hr]
    dsimp only
    rw [clear_plain { s with freeCtr := s.freeCtr + 1, allocs := s.allocs ++ [⟨r, 13, b, none⟩] } r 8192 hl hg]
    dsimp only
    rw [hq]
    exact ⟨_, rfl⟩
  exact ⟨r, q, e⟩

theorem map_below (s : State) (va l table x : Nat) (e : Word) (h : (read64 s.mem (table + va / 2 ^ levelBits (l + 1) % 1024 * 8)).toNat = x)
    (h0 : pteBit x 0 = true) (h1 : pteBit x 1 = false) : mapBelow s 0 va e (l + 1) table = mapBelow s 0 va e l (pteAddr x) := by
  rw [mapBelow, h]
  simp only [h0, h1, if_true, Bool.false_eq_true, if_false]

/-- MAP finds DRAM for a page whose tables are there. -/
theorem map_page (s : State) (pa : Nat) (hm : s.mem = pageCells) (hr : (s.basin 0).ptroot = 0x4000) :
    ∃ t, mapPage s 0 0x20000 pa 12 = some t := by
  unfold mapPage
  rw [hr, map_below s _ 2 _ 0x6001 _ (by rw [hm]; decide +kernel) (by decide) (by decide),
    map_below s _ 1 _ 0x8001 _ (by rw [hm]; decide +kernel) (by decide) (by decide),
    map_below s _ 0 _ 0xA001 _ (by rw [hm]; decide +kernel) (by decide) (by decide)]
  exact ⟨_, rfl⟩

theorem map_fresh (s : State) (hc : s.caps = 0x000000FF00010FFF) (ha : s.allocs = []) (hm : s.mem = pageCells) (hr : (s.basin 0).ptroot = 0x4000) :
    ∃ t, mapFresh s 0 12 none 1 0x20000 = some t := by
  have hs := spareNo_cases
  obtain ⟨r, e⟩ := give_some s 0 16 (spareNo * 2 ^ 26) (some 0x20000) ((spare_at 16 (by simp)).imp id .inr) (by omega)
    (free_spare s _ _ hc (Nat.le_refl _) (by omega) (by rw [ha]; exact fun _ h => absurd h List.not_mem_nil))
  obtain ⟨t, h⟩ := map_page { s with freeCtr := s.freeCtr + 1, allocs := s.allocs ++ [⟨r, 16, 0, some 0x20000⟩] } r hm hr
  exact ⟨t, by unfold mapFresh; rw [e]; dsimp only; rw [h]; rfl⟩

theorem wit_FreshPage : ∃ (s s1 : State) (q : Req) (b page : Nat), MayAsk s q false ∧ b = q.basin.toNat ∧ 1 ≤ arg q 1 ∧
    arg q 0 + arg q 1 ≤ 0x00F0000000000000 ∧ page = arg q 0 / 65536 * 65536 ∧ (arg q 0 % 65536 + arg q 1 + 65535) / 65536 = 1 ∧ arg q 2 ≠ 0 ∧
    arg q 2 % 4 = 0 ∧ arg q 2 < 512 ∧ (argOf q 2).getLsbD 6 = false ∧ Memory.wf s.mem = true ∧
    walkFrom s b page 3 (s.basin b).ptroot.toNat = .fault ∧ mapFresh (unmapPages s b 1 page) b (arg q 2) none 1 page = some s1 := by
  obtain ⟨t, h⟩ := map_fresh (unmapPages (hosted []) 0 1 0x20000) (by decide +kernel) (by decide +kernel) (by decide +kernel) (by decide +kernel)
  exact ⟨hosted [], t, asks [0x20000, 0x100, 12] [], 0, 0x20000, mayAsk _ _ _ (by decide +kernel), by decide, by decide, by decide, by decide, by decide,
    by decide, by decide, by decide, by decide, by decide +kernel, by decide +kernel, h⟩

theorem open_eff (s : State) (q : Req) (b : Nat) (m : List Nat) (s1 : State) (h : q.args = [0, 0x10000, 4]) (hi : Config.imageSections q.body = [])
    (hb : freeBasin s = some b) (hm : openMap s true (List.replicate (towersPresent s) 0) = (some m, s1)) (hc : s1.caps = 0x000000FF00010FFF)
    (ha : s1.allocs = []) (hl : s1.lines = []) (hg : s1.guards = []) : ∃ s2 results, openEff s q = .ok s2 results [] := by
  obtain ⟨r, fq, t, hd⟩ := open_dram s1 b hc ha hl hg
  have h0 : argOf q 0 = 0 := by simp [argOf, h]
  have h1 : argOf q 1 = 0x10000 := by simp [argOf, h]
  have h2 : argOf q 2 = 4 := by simp [argOf, h]
  have hw : ((List.range (towersPresent s)).map fun v => (0 : Word).toNat / 2 ^ (5 * v) % 32) = List.replicate (towersPresent s) 0 := by
    simp [List.map_const']
  have hz : ∀ n, (((List.replicate n 0).zip m).flatMap fun p => ((spareBeds s p.2).take p.1).map fun bed => (p.2, bed)) = [] := by
    intro n
    rw [List.flatMap_eq_nil_iff]
    intro p hp
    have : p.1 = 0 := List.eq_of_mem_replicate (List.of_mem_zip hp).1
    rw [this]; rfl
  unfold openEff
  simp only [h0, h1, h2, hw, hb]
  rw [if_neg (by simp; decide)]
  rw [show BitVec.getLsbD (0x10000 : Word) 16 = true from by decide, hm]
  simp only [hz, List.length_nil, show (4 : Word).toNat = 4 from rfl, hd]
  generalize grantAll _ _ _ = s3
  obtain ⟨s4, addrs, e⟩ := load_nil s3 b q.body hi
  rw [e]
  exact ⟨_, _, rfl⟩

/-- OPEN of a basin whose object image has no sections is answered with results. -/
theorem wit_OpenAnswered (h : Config.imageSections [] = []) : ∃ (s s1 : State) (q : Req) (results : List Word) (body : List Byte),
    s.booted = true ∧ q.domain = none ∧ q.reserved = false ∧ q.body.length ≤ 4032 ∧ q.basin = 0xFFFF ∧
    openEff s q = .ok s1 results body := by
  obtain ⟨s2, r, e⟩ := open_eff (hosted []) { asks [0, 0x10000, 4] [] with basin := 0xFFFF } 1 [0, 1, 2, 3, 4, 5, 6, 7]
    (openMap (hosted []) true (List.replicate 8 0)).2 rfl h (by decide +kernel) (Prod.ext (by decide +kernel) rfl) (by decide +kernel) (by decide +kernel) (by decide +kernel) (by decide +kernel)
  exact ⟨hosted [], s2, _, r, [], rfl, rfl, rfl, by decide, rfl, e⟩

theorem pair_of {α β : Type} {p : α × β} {a : α} (h : p.1 = a) : p = (a, p.2) := by rw [← h]

/-- Queue 1 on easel 0 with a record at HEAD = 0 in its ring, whose word 6 has a byte 0 (TOWERS), 2 (flags) and 3 (KIND). -/
def dispatching (towers flags kind : Byte) (u : UQueue) : State :=
  queueing ((if towers = 0 then [] else [(0x20130, towers)]) ++ (if flags = 0 then [] else [(0x20132, flags)]) ++
    if kind = 0 then [] else [(0x20133, kind)]) u

/-- The state in which a dispatch slot of die 0 acts. -/
def slotted (s : State) : State := passSlot { s with winners := fset s.winners 0 0 } 0

/-- Every bank of tower 0 is full of records. -/
def fullTower : Tower :=
  { Tower.fresh with banks := (List.range 16).map fun n => (n, List.replicate 256 ⟨.launch 0 [], .u, 0, 0, 0, none, [], 1, []⟩) }

theorem wit_EaselsAndQueues :
    (∃ (s : State) (e n : Nat) (u : UQueue), (s.easel e).que = some n ∧ s.queue n = some u ∧ u.st = 1 ∧ tailOf s u ≠ u.tail ∧
      u.slots < (tailOf s u - u.head).toNat) ∧
    (∃ (s : State) (e n : Nat) (u : UQueue), (s.easel e).que = some n ∧ s.queue n = some u ∧ u.st = 1 ∧ tailOf s u ≠ u.tail ∧
      ¬ u.slots < (tailOf s u - u.head).toNat) ∧
    (∃ (s s0 : State) (die e n : Nat) (u : UQueue), Dispatches s s0 die e n u ∧ 2 ≤ headKind s0 u) ∧
    (∃ (s s0 s1 : State) (die e n : Nat) (u : UQueue), Dispatches s s0 die e n u ∧ headKind s0 u = 0 ∧
      placeFor (headRecord s0 u).2 u.basin (easelTower s e) (headRecord s0 u).1 = (0, s1)) ∧
    (∃ (s s0 s1 : State) (die e n : Nat) (u : UQueue), Dispatches s s0 die e n u ∧ headKind s0 u = 0 ∧
      placeFor (headRecord s0 u).2 u.basin (easelTower s e) (headRecord s0 u).1 = (1, s1)) ∧
    (∃ (s s0 s1 : State) (die e n : Nat) (u : UQueue), Dispatches s s0 die e n u ∧ headKind s0 u = 0 ∧
      placeFor (headRecord s0 u).2 u.basin (easelTower s e) (headRecord s0 u).1 = (2, s1)) ∧
    (∃ (s : State) (e n : Nat) (u : UQueue), (s.easel e).que = some n ∧ s.queue n = some u) ∧
    (∃ (s : State) (n e : Nat) (u : UQueue), s.queue n = some u ∧ wantsEasel s u = true ∧
      freeEasel s (fun e => decide (easelTower s e = u.tower)) = some e) ∧
    ∃ (s : State) (n e : Nat) (u : UQueue), s.queue n = some u ∧ u.easel = some e ∧ idle s u = true ∧
      (s.queues.any fun p => wantsEasel s p.2 && decide (p.2.tower = easelTower s e)) = true ∧
      freeEasel s (fun d => decide (easelTower s d = easelTower s e)) = none ∧
      ∀ p ∈ s.queues, idle s p.2 = true → u.tailAt ≤ p.2.tailAt :=
  ⟨⟨queueing [(0x20000, 5)] (aQueue 1 (some 0) 0 0), 0, 1, aQueue 1 (some 0) 0 0, by decide +kernel⟩,
   ⟨queueing [(0x20000, 4)] (aQueue 1 (some 0) 0 0), 0, 1, aQueue 1 (some 0) 0 0, by decide +kernel⟩,
   ⟨dispatching 1 1 2 (aQueue 1 (some 0) 0 1), slotted (dispatching 1 1 2 (aQueue 1 (some 0) 0 1)), 0, 0, 1, aQueue 1 (some 0) 0 1,
      by unfold Dispatches; decide +kernel, by decide +kernel⟩,
   ⟨dispatching 1 1 0 (aQueue 1 (some 0) 0 1), slotted (dispatching 1 1 0 (aQueue 1 (some 0) 0 1)), _, 0, 0, 1, aQueue 1 (some 0) 0 1,
      by unfold Dispatches; decide +kernel, by decide +kernel, pair_of (by decide +kernel)⟩,
   ⟨{ dispatching 1 1 0 (aQueue 1 (some 0) 0 1) with towers := [(0, fullTower)] },
      slotted { dispatching 1 1 0 (aQueue 1 (some 0) 0 1) with towers := [(0, fullTower)] }, _, 0, 0, 1, aQueue 1 (some 0) 0 1,
      by unfold Dispatches; decide +kernel, by decide +kernel, pair_of (by decide +kernel)⟩,
   ⟨dispatching 0 1 0 (aQueue 1 (some 0) 0 1), slotted (dispatching 0 1 0 (aQueue 1 (some 0) 0 1)), _, 0, 0, 1, aQueue 1 (some 0) 0 1,
      by unfold Dispatches; decide +kernel, by decide +kernel, pair_of (by decide +kernel)⟩,
   ⟨queueing [] (aQueue 2 (some 0) 0 0), 0, 1, aQueue 2 (some 0) 0 0, by decide +kernel⟩,
   ⟨queueing [(0x20000, 5)] (aQueue 0 none 0 0), 1, 0, aQueue 0 none 0 0, by decide +kernel⟩,
   { hosted [(0x20200, 1)] with
     queues := [(1, aQueue 1 (some 0) 0 0), (2, { aQueue 0 none 0 0 with hdr := 0x10200, tailPa := 0x20200 })]
     easels := (List.range 128).map fun i => (8 * i, ⟨0x10000, 0, 0, some 1⟩) }, 1, 0, aQueue 1 (some 0) 0 0, by decide +kernel⟩

/-- A move of bed 1 of tower 0 to basin 0 that has started. -/
def aMove (graced shed : Bool) : BedMove := ⟨0, 1, 0, graced, shed, shed⟩

/-- Bed 1 of tower 0 at the last step of its move, with a channel or none. -/
def leaving (l : List Chan) (closing : List Closure) : State :=
  { hosted [] with bedMoves := [aMove true true], chans := l.zipIdx.map fun p => (p.2, p.1), closures := closing }

/-- A channel whose receive buffer is on core 16, of that bed. -/
def kept : Chan := { chan with bufs := [⟨1, 16, 0, 0, [], [0, 1]⟩] }

/-- The last step of a move has come (R388). -/
def moveDone (s : State) (n bed : Nat) (m : BedMove) : Bool :=
  decide (s.bedMoves.find? (fun m => decide (m.tower = n) && decide (m.bed = bed)) = some m) && m.shed && m.moved && noBuffers s n bed &&
    (bedCores n bed).all fun g => emptied s g && shedDone s g && decide ((s.core g).copies = []) && atBoundary (s.ctx g 0)

theorem wit_BedMoves :
    (∃ (s : State) (n b bed : Nat), towerPresent s n = true ∧ (∀ x ∈ s.bedMoves, x.tower ≠ n) ∧ needy s n = some b ∧ spareBed s n = some bed) ∧
    (∃ (s : State) (n bed g : Nat) (m : BedMove), s.bedMoves.find? (fun m => decide (m.tower = n) && decide (m.bed = bed)) = some m ∧ m.graced = false ∧
      g ∈ bedCores n bed ∧ ∃ c ∈ (s.core g).copies, c.paused.isSome = true) ∧
    (∃ (s : State) (n bed : Nat) (m : BedMove), moveDone s n bed m = true ∧ ∃ g ∈ bedCores n bed, heldEnds s g 0 ≠ []) ∧
    (∃ (s : State) (n bed : Nat) (m : BedMove), moveDone s n bed m = true ∧ (∀ g ∈ bedCores n bed, heldEnds s g 0 = []) ∧
      closingAt s (bedCores n bed) = true) ∧
    (∃ (s : State) (n bed : Nat) (m : BedMove), moveDone s n bed m = true ∧ (∀ g ∈ bedCores n bed, heldEnds s g 0 = []) ∧
      closingAt s (bedCores n bed) = false) ∧
    ∃ (s : State) (n bed g : Nat), g ∈ bedCores n bed ∧ emptied s g = false :=
  ⟨⟨{ hosted [] with basins := [(0, { openBasin with target := 50, maxBeds := 16 })] }, 0, 0, 0, by decide +kernel⟩,
   ⟨{ hosted [] with
      bedMoves := [aMove false false]
      cores := [(16, { Core.fresh with copies := [{ aCopy 0 true with paused := some (1, 0x2000) }] })] }, 0, 1, 16, aMove false false, by decide +kernel⟩,
   ⟨leaving [{ chan with snd := { chan.snd with holder := .thread 16 0 } }] [], 0, 1, aMove true true, by decide +kernel⟩,
   ⟨leaving [kept] [⟨0, false, none, 17, 0, false, 0⟩], 0, 1, aMove true true, by decide +kernel⟩,
   ⟨leaving [] [], 0, 1, aMove true true, by decide +kernel⟩,
   twoThreads (thread []) (thread []), 0, 0, 5, by decide +kernel⟩

theorem wit_ModuleEvents :
    (∀ r i : List Byte, recordOk r = true → imageOk (recMinver r) i = true →
      ∃ s : State, s.powered = true ∧ s.booted = false ∧ recordOk s.flash.record = true ∧ imageOk (recMinver s.flash.record) s.flash.image0 = true) ∧
    (∃ s : State, s.booted = false ∧ recordOk s.flash.record = false) ∧
    (∀ i : List Byte, Config.imageSigned i = false →
      ∃ s : State, s.booted = false ∧ imageOk (recMinver s.flash.record) s.flash.image0 = false ∧
        imageOk (recMinver s.flash.record) s.flash.image1 = false) ∧
    (probe []).powered = true ∧ { State.reset with powered := false }.powered = false ∧
    ∃ (s : State) (m : Move) (r : List Move), s.powered = false ∧ s.agenda = m :: r ∧ ofSupply m = false :=
  ⟨fun r i h j => ⟨{ State.reset with flash := ⟨r, i, i⟩ }, rfl, rfl, h, j⟩,
   ⟨{ State.reset with flash := ⟨[], [], []⟩ }, by decide +kernel⟩,
   fun i h => ⟨{ State.reset with flash := ⟨[], i, i⟩ }, rfl, by simp [imageOk, h], by simp [imageOk, h]⟩, rfl, rfl,
   { State.reset with powered := false, agenda := [.issue 5] }, .issue 5, [], by decide +kernel⟩

/-! ### Witnesses: the whole machine -/

theorem wit_DecodeEncode : (∃ (i : Instr) (w : BitVec 32), i.check = none ∧ encode i = some w) ∧ ∃ (i : Instr) (w : BitVec 32), decode w = .ok i :=
  ⟨⟨.add ⟨63, 62, 61, true, true⟩, _, by decide, rfl⟩, .add ⟨5, 6, 7, false, false⟩, 0x04518700, by decide +kernel⟩

/-- A core with its turn, whose word is in L1. -/
def turning : State := { (probe []).withFetchWord 32 0x04518700 with agenda := [.issue 2048] }

theorem wit_StepRunsDecoded :
    (∃ (s s1 : State) (g k : Nat) (r : List Move) (w : BitVec 32), s.agenda = .issue g :: r ∧ s.derated = false ∧
      nextCtx { s with clock := s.clock + 1, agenda := r } g = some k ∧
      s1 = { s with
        clock := s.clock + 1, agenda := r, cur := (g, k), cores := fset s.cores g { s.core g with
          lastIssue := k, recent := k :: ((s.core g).recent.filter fun j => decide (j ≠ k)).take 6 } } ∧
      (s.ctx g k).acqs = [] ∧ fetchAt s1 = .word w ∧ ∃ i, decode w = .ok i) := by
  refine ⟨turning, _, 2048, 0, [], 0x04518700, by decide +kernel, by decide +kernel, by decide +kernel, rfl, by decide +kernel, rfl, ?_⟩
  exact ⟨.add ⟨5, 6, 7, false, false⟩, by decide +kernel⟩

theorem wit_StepKeepsMemory : MemOk State.reset := rfl

theorem wit_EveryStepGoesOn : (probe []).powered = true ∧ { State.reset with powered := false }.agenda = [] := ⟨rfl, rfl⟩

/-- g6 is empty; g5 awaits its fill. -/
def emptied6 : State := probeAs Core.fresh 0 ((thread []).setReg 6 { GReg.of 0 false with st := .empty })
def pending5 : State := probeAs Core.fresh 0 ((thread []).setReg 5 { GReg.of 0 false with st := .pending })

theorem wit_RegisterChecks :
    (∃ (s : State) (i : Instr) (d : RegNo) (u : Use) (v : Word) (n : RegNo), scalarResult s i = some (d, u, v) ∧ s.me.th = false ∧
      u.fields.find? (fun n => decide (s.myCore.regCount ≤ n.toNat)) = some n) ∧
    (∃ (s : State) (i : Instr) (d : RegNo) (u : Use) (v : Word) (p : RegNo × Bool), scalarResult s i = some (d, u, v) ∧ s.me.th = false ∧
      (∀ n ∈ u.fields, n.toNat < s.myCore.regCount) ∧ u.srcs.find? (fun p => (s.me.reg p.1).st != .full && p.2) = some p) ∧
    (∃ (s : State) (i : Instr) (d : RegNo) (u : Use) (v : Word), scalarResult s i = some (d, u, v) ∧ s.me.th = false ∧
      (∀ n ∈ u.fields, n.toNat < s.myCore.regCount) ∧ (∀ p ∈ u.srcs, (s.me.reg p.1).st ≠ .full → p.2 = false) ∧
      (∃ p ∈ u.srcs, (s.me.reg p.1).st ≠ .full)) ∧
    ∃ (s : State) (i : Instr) (d : RegNo) (u : Use) (v : Word), scalarResult s i = some (d, u, v) ∧ s.me.th = false ∧
      (∀ n ∈ u.fields, n.toNat < s.myCore.regCount) ∧ (∀ p ∈ u.srcs, (s.me.reg p.1).st ≠ .full → p.2 = false) ∧
      ∃ n ∈ u.dsts, (s.me.reg n).st = .pending :=
  ⟨⟨probe [], .add ⟨5, 32, 7, false, false⟩, _, _, _, 32, rfl, by decide +kernel, by decide +kernel⟩,
   ⟨emptied6, .add ⟨5, 6, 7, true, false⟩, _, _, _, (6, true), rfl, by decide +kernel, by decide +kernel, by decide +kernel⟩,
   ⟨emptied6, .add ⟨5, 6, 7, false, false⟩, _, _, _, rfl, by decide +kernel, by decide +kernel, by decide +kernel, by decide +kernel⟩,
   pending5, .add ⟨5, 6, 7, false, false⟩, _, _, _, rfl, by decide +kernel, by decide +kernel, by decide +kernel, by decide +kernel⟩

theorem wit_PrivilegedStateKept : ∃ (i : Instr) (s t : State), isEvent i = false ∧ exec i s = .next t ∧ s.me.mode = .u :=
  ⟨.srw ⟨6, 0xC01, false⟩, probeAs Core.fresh 0 { sThread [] with mode := .u }, _, rfl, rfl, rfl⟩

theorem wit_ResetState : (State.reset.core 0).units = 12 := rfl

end Sys2Proof.Tests
end

section
/-! SUPPORT. The reset of the part, the dispatcher of a core, takes from its deque and steals between towers (R16, R19, R96, R105,
R126, R131, R303). -/

namespace Sys2Proof.Machine

open Sys2Proof.Safety Sys2Proof.Claims

/-! ### Reset -/

/-- No core is listed at reset, so each is as R126 and R303 leave it. -/
@[simp] theorem core_reset (g : Nat) : State.reset.core g = Core.fresh := rfl

/-- A fresh core has 12 units of 64 KiB of scratchpad (R126). -/
theorem Core.units_fresh : Core.fresh.units = 12 := rfl

/-- Settles O59: every core reads as a fresh one, and the fields of a fresh core are the values of R126, R131 and R303. -/
theorem resetState : Obligations.ResetState := by
  unfold Obligations.ResetState
  refine ⟨reset_wf, by decide, fun g => ?_, fun g off => ⟨?_, ?_⟩, fun g n => ?_⟩
  · rw [core_reset]
    exact ⟨rfl, rfl, rfl, rfl, rfl, rfl, by rw [Core.units_fresh]⟩
  · simp [fullAt, Core.fresh]
  · simp [tagAt, Core.fresh]
  · simp [Tile.isFull, Core.fresh, Tile.fresh]

/-! ### Registers of a bank -/

theorem Ctx.regIn_setRegIn (c : Ctx) (n : RegNo) (v : GReg) (h : n ≠ 0) : (c.setRegIn false n v).regIn false n = v := by
  simp only [Ctx.regIn, Ctx.setRegIn, if_neg h, Bool.false_eq_true, if_false, Vector.getElem_set_self]

theorem Ctx.regIn_setRegIn_ne (c : Ctx) (n m : RegNo) (v : GReg) (h : m ≠ n) :
    (c.setRegIn false n v).regIn false m = c.regIn false m := by
  have hn : n.toNat ≠ m.toNat := fun e => h (BitVec.eq_of_toNat_eq e.symm)
  by_cases h0 : n = 0
  · simp [Ctx.setRegIn, h0]
  · simp only [Ctx.regIn, Ctx.setRegIn, if_neg h0, Bool.false_eq_true, if_false, Vector.getElem_set_ne _ _ hn]

/-! ### A store at the place an address names -/

/-- The window of a scratchpad holds its bytes at the addresses that name them (R139). -/
theorem windowOf_of_placeOf {s : State} {pa g off : Nat} (h : placeOf s pa = .spad g off) : windowOf g + off = pa := by
  have hb : spBase = 0x080000000000 := rfl
  have ha : spBaseAtelier = 0x080800000000 := rfl
  unfold placeOf at h
  dsimp only at h
  split at h
  · split at h <;> cases h
  · split at h
    · split at h
      · cases h
        rw [windowOf, if_pos (by omega)]
        omega
      · cases h
    · split at h
      · split at h
        · cases h
          rw [windowOf, if_neg (by omega)]
          omega
        · cases h
      · split at h <;> cases h

@[simp] theorem writeSpad_mem (s : State) (g off : Nat) (bs : List Byte) :
    (writeSpad s g off bs).mem = writeBytes s.mem (windowOf g + off) bs := perform_mem ..

/-- A store for an access writes its bytes, and nothing else of memory, wherever it is performed. -/
theorem storeVia_mem (s : State) (v : Via) (pa : Nat) (bs : List Byte) : (storeVia s v pa bs).mem = writeBytes s.mem pa bs := by
  unfold storeVia
  split
  · rename_i hp
    rw [writeSpad_mem, windowOf_of_placeOf hp]
  · exact performVia_mem ..

/-- A take's increment writes the one unit of the join count (R105). -/
theorem addCount_mem (s : State) (b : Nat) (w : Where) (d : Word) :
    (addCount s b w d).mem = write64 s.mem w.pa (read64 s.mem w.pa + d) := storeVia_mem ..

/-- A write of an 8-byte unit changes no byte outside it. -/
theorem outside_of_write64 {s t : State} {a : Nat} {v : Word} (hw : Memory.wf s.mem = true) (h : t.mem = write64 s.mem a v) :
    Outside s t a 8 := by
  intro b hb
  rw [h]
  exact readByte_writeBytes_outside hw _ _ _ (by simpa using hb)

/-! ### Starting a thread (R100, R105) -/

theorem startRec_launch {r : ReadyRec} {pc : Word} {args : List (Word × Bool)} (h : r.work = .launch pc args) (s : State)
    (g k : Nat) : startRec s g k r = startLaunch s g k r.mode pc args r.acqs false := by
  unfold startRec
  rw [h]

/-- A launch record without arguments starts its thread in a fresh context. -/
theorem startLaunch_nil (s : State) (g k : Nat) (md : Mode) (pc : Word) (acqs : List Acq) (owned : Bool) :
    startLaunch s g k md pc [] acqs owned =
      s.setCtx g k { Ctx.fresh with phase := .run, mode := md, pc := pc, owned := owned, acqs := acqs, counted := true } := rfl

/-- A continuation starts with the two registers that its record holds. -/
theorem ctx_startCont (s : State) (g k : Nat) (r : DqRec) :
    (startCont s g k r).ctx g k =
      { (Ctx.fresh.setRegIn false 2 (GReg.of r.g2 false)).setRegIn false 3 (GReg.of r.g3 false) with
        phase := .run, mode := r.mode, pc := r.pc, acqs := [r.acq] } := State.ctx_setCtx ..

theorem regIn_two_startCont (s : State) (g k : Nat) (r : DqRec) :
    ((startCont s g k r).ctx g k).regIn false 2 = GReg.of r.g2 false := by
  rw [ctx_startCont]
  exact (Ctx.regIn_setRegIn_ne _ _ _ _ (by decide)).trans (Ctx.regIn_setRegIn _ _ _ (by decide))

theorem regIn_three_startCont (s : State) (g k : Nat) (r : DqRec) :
    ((startCont s g k r).ctx g k).regIn false 3 = GReg.of r.g3 false := by
  rw [ctx_startCont]
  exact Ctx.regIn_setRegIn _ _ _ (by decide)

@[simp] theorem startCont_mem (s : State) (g k : Nat) (r : DqRec) : (startCont s g k r).mem = s.mem := rfl

/-! ### A dispatcher that may fill a context (R19, R96) -/

section Fill
variable {s : State} {g k : Nat}

/-- A stolen record that waits at the core starts first. -/
theorem execDispatchFill_stolen {r : ReadyRec} {l : List ReadyRec} (hk : freeCtx s g = some k) (ha : (s.core g).asleep = false)
    (hb : bedMoving s g = false) (hp : corePresent s g = true) (hs : (s.core g).stolen = r :: l) (b0 b1 v : Nat) :
    execDispatchFill g b0 b1 v s = .next (startRec (s.setCore g { s.core g with stolen := l }) g k r) := by
  simp [execDispatchFill, hk, ha, hb, hp, hs, event]

/-- With none waiting, a continuation taken from the core's own deque starts. -/
theorem execDispatchFill_took {r : DqRec} {s1 : State} (hk : freeCtx s g = some k) (ha : (s.core g).asleep = false)
    (hb : bedMoving s g = false) (hp : corePresent s g = true) (hs : (s.core g).stolen = [])
    (ht : takeTop s g (queueBasin s g) = .took r s1) (b0 b1 v : Nat) :
    execDispatchFill g b0 b1 v s = .next (startCont s1 g k r) := by
  simp [execDispatchFill, hk, ha, hb, hp, hs, ht, event]

/-- The top record of a deque is taken, and its join count rises by one, where its g3 translates to a word that no protection
and no store of the pushing core keeps back (R105). -/
theorem takeRec_took {s1 : State} {r : DqRec} {w : Where} (h8 : r.g3.toNat % 8 = 0)
    (ht : translateNow s ⟨g, r.mode, r.basin⟩ r.g3 .atomic 8 = (.ok w, s1)) (hd : placeOf s1 w.pa ≠ .device)
    (hpr : protectedPlace s1 w.pa 8 = false) (hlb : lineBuffered s1 g (lineOf w.pa) = false)
    (hob : ∀ e ∈ (s1.tower (sliceTower s1 g)).outbound, e.line ≠ lineOf w.pa) :
    takeRec s g r =
      .took r (addCount (s1.setCore g { s1.core g with deque := (s1.core g).deque.erase r }) r.basin w 1) := by
  have hany : ((s1.tower (sliceTower s1 g)).outbound.any fun e => decide (e.line = lineOf w.pa)) = false := by
    simpa using hob
  simp [takeRec, h8, ht, hd, hpr, hlb, hany]

/-- A take looks at the top record alone. -/
theorem takeTop_cons {b : Nat} {r : DqRec} {l : List DqRec} (hd : (s.core g).deque = r :: l) (hp : r.pinned = false)
    (hb : r.basin = b) : takeTop s g b = takeRec s g r := by
  simp [takeTop, hd, hp, hb]

end Fill

theorem execDispatchRetryExpiry_asleep {s : State} {g : Nat} (h : (s.core g).asleep = true) :
    execDispatchRetryExpiry g s = .next (s.setCore g { s.core g with asleep := false }) := if_pos h

/-! ### Cores and contexts after a core is written -/

/-- Writing a core leaves a context of any core that it keeps the contexts of. -/
theorem ctx_setCore_of_ctxs {s : State} {g : Nat} {c : Core} (h : c.ctxs = (s.core g).ctxs) (i k : Nat) :
    (s.setCore g c).ctx i k = s.ctx i k := by
  by_cases hi : i = g
  · subst hi
    simp [State.ctx, Core.ctx, h]
  · simp [State.ctx, State.core_setCore_ne _ _ _ _ hi]

/-- Writing a core leaves its lowest FREE context when its contexts and its width stay. -/
theorem freeCtx_setCore {s : State} {g : Nat} {c : Core} (h : c.ctxs = (s.core g).ctxs) (hw : c.wide = (s.core g).wide) :
    freeCtx (s.setCore g c) g = freeCtx s g := by
  simp [freeCtx, ctx_setCore_of_ctxs h, Core.count, hw]

/-! ### Steals between towers (R96 step 4) -/

/-- A record taken out of a bank is no longer in it. -/
theorem bank_dropRecord (s : State) (t n : Nat) (r : ReadyRec) :
    ((dropRecord s t n r).tower t).bank n = ((s.tower t).bank n).erase r := by
  simp [dropRecord, Tower.bank]

/-- The asked tower sends its best record, which leaves its bank. -/
theorem execStealRequestReceive_best {s : State} {g n : Nat} {q : Steal} {r : ReadyRec} (hq : (s.core g).steal = some q)
    (ha : q.answered = false) (hp : corePresent s g = true) (ht : towerPresent s q.tower = true)
    (hb : bestToSend s q.tower g = some (n, r)) (v : Nat) :
    execStealRequestReceive g v s = .next ((dropRecord s q.tower n r).setCore g
      { (dropRecord s q.tower n r).core g with steal := some ⟨q.tower, true, some r⟩ }) := by
  simp [execStealRequestReceive, hq, ha, hp, ht, hb, event]

/-- The record of an answer starts in the core's FREE context. -/
theorem execStealAnswerReceive_starts {s : State} {g k : Nat} {q : Steal} {r : ReadyRec} (hq : (s.core g).steal = some q)
    (ha : q.answered = true) (hf : q.found = some r) (hk : freeCtx s g = some k) (hb : bedMoving s g = false)
    (hp : corePresent s g = true) :
    execStealAnswerReceive g s = .next (startRec (s.setCore g { s.core g with steal := none }) g k r) := by
  have hk' : freeCtx (s.setCore g { s.core g with steal := none }) g = some k := by rw [freeCtx_setCore (by rfl) (by rfl), hk]
  have hb' : bedMoving (s.setCore g { s.core g with steal := none }) g = false := hb
  simp [execStealAnswerReceive, hq, ha, hf, hp, hk', hb', event]

/-! ### The events of the dispatcher as steps -/

theorem exec_dispatchFill (g b0 b1 v : Nat) (s : State) : exec (.dispatchFill g b0 b1 v) s = execDispatchFill g b0 b1 v s := rfl
theorem exec_dispatchRetryExpiry (g : Nat) (s : State) : exec (.dispatchRetryExpiry g) s = execDispatchRetryExpiry g s := rfl
theorem exec_stealRequestReceive (g v : Nat) (s : State) :
    exec (.stealRequestReceive g v) s = execStealRequestReceive g v s := rfl
theorem exec_stealAnswerReceive (g : Nat) (s : State) : exec (.stealAnswerReceive g) s = execStealAnswerReceive g s := rfl

/-- Settles O22: a stolen record or the top record of the own deque starts in the FREE context; the take's increment is the
only write to memory; a retry wakes the dispatcher, and the two messages of a steal move one record. -/
theorem dispatcherFills : Obligations.DispatcherFills := by
  unfold Obligations.DispatcherFills
  refine ⟨?stolen, ?deque, ?retry, ?request, ?answer⟩
  case stolen =>
    intro s g b0 b1 v k r l pc hk ha hb hp hs hw
    refine ⟨_, (exec_dispatchFill ..).trans (execDispatchFill_stolen hk ha hb hp hs ..), ?_⟩
    rw [startRec_launch hw, startLaunch_nil, State.ctx_setCtx]
    refine ⟨rfl, rfl, rfl, rfl, rfl, rfl, fun j hj => ?_⟩
    rw [State.ctx_setCtx_ne _ _ _ _ _ _ (by simpa using hj), ctx_setCore_of_ctxs (by rfl)]
  case deque =>
    intro s s1 g b0 b1 v k r l w hk ha hb hp hs hd hpin hbas h8 ht hdev hpr hlb hob hwf
    have htake := (takeTop_cons hd hpin hbas).trans (takeRec_took h8 ht hdev hpr hlb hob)
    refine ⟨_, (exec_dispatchFill ..).trans (execDispatchFill_took hk ha hb hp hs htake ..), ?_⟩
    refine ⟨by rw [ctx_startCont], by rw [ctx_startCont], by rw [ctx_startCont], regIn_two_startCont .., regIn_three_startCont ..,
      by rw [ctx_startCont], ?count, outside_of_write64 hwf (addCount_mem ..)⟩
    rw [startCont_mem, addCount_mem]
    exact read64_write64 hwf _ _
  case retry =>
    intro s g ha
    refine ⟨_, (exec_dispatchRetryExpiry ..).trans (execDispatchRetryExpiry_asleep ha), ?_, fun k => ctx_setCore_of_ctxs (by rfl) g k⟩
    rw [State.core_setCore]
  case request =>
    intro s g v n q r hq ha hp ht hb
    refine ⟨_, (exec_stealRequestReceive ..).trans (execStealRequestReceive_best hq ha hp ht hb v), ?_, bank_dropRecord ..⟩
    rw [State.core_setCore]
  case answer =>
    intro s g k q r pc hq ha hf hk hb hp hw
    refine ⟨_, (exec_stealAnswerReceive ..).trans (execStealAnswerReceive_starts hq ha hf hk hb hp), ?_⟩
    rw [startRec_launch hw, startLaunch_nil, State.core_setCtx, State.core_setCore, State.ctx_setCtx]
    exact ⟨rfl, rfl, rfl⟩

end Sys2Proof.Machine
end

section
/-! SUPPORT. What completing an instruction, L1's invalidation, the bits of a scratchpad word and a park leave: the rules that
the SYNC and FENCE instructions are read with (R131, R132, R161, R168 to R181). -/

namespace Sys2Proof.Machine

open Sys2Proof.Safety Sys2Proof.Claims

/-! ### Contexts that an update leaves -/

/-- Completing an instruction leaves the other contexts. -/
theorem ctx_next4_ne (s : State) {g k : Nat} (h : (g, k) ≠ s.cur) : s.next4.ctx g k = s.ctx g k :=
  State.ctx_setMe_ne _ _ _ _ h

/-- A register of the executing thread takes a value: the other contexts stay. -/
theorem ctx_putTagged_ne (s : State) (d : RegNo) (v : Word) (tag : Bool) {g k : Nat} (h : (g, k) ≠ s.cur) :
    (s.putTagged d v tag).ctx g k = s.ctx g k :=
  State.ctx_setMe_ne _ _ _ _ h

/-- A core whose contexts are written keeps all but its contexts. -/
theorem core_setMe_ctxs (s : State) (x : Ctx) (g : Nat) :
    { (s.setMe x).core g with ctxs := [], l1 := [] } = { s.core g with ctxs := [], l1 := [] } := by
  by_cases hg : g = s.cur.1
  · subst hg
    simp [State.setMe, Core.setCtx]
  · rw [State.setMe, State.core_setCtx_ne _ _ _ _ _ hg]

/-! ### Completing an instruction -/

/-- Going on at PC + 4 leaves all but the PC and the mask count. -/
theorem keeps_next4 (s : State) : Keeps s s.next4 [] s.me.fpctl where
  regs n _ := State.reg_next4 s n
  hidden n _ _ := by simp only [State.next4, State.me_goto]; rfl
  status := by simp [State.next4, State.me_goto]
  saved := by simp [State.next4, State.me_goto]
  staged := by simp [State.next4, State.me_goto]
  mem _ := rfl
  others _ _ h := ctx_next4_ne s h
  cores := core_setMe_ctxs s _
  part := rfl

/-- Putting a value in rd and going on leaves all but the PC, the mask count and rd. -/
theorem keeps_put_next4 (s : State) (d : RegNo) (v : Word) : Keeps s (s.put d v).next4 [d] s.me.fpctl :=
  keeps_setReg s d (GReg.of v false) _

/-- What leaves all but a list of registers leaves the rest of the thread. -/
theorem rest_of_keeps {s t : State} {l : List RegNo} (h : Keeps s t l s.me.fpctl) : Rest s t l where
  regs := h.regs
  hidden := h.hidden
  status := h.status
  saved := by
    obtain ⟨hcause, hepc, htval, hscratch, -, hivec, hiepc⟩ := h.saved
    exact ⟨hcause, hepc, htval, hscratch, hivec, hiepc⟩
  staged := h.staged
  others := h.others

/-- The thread of s1 differs from that of s in its event latch and its release points alone, and the other contexts are the
same: what an instruction leaves of s1 it leaves of s. -/
theorem rest_of_same_thread {s s1 t : State} {l : List RegNo} (h : Rest s1 t l) (hcur : s1.cur = s.cur)
    (hme : s1.me = { s.me with evl := s1.me.evl, fences := s1.me.fences })
    (hctx : ∀ g k, (g, k) ≠ s.cur → s1.ctx g k = s.ctx g k) : Rest s t l where
  regs n hn := by rw [h.regs n hn, hme]; rfl
  hidden n h1 h2 := by
    have := h.hidden n h1 h2
    rw [hme] at this
    exact this
  status := by
    have := h.status
    rw [hme] at this
    exact this
  saved := by
    have := h.saved
    rw [hme] at this
    exact this
  staged := by
    have := h.staged
    rw [hme] at this
    exact this
  others g k hn := by rw [h.others g k (hcur ▸ hn), hctx g k hn]

/-- An instruction that changes no context goes on at PC + 4: the thread is as it was. -/
theorem rest_next4_of_ctx {s s1 : State} (hcur : s1.cur = s.cur) (hctx : ∀ g k, s1.ctx g k = s.ctx g k) :
    Rest s s1.next4 [] :=
  rest_of_same_thread (rest_of_keeps (keeps_next4 s1)) hcur (by simp [State.me, hcur, hctx]) fun g k _ => hctx g k

/-- The register put is written full and untagged; g0 still reads 0. -/
theorem written_put_next4 (s : State) (d : RegNo) (v : Word) : Written (s.put d v).next4 d v false := by
  unfold Written
  rw [State.reg_next4, State.me_put]
  split
  · subst d; exact Ctx.reg_zero _
  · exact Ctx.reg_setReg _ _ _ ‹_›

/-! ### L1 is flash-invalidated (R133, R161) -/

@[simp] theorem flashL1_cur (s : State) (g : Nat) : (flashL1 s g).cur = s.cur := rfl
@[simp] theorem flashL1_mem (s : State) (g : Nat) : (flashL1 s g).mem = s.mem := rfl
@[simp] theorem flashL1_serial (s : State) (g : Nat) : (flashL1 s g).serial = s.serial := rfl
@[simp] theorem ctx_flashL1 (s : State) (g h k : Nat) : (flashL1 s g).ctx h k = s.ctx h k := ctx_setCore_of_ctxs (by rfl) h k
@[simp] theorem me_flashL1 (s : State) (g : Nat) : (flashL1 s g).me = s.me := ctx_flashL1 ..
@[simp] theorem l1_flashL1 (s : State) (g : Nat) : ((flashL1 s g).core g).l1 = [] := by simp [flashL1]

/-- An invalidation of L1 drops copies: an instruction that follows it leaves of the state what it leaves after it. -/
theorem keeps_of_flashL1 {s t : State} {g : Nat} {l : List RegNo} {f : Word} (h : Keeps (flashL1 s g) t l f) : Keeps s t l f where
  regs := by simpa using h.regs
  hidden := by simpa using h.hidden
  status := by simpa using h.status
  saved := by simpa using h.saved
  staged := by simpa using h.staged
  mem := h.mem
  others i k hn := by rw [h.others i k hn, ctx_flashL1]
  cores i := by
    rw [h.cores i]
    by_cases hi : i = g
    · subst hi; simp [flashL1]
    · rw [flashL1, State.core_setCore_ne _ _ _ _ hi]
  part := h.part

end Sys2Proof.Machine
end

section
/-! SUPPORT. The four fences (R161, R170). -/

namespace Sys2Proof.Machine

open Sys2Proof.Safety Sys2Proof.Claims

/-! ### The parts of a fence -/

/-- An instruction that names no register passes steps 5 to 7 of R21. -/
theorem ready_no_registers (s : State) : Ready s ⟨[], [], []⟩ := by constructor <;> simp

/-- The acquire of a fence empties L1, or does nothing (R161). -/
theorem fenceAcq_cases (s : State) (f : Nat) : fenceAcq s f = s ∨ fenceAcq s f = flashL1 s s.cur.1 := by
  cases hl : s.me.lastLoad with
  | none => exact .inl (by simp only [fenceAcq, hl])
  | some scope =>
    by_cases h : 2 ≤ (if scope = 0 then f else min f scope)
    · exact .inr (by simp only [fenceAcq, hl, if_pos h])
    · exact .inl (by simp only [fenceAcq, hl, if_neg h])

/-- Where the thread's most recent load is plain, it becomes an acquire at the fence's own scope (R161). -/
theorem fenceAcq_plain {s : State} {f : Nat} (hl : s.me.lastLoad = some 0) (hf : 2 ≤ f) : fenceAcq s f = flashL1 s s.cur.1 := by
  simp [fenceAcq, hl, hf]

@[simp] theorem fenceAcq_cur (s : State) (f : Nat) : (fenceAcq s f).cur = s.cur := by
  obtain h | h := fenceAcq_cases s f <;> simp [h]
@[simp] theorem fenceAcq_mem (s : State) (f : Nat) : (fenceAcq s f).mem = s.mem := by
  obtain h | h := fenceAcq_cases s f <;> simp [h]
@[simp] theorem fenceAcq_serial (s : State) (f : Nat) : (fenceAcq s f).serial = s.serial := by
  obtain h | h := fenceAcq_cases s f <;> simp [h]
@[simp] theorem ctx_fenceAcq (s : State) (f g k : Nat) : (fenceAcq s f).ctx g k = s.ctx g k := by
  obtain h | h := fenceAcq_cases s f <;> simp [h]
@[simp] theorem me_fenceAcq (s : State) (f : Nat) : (fenceAcq s f).me = s.me := by simp [State.me]

/-- The acquire of a fence leaves L1 empty where L1 was empty. -/
theorem l1_fenceAcq {s : State} (f : Nat) (h : (s.core s.cur.1).l1 = []) : ((fenceAcq s f).core s.cur.1).l1 = [] := by
  obtain e | e := fenceAcq_cases s f
  · rw [e, h]
  · rw [e, l1_flashL1]

/-- A release point joins the thread's (R161). -/
@[simp] theorem me_fenceRel (s : State) (f : Nat) :
    (fenceRel s f).me = { s.me with fences := s.me.fences ++ [⟨f, s.serial, false⟩] } := by simp [fenceRel]
@[simp] theorem fenceRel_mem (s : State) (f : Nat) : (fenceRel s f).mem = s.mem := rfl
theorem ctx_fenceRel_ne (s : State) (f : Nat) {g k : Nat} (h : (g, k) ≠ s.cur) : (fenceRel s f).ctx g k = s.ctx g k :=
  State.ctx_setMe_ne _ _ _ _ h

/-- A core's L1 stays when its thread writes its context. -/
@[simp] theorem l1_setMe (s : State) (x : Ctx) (g : Nat) : ((s.setMe x).core g).l1 = (s.core g).l1 := by
  by_cases hg : g = s.cur.1
  · subst hg; simp [State.setMe]
  · rw [State.setMe, State.core_setCtx_ne _ _ _ _ _ hg]
@[simp] theorem l1_next4 (s : State) (g : Nat) : (s.next4.core g).l1 = (s.core g).l1 := l1_setMe ..
@[simp] theorem l1_fenceRel (s : State) (f g : Nat) : ((fenceRel s f).core g).l1 = (s.core g).l1 := l1_setMe ..

/-! ### A fence goes on -/

/-- What a fence with a release point leaves: s1 is s with L1 empty or as it was. -/
theorem fenceRel_next4 {s s1 : State} (f : Nat) (hcur : s1.cur = s.cur) (hctx : ∀ g k, s1.ctx g k = s.ctx g k)
    (hser : s1.serial = s.serial) (hmem : s1.mem = s.mem) :
    (fenceRel s1 f).next4.me.pc = s.me.pc + 4 ∧
      (fenceRel s1 f).next4.me.fences = s.me.fences ++ [⟨f, s.serial, false⟩] ∧
      Rest s (fenceRel s1 f).next4 [] ∧ (fenceRel s1 f).next4.mem = s.mem := by
  have hme : s1.me = s.me := by simp [State.me, hcur, hctx]
  refine ⟨by rw [State.pc_next4, me_fenceRel, hme], by simp [State.next4, State.me_goto, hme, hser], ?_, hmem⟩
  refine rest_of_same_thread (rest_of_keeps (keeps_next4 _)) hcur (by rw [me_fenceRel, hme]) fun g k hn => ?_
  rw [ctx_fenceRel_ne _ _ (hcur ▸ hn), hctx]

theorem exec_fenceAcq (o : Fn) (s : State) : exec (.fenceAcq o) s = .next (fenceAcq s (s.sc o.s)).next4 := by
  show execFenceAcq o s = _
  rw [execFenceAcq, gate_ready (ready_no_registers s)]
  rfl

section Drained
variable {o : Fn} {s : State}

/-- FENCE.REL waits for nothing but the thread's vector instructions (R231). -/
theorem exec_fenceRel (h : vectorBusy s s.cur.1 s.cur.2 = false) :
    exec (.fenceRel o) s = .next (fenceRel s (s.sc o.s)).next4 := by
  show execFenceRel o s = _
  rw [execFenceRel, gate_ready (ready_no_registers s), h]
  rfl

theorem exec_fenceAr (h : vectorBusy s s.cur.1 s.cur.2 = false) :
    exec (.fenceAr o) s = .next (fenceRel (fenceAcq s (s.sc o.s)) (s.sc o.s)).next4 := by
  show execFenceAr o s = _
  rw [execFenceAr, gate_ready (ready_no_registers s), h]
  rfl

/-- A release whose earlier stores are visible goes on (R161). -/
theorem releaseAt_visible {scope : Nat} (h : vectorBusy s s.cur.1 s.cur.2 = false) (hm : s.me.relMark = none)
    (hv : visibleAt s scope s.cur.1 s.serial = true) (k : State → Eff) : releaseAt s scope k = k s := by
  simp [releaseAt, h, hm, hv]

/-- Any other release parks, with its mark (R161, log entry 10). -/
theorem releaseAt_hidden {scope : Nat} (h : vectorBusy s s.cur.1 s.cur.2 = false) (hm : s.me.relMark = none)
    (hv : visibleAt s scope s.cur.1 s.serial = false) (k : State → Eff) :
    releaseAt s scope k = .park (s.bump.setMe { s.me with relMark := some s.serial }) (.drain scope s.serial) := by
  simp [releaseAt, h, hm, hv]

/-- FENCE.SC once every earlier store is visible: L1 is emptied at a scope wider than core, then it is an AR (R170). -/
theorem exec_fenceSc_visible (h : vectorBusy s s.cur.1 s.cur.2 = false) (hm : s.me.relMark = none)
    (hv : visibleAt s (s.sc o.s) s.cur.1 s.serial = true) :
    exec (.fenceSc o) s =
      .next (fenceRel (fenceAcq (if 2 ≤ s.sc o.s then flashL1 s s.cur.1 else s) (s.sc o.s)) (s.sc o.s)).next4 := by
  show execFenceSc o s = _
  rw [execFenceSc, gate_ready (ready_no_registers s), releaseAt_visible h hm hv]
  rfl

theorem exec_fenceSc_hidden (h : vectorBusy s s.cur.1 s.cur.2 = false) (hm : s.me.relMark = none)
    (hv : visibleAt s (s.sc o.s) s.cur.1 s.serial = false) :
    exec (.fenceSc o) s =
      .next ((s.bump.setMe { s.me with relMark := some s.serial }).parkMe (.drain (s.sc o.s) s.serial)) := by
  show execFenceSc o s = _
  rw [execFenceSc, gate_ready (ready_no_registers s), releaseAt_hidden h hm hv]
  rfl

end Drained

/-- Settles O12: an acquire empties L1 or does nothing, a release point joins the thread's list, and SC parks until its earlier
stores are visible. -/
theorem fences : Obligations.Fences := by
  unfold Obligations.Fences
  intro s o hvec
  refine ⟨?acq, ?rel, ?ar, ?sc, ?waits⟩
  case acq =>
    refine ⟨_, exec_fenceAcq o s, by rw [State.pc_next4, me_fenceAcq], by simp [State.next4, State.me_goto], ?_, fun hl hf => ?_⟩
    · obtain h | h := fenceAcq_cases s (s.sc o.s)
      · rw [h]; exact keeps_next4 s
      · rw [h]; exact keeps_of_flashL1 (by simpa using keeps_next4 (flashL1 s s.cur.1))
    · rw [l1_next4, fenceAcq_plain hl hf, l1_flashL1]
  case rel =>
    exact ⟨_, exec_fenceRel hvec, fenceRel_next4 _ rfl (fun _ _ => rfl) rfl rfl⟩
  case ar =>
    obtain ⟨hpc, hfences, hrest, hmem⟩ := fenceRel_next4 (s.sc o.s) (fenceAcq_cur s (s.sc o.s)) (ctx_fenceAcq s _)
      (fenceAcq_serial s _) (fenceAcq_mem s _)
    refine ⟨_, exec_fenceAr hvec, hpc, hfences, hrest, hmem, fun hl hf => ?_⟩
    rw [l1_next4, l1_fenceRel, fenceAcq_plain hl hf, l1_flashL1]
  case sc =>
    intro hm hv
    refine ⟨_, exec_fenceSc_visible hvec hm hv, ?_⟩
    by_cases hf : 2 ≤ s.sc o.s
    · rw [if_pos hf]
      obtain ⟨hpc, hfences, hrest, hmem⟩ := fenceRel_next4 (s := s) (s1 := fenceAcq (flashL1 s s.cur.1) (s.sc o.s)) (s.sc o.s)
        (by simp) (by simp) (by simp) (by simp)
      refine ⟨hpc, hfences, hrest, hmem, fun _ => ?_⟩
      rw [l1_next4, l1_fenceRel]
      exact l1_fenceAcq _ (l1_flashL1 s s.cur.1)
    · rw [if_neg hf]
      obtain ⟨hpc, hfences, hrest, hmem⟩ := fenceRel_next4 (s.sc o.s) (fenceAcq_cur s (s.sc o.s)) (ctx_fenceAcq s _)
        (fenceAcq_serial s _) (fenceAcq_mem s _)
      exact ⟨hpc, hfences, hrest, hmem, fun h => absurd h hf⟩
  case waits =>
    intro hm hv
    exact ⟨_, exec_fenceSc_hidden hvec hm hv, by simp [State.me_parkMe], by simp [State.me_parkMe]⟩

end Sys2Proof.Machine
end

section
/-! SUPPORT. The words of a scratchpad with their full/empty bits, and the operations of the owner core's unit (R131, R132, R168,
R173 to R177). -/

namespace Sys2Proof.Machine

open Sys2Proof.Safety Sys2Proof.Claims

/-! ### Full/empty bits, tags and bytes of a scratchpad word -/

theorem mem_insertSorted (x : Nat) (l : List Nat) : x ∈ insertSorted x l := by
  induction l with
  | nil => simp [insertSorted]
  | cons y r ih =>
    unfold insertSorted
    split
    · simp
    · split
      · simp [*]
      · simp [ih]

@[simp] theorem setFull_cur (s : State) (g off : Nat) (full : Bool) : (setFull s g off full).cur = s.cur := rfl
@[simp] theorem setFull_mem (s : State) (g off : Nat) (full : Bool) : (setFull s g off full).mem = s.mem := rfl
@[simp] theorem setFull_feOps (s : State) (g off : Nat) (full : Bool) : (setFull s g off full).feOps = s.feOps := rfl
@[simp] theorem ctx_setFull (s : State) (g off : Nat) (full : Bool) (h k : Nat) : (setFull s g off full).ctx h k = s.ctx h k :=
  ctx_setCore_of_ctxs (by rfl) h k

/-- A word's bit reads as it was set (R131). -/
@[simp] theorem fullAt_setFull (s : State) (g off : Nat) (full : Bool) : fullAt (setFull s g off full) g off = full := by
  cases full <;> simp [fullAt, setFull, mem_insertSorted]

@[simp] theorem setTag_cur (s : State) (g off : Nat) (tag : Bool) : (setTag s g off tag).cur = s.cur := rfl
@[simp] theorem setTag_mem (s : State) (g off : Nat) (tag : Bool) : (setTag s g off tag).mem = s.mem := rfl
@[simp] theorem ctx_setTag (s : State) (g off : Nat) (tag : Bool) (h k : Nat) : (setTag s g off tag).ctx h k = s.ctx h k :=
  ctx_setCore_of_ctxs (by rfl) h k

/-- The windows of the scratchpads lie above DRAM (R139). -/
theorem dram_le_windowOf (g : Nat) : 0x004000000000 ≤ windowOf g := by
  unfold windowOf spBase spBaseAtelier
  split <;> omega

/-- Bytes written into a scratchpad go to its window, and the tags of their words are cleared (R132). -/
theorem writeSpad_eq (s : State) (g off : Nat) (bs : List Byte) :
    writeSpad s g off bs = { clearTags s g off bs.length with mem := writeBytes s.mem (windowOf g + off) bs } := by
  have := dram_le_windowOf g
  unfold writeSpad perform performVia
  rw [if_neg (by omega)]
  rfl

@[simp] theorem writeSpad_cur (s : State) (g off : Nat) (bs : List Byte) : (writeSpad s g off bs).cur = s.cur := by
  rw [writeSpad_eq]; rfl
@[simp] theorem writeSpad_remotes (s : State) (g off : Nat) (bs : List Byte) : (writeSpad s g off bs).remotes = s.remotes := by
  rw [writeSpad_eq]; rfl
@[simp] theorem ctx_writeSpad (s : State) (g off : Nat) (bs : List Byte) (h k : Nat) : (writeSpad s g off bs).ctx h k = s.ctx h k := by
  rw [writeSpad_eq]
  exact ctx_setCore_of_ctxs (by rfl) h k

@[simp] theorem spWord_bump (s : State) (g off : Nat) : spWord s.bump g off = spWord s g off := rfl
@[simp] theorem tagAt_bump (s : State) (g off : Nat) : tagAt s.bump g off = tagAt s g off := rfl

/-- The word that an 8-byte write leaves reads as written. -/
theorem spWord_of_write64 {s t : State} {g off : Nat} {v : Word} (hw : Memory.wf s.mem = true)
    (h : t.mem = write64 s.mem (windowOf g + off) v) : spWord t g off = v := by
  unfold spWord readSpad
  rw [h]
  exact read64_write64 hw _ _

/-- Completing an instruction leaves the bits of every word. -/
@[simp] theorem fullAt_setMe (s : State) (x : Ctx) (g off : Nat) : fullAt (s.setMe x) g off = fullAt s g off := by
  unfold fullAt
  by_cases hg : g = s.cur.1
  · subst hg; simp [State.setMe]
  · rw [State.setMe, State.core_setCtx_ne _ _ _ _ _ hg]
@[simp] theorem fullAt_next4 (s : State) (g off : Nat) : fullAt s.next4 g off = fullAt s g off := fullAt_setMe ..
@[simp] theorem fullAt_parkMe (s : State) (p : Park) (g off : Nat) : fullAt (s.parkMe p) g off = fullAt s g off := fullAt_setMe ..

/-! ### One operation at the owner core's unit (R168) -/

section Unit
variable {s : State} {op : FeOp}

/-- Without a taker for the word nothing is handed over. -/
theorem handOff_none {owner off : Nat} (h : popTaker (s.core owner).takers off = none) (v : Word) (tag : Bool) (putter : Nat)
    (acq : Option Acq) : handOff s owner off v tag putter acq = none := by
  simp [handOff, h]

/-- What a TAKE of a full word brings (R174): its value, its tag on its own core, and the PUT to acquire. -/
def takenRes (s : State) (op : FeOp) : FeRes :=
  ⟨spWord s op.owner op.off, 0, tagAt s op.owner op.off && decide (op.core = op.owner), false, flook (s.core op.owner).spRel op.off⟩

theorem performFe_take_full (hk : op.kind = .take) (hf : fullAt s op.owner op.off = true) :
    performFe s op = .result (setFull s op.owner op.off false) (takenRes s op) := by
  simp [performFe, hk, hf, takenRes]

/-- TRYTAKE of a full word empties it (R176). -/
theorem performFe_trytake_full (hk : op.kind = .trytake) (hf : fullAt s op.owner op.off = true) :
    performFe s op = .result (setFull s op.owner op.off false)
      ⟨0, spWord s op.owner op.off, false, tagAt s op.owner op.off && decide (op.core = op.owner),
        flook (s.core op.owner).spRel op.off⟩ := by
  simp [performFe, hk, hf]

/-- TRYTAKE of an empty word reports it (R176). -/
theorem performFe_trytake_empty (hk : op.kind = .trytake) (hf : fullAt s op.owner op.off = false) :
    performFe s op = .result s ⟨1, 0, false, false, none⟩ := by
  simp [performFe, hk, hf]

theorem performFe_feget (hk : op.kind = .feget) :
    performFe s op = .result s ⟨boolWord (fullAt s op.owner op.off), 0, false, false, none⟩ := by
  simp [performFe, hk]

/-- PUT to an empty word that no taker waits for writes its 8 bytes and leaves it full (R175). -/
theorem performFe_put_empty (hk : op.kind = .put) (hf : fullAt s op.owner op.off = false)
    (ht : popTaker (s.core op.owner).takers op.off = none) :
    ∃ t, performFe s op = .complete t ∧ t.cur = s.cur ∧ (∀ g k, t.ctx g k = s.ctx g k) ∧
      t.mem = write64 s.mem (windowOf op.owner + op.off) op.val ∧ fullAt t op.owner op.off = true := by
  refine ⟨_, by simp only [performFe, hk, handOff_none ht, hf]; rfl, ?_, fun g k => ?_, ?_, ?_⟩
  · simp
  · rw [ctx_setCore_of_ctxs (by rfl)]; simp
  · simp [write64]
  · simpa [fullAt] using fullAt_setFull _ op.owner op.off true

/-- FESET with no taker sets the bit and keeps the value (R177). -/
theorem performFe_feset {f : Bool} (hk : op.kind = .feset f) (ht : popTaker (s.core op.owner).takers op.off = none) :
    ∃ t, performFe s op = .complete t ∧ t.cur = s.cur ∧ (∀ g k, t.ctx g k = s.ctx g k) ∧ t.mem = s.mem ∧
      fullAt t op.owner op.off = f := by
  cases f with
  | false =>
    have hperf : performFe s op = .complete (setFull s op.owner op.off false) := by simp [performFe, hk]
    exact ⟨_, hperf, rfl, fun g k => ctx_setFull .., rfl, fullAt_setFull ..⟩
  | true =>
    cases hf : fullAt s op.owner op.off with
    | true => exact ⟨s, by simp [performFe, hk, hf], rfl, fun _ _ => rfl, rfl, hf⟩
    | false =>
      have hperf : performFe s op = .complete (setFull
          (s.setCore op.owner { s.core op.owner with spRel := fdel (s.core op.owner).spRel op.off }) op.owner op.off true) := by
        simp only [performFe, hk, hf, handOff_none ht]
        rfl
      refine ⟨_, hperf, rfl, fun g k => ?_, rfl, fullAt_setFull ..⟩
      rw [ctx_setFull, ctx_setCore_of_ctxs (by rfl)]

end Unit

/-! ### Operations on the core's own scratchpad, at issue -/

section Own
variable {s : State} {off : Nat} {own : Bool}

/-- The checks of R173 let an operation on a word of the own scratchpad go on. -/
theorem withFeWord_own {va : Word} (h : OwnFeWord s va off own) (k : Nat → Nat → Bool → Eff) :
    withFeWord s va k = k s.cur.1 off own := by
  obtain ⟨h8, hw, hv⟩ := h
  simp [withFeWord, h8, hw, hv]

/-- The operation that an instruction of the executing thread sends to its own core's unit. -/
def ownFeOp (s : State) (kind : FeKind) (off : Nat) (v : Word) (tag : Bool) (rd : RegNo) : FeOp :=
  ⟨s.serial, s.cur.1, s.cur.2, kind, s.cur.1, off, v, tag, s.serial, rd, none, 0⟩

/-- An operation with a result parks its thread until the result fills rd. -/
theorem sendFe_own_result {kind : FeKind} {v : Word} {tag : Bool} {rd : RegNo} {s' : State} {r : FeRes}
    (h : performFe s.bump (ownFeOp s kind off v tag rd) = .result s' r) :
    sendFe s kind s.cur.1 off v tag rd =
      .park { s' with feOps := s'.feOps ++ [{ ownFeOp s kind off v tag rd with res := some r, doneAt := s.serial }] } (.feOp s.serial) := by
  unfold ownFeOp at h
  simp only [sendFe, h, if_true]
  rfl

/-- An operation without a result completes its instruction. -/
theorem sendFe_own_complete {kind : FeKind} {v : Word} {tag : Bool} {rd : RegNo} {s' : State}
    (h : performFe s.bump (ownFeOp s kind off v tag rd) = .complete s') :
    sendFe s kind s.cur.1 off v tag rd = .done s'.next4 := by
  unfold ownFeOp at h
  simp only [sendFe, h, if_true]

/-- A thread whose operation the own core's unit has performed awaits the result, and all else is as the unit leaves it. -/
theorem awaits_of_performFe {kind : FeKind} {rd : RegNo} {s' : State} {r : FeRes}
    (h : performFe s.bump (ownFeOp s kind off 0 false rd) = .result s' r) (hcur : s'.cur = s.cur)
    (hctx : ∀ g k, s'.ctx g k = s.ctx g k) (hops : s'.feOps = s.feOps) :
    ∃ t, finish s (sendFe s kind s.cur.1 off 0 false rd) = .next t ∧ t.mem = s'.mem ∧
      (∀ g a, fullAt t g a = fullAt s' g a) ∧ AwaitsResult s t kind off rd r := by
  rw [sendFe_own_result h]
  refine ⟨_, rfl, rfl, fun g a => fullAt_parkMe .., ?_⟩
  have hme : s'.me = s.me := by simp [State.me, hcur, hctx]
  have hme' : ∀ l, State.me { s' with feOps := l } = s.me := fun _ => hme
  refine ⟨?_, ?_, ?_, ?_, by rw [← hops]; rfl⟩ <;> rw [State.me_parkMe, hme']

theorem exec_take_own {o : R2} (h : Ready s o.use) (hw : OwnFeWord s (s.g o.a) off own) :
    exec (.take o) s = finish s (sendFe s .take s.cur.1 off 0 false o.d) := by
  show execTake o s = _
  rw [execTake, gate_ready h, withFeWord_own hw]

theorem exec_trytake_own {o : R2} (h : Ready s o.usePair) (hw : OwnFeWord s (s.g o.a) off own) :
    exec (.trytake o) s = finish s (sendFe s .trytake s.cur.1 off 0 false o.d) := by
  show execTrytake o s = _
  rw [execTrytake, gate_ready h, withFeWord_own hw]

theorem exec_feget_own {o : R2} (h : Ready s o.use) (hw : OwnFeWord s (s.g o.a) off own) :
    exec (.feget o) s = finish s (sendFe s .feget s.cur.1 off 0 false o.d) := by
  show execFeget o s = _
  rw [execFeget, gate_ready h, withFeWord_own hw]

theorem exec_feset_own {o : Rab} (h : Ready s o.use) (hw : OwnFeWord s (s.g o.a) off own) :
    exec (.feset o) s = finish s (sendFe s (.feset ((s.g o.b).getLsbD 0)) s.cur.1 off 0 false 0) := by
  show execFeset o s = _
  rw [execFeset, gate_ready h, withFeWord_own hw]

/-- PUT to a word of the own scratchpad that no frame protects, with nothing before it that its release waits for (R175). -/
theorem exec_put_own {o : Rab} (h : Ready s o.use) (hw : OwnFeWord s (s.g o.a) off own)
    (hp : protectedAt s.myCore off 8 = false) (ht : s.gtag o.b = true → own = true) (hf : s.me.fences = [])
    (hm : s.me.relMark = none) (hv : visibleAt s 1 s.cur.1 s.serial = true) :
    exec (.put o) s = finish s (sendFe s .put s.cur.1 off (s.g o.b) (s.gtag o.b) 0) := by
  have htag : (s.gtag o.b && !own) = false := by
    cases hb : s.gtag o.b with
    | false => rfl
    | true => rw [ht hb]; rfl
  have hscope : scopeOf s.cur.1 s.cur.1 = 1 := if_pos rfl
  have hp' : protectedAt (s.core s.cur.1) off 8 = false := hp
  show execPut o s = _
  rw [execPut, gate_ready h, withFeWord_own hw]
  simp only [hp', htag, behindFences, hf, List.find?_nil, hscope, releaseAt_visible hw.2.2 hm hv]
  rfl

end Own

/-- A completed operation of the own core's unit, as its instruction leaves it. -/
theorem completes_of_performFe {s s' : State} {kind : FeKind} {off : Nat} {v : Word} {tag : Bool} {rd : RegNo}
    (h : performFe s.bump (ownFeOp s kind off v tag rd) = .complete s') (hcur : s'.cur = s.cur)
    (hctx : ∀ g k, s'.ctx g k = s.ctx g k) :
    finish s (sendFe s kind s.cur.1 off v tag rd) = .next s'.next4 ∧ s'.next4.me.pc = s.me.pc + 4 ∧ Rest s s'.next4 [] ∧
      s'.next4.me.evl = s.me.evl := by
  have hme : s'.me = s.me := by simp [State.me, hcur, hctx]
  refine ⟨by rw [sendFe_own_complete h]; rfl, by rw [State.pc_next4, hme], rest_next4_of_ctx hcur hctx, ?_⟩
  simp [State.next4, State.me_goto, hme]

/-- Settles O10: the unit writes the word and sets its bit (`performFe_put_empty`), or sets the bit alone (`performFe_feset`), and
the instruction completes; FESET of a register writes its state. -/
theorem fullEmptyWrites : Obligations.FullEmptyWrites := by
  unfold Obligations.FullEmptyWrites
  refine ⟨?put, ?feset, ?register⟩
  case put =>
    intro s o off own hr hw hwf hempty htaker hprot htag hf hm hv
    obtain ⟨s', hperf, hcur, hctx, hmem, hfull⟩ :=
      performFe_put_empty (s := s.bump) (op := ownFeOp s .put off (s.g o.b) (s.gtag o.b) 0) rfl hempty htaker
    obtain ⟨hfin, hpc, hrest, hevl⟩ := completes_of_performFe hperf hcur hctx
    refine ⟨_, (exec_put_own hr hw hprot htag hf hm hv).trans hfin, hpc, by rw [fullAt_next4]; exact hfull, ?_, hrest, hevl, ?_⟩
    · exact spWord_of_write64 (s := s) hwf hmem
    · exact outside_of_write64 (s := s) hwf hmem
  case feset =>
    intro s o off own hr hw htaker
    obtain ⟨s', hperf, hcur, hctx, hmem, hfull⟩ :=
      performFe_feset (s := s.bump) (op := ownFeOp s (.feset ((s.g o.b).getLsbD 0)) off 0 false 0) rfl htaker
    obtain ⟨hfin, hpc, hrest, hevl⟩ := completes_of_performFe hperf hcur hctx
    exact ⟨_, (exec_feset_own hr hw).trans hfin, hpc, by rw [fullAt_next4]; exact hfull, hmem, hrest, hevl⟩
  case register =>
    intro s o hr hd
    have hexec : exec (.fesetRegister o) s = .next (s.setMe (s.me.setReg o.d { s.me.reg o.d with st := .empty })).next4 := by
      show execFesetRegister o s = _
      rw [execFesetRegister, gate_ready hr]
      rfl
    refine ⟨_, hexec, by rw [State.pc_next4, State.me_setMe, Ctx.setReg_pc], ?_, keeps_setReg ..⟩
    rw [State.reg_next4, State.me_setMe, Ctx.reg_setReg _ _ _ hd]

end Sys2Proof.Machine
end

section
/-! SUPPORT. TAKE, TRYTAKE and FEGET, the results that fill their registers, and what the owner core performs for another core
(R129, R168, R174, R176, R177). -/

namespace Sys2Proof.Machine

open Sys2Proof.Safety Sys2Proof.Claims

/-! ### A guarded receiver's log (R362) -/

/-- Keeping a message for a replay writes the tower's guard alone. -/
theorem keepReplay_cases (s : State) (t : Nat) (r : Replay) : keepReplay s t r = s ∨ ∃ x, keepReplay s t r = s.setGuard t x := by
  unfold keepReplay
  dsimp only
  by_cases h : (s.guard t).on = true
  · exact .inr ⟨_, if_pos h⟩
  · exact .inl (if_neg h)

@[simp] theorem keepReplay_mem (s : State) (t : Nat) (r : Replay) : (keepReplay s t r).mem = s.mem := by
  obtain h | ⟨x, h⟩ := keepReplay_cases s t r <;> simp [h]
@[simp] theorem keepReplay_remotes (s : State) (t : Nat) (r : Replay) : (keepReplay s t r).remotes = s.remotes := by
  obtain h | ⟨x, h⟩ := keepReplay_cases s t r <;> simp [h]
@[simp] theorem ctx_keepReplay (s : State) (t : Nat) (r : Replay) (g k : Nat) : (keepReplay s t r).ctx g k = s.ctx g k := by
  obtain h | ⟨x, h⟩ := keepReplay_cases s t r <;> rw [h]
  rfl

/-! ### A result fills its registers (R168) -/

/-- The registers of a full/empty operation's thread, filled: rd, and for TRYTAKE the pair. -/
def fillRegs (op : FeOp) (r : FeRes) (s : State) : State :=
  if op.kind = .trytake then (s.putTagged op.rd r.v0 r.tag0).putTagged (pairOf op.rd) r.v1 r.tag1
  else s.putTagged op.rd r.v0 r.tag0

theorem fillFe_eq (s : State) (op : FeOp) (r : FeRes) :
    fillFe s op r = asCtx s op.core op.ctx fun s => (fillRegs op r s).next4 := rfl

section FillRegs
variable (s : State) (op : FeOp) (r : FeRes)

@[simp] theorem fillRegs_cur : (fillRegs op r s).cur = s.cur := by unfold fillRegs; split <;> rfl
@[simp] theorem fillRegs_mem : (fillRegs op r s).mem = s.mem := by unfold fillRegs; split <;> rfl
@[simp] theorem pc_fillRegs : (fillRegs op r s).me.pc = s.me.pc := by
  unfold fillRegs; split <;> simp [State.me_putTagged]

theorem ctx_fillRegs_ne {g k : Nat} (h : (g, k) ≠ s.cur) : (fillRegs op r s).ctx g k = s.ctx g k := by
  unfold fillRegs
  split
  · exact (ctx_putTagged_ne (s.putTagged op.rd r.v0 r.tag0) _ _ _ h).trans (ctx_putTagged_ne _ _ _ _ h)
  · exact ctx_putTagged_ne _ _ _ _ h

/-- The second register of a pair is another one than the first. -/
theorem ne_pairOf (d : RegNo) : d ≠ pairOf d := by
  unfold pairOf
  bv_omega

/-- rd takes the first value, with its tag; the write of the pair's second register leaves it. -/
theorem reg_rd_fillRegs (h : op.rd ≠ 0) : (fillRegs op r s).me.reg op.rd = GReg.of r.v0 r.tag0 := by
  unfold fillRegs
  split
  · rw [State.me_putTagged, Ctx.reg_setReg_ne _ _ _ _ (ne_pairOf _), State.me_putTagged, Ctx.reg_setReg _ _ _ h]
  · rw [State.me_putTagged, Ctx.reg_setReg _ _ _ h]

/-- For TRYTAKE the second register of the pair takes the second value (R176). -/
theorem reg_pair_fillRegs (hk : op.kind = .trytake) (h : pairOf op.rd ≠ 0) :
    (fillRegs op r s).me.reg (pairOf op.rd) = GReg.of r.v1 r.tag1 := by
  rw [fillRegs, if_pos hk, State.me_putTagged, Ctx.reg_setReg _ _ _ h]

/-- The operation's thread after its result has filled its registers. -/
theorem ctx_fillFe : (fillFe s op r).ctx op.core op.ctx = (fillRegs op r (s.at (op.core, op.ctx))).next4.me := by
  rw [fillFe_eq, asCtx, State.ctx_at, State.me]
  simp

/-- The other contexts stay. -/
theorem ctx_fillFe_ne {g k : Nat} (h : (g, k) ≠ (op.core, op.ctx)) : (fillFe s op r).ctx g k = s.ctx g k := by
  rw [fillFe_eq, asCtx, State.ctx_at, ctx_next4_ne _ (by simpa using h), ctx_fillRegs_ne _ _ _ (by simpa using h), State.ctx_at]

@[simp] theorem fillFe_mem : (fillFe s op r).mem = s.mem := by
  rw [fillFe_eq]
  exact fillRegs_mem ..

/-- The state in which a result fills its registers: its operation is off the list, and a guarded tower keeps it. -/
def resultArrived (n : Nat) : State :=
  if op.core / 256 = op.owner / 256 then { s with feOps := s.feOps.eraseIdx n }
  else keepReplay { s with feOps := s.feOps.eraseIdx n } (op.core / 256) (.result op)

@[simp] theorem resultArrived_mem (n : Nat) : (resultArrived s op n).mem = s.mem := by unfold resultArrived; split <;> simp
@[simp] theorem ctx_resultArrived (n g k : Nat) : (resultArrived s op n).ctx g k = s.ctx g k := by
  unfold resultArrived
  split
  · rfl
  · rw [ctx_keepReplay]; rfl

end FillRegs

/-- A result that acquires nothing, and that no guarded tower holds back, fills its registers. -/
theorem exec_feResultFill {s : State} {n : Nat} {op : FeOp} {r : FeRes} (hop : s.feOps[n]? = some op) (hres : op.res = some r)
    (hacq : r.acq = none) (hheld : heldCore s op.owner (op.core / 256) op.doneAt = false) :
    exec (.feResultFill n) s = .next (fillFe (resultArrived s op n) op r) := by
  show execFeResultFill n s = _
  simp only [execFeResultFill, hop, hres, hheld, hacq]
  rfl

theorem fullEmptyResultFills : FullEmptyResultFills := by
  intro s n op r hop hres hacq hrd hpair hheld
  refine ⟨_, exec_feResultFill hop hres hacq hheld, ?_, ?_, ?_, fun hk => ?_, by simp, fun g k h => ?_⟩
  · rw [ctx_fillFe, State.pc_next4, pc_fillRegs, State.me_at, ctx_resultArrived]
  · simp [ctx_fillFe, State.next4, State.me_goto]
  · rw [ctx_fillFe, State.reg_next4, reg_rd_fillRegs _ _ _ hrd]
  · rw [ctx_fillFe, State.reg_next4, reg_pair_fillRegs _ _ _ hk hpair]
  · rw [ctx_fillFe_ne _ _ _ h, ctx_resultArrived]

/-! ### TAKE, TRYTAKE and FEGET at issue (R174, R176, R177) -/

theorem fullEmptyReadsClaim : FullEmptyReadsClaim := by
  refine ⟨?take, ?trytake, ?feget⟩
  case take =>
    intro s o off own hr hw hfull
    obtain ⟨t, hfin, hmem, hbits, hawaits⟩ := awaits_of_performFe
      (performFe_take_full (s := s.bump) (op := ownFeOp s .take off 0 false o.d) rfl hfull) rfl (fun _ _ => by rw [ctx_setFull]; rfl) rfl
    refine ⟨t, (exec_take_own hr hw).trans hfin, hmem, by rw [hbits]; exact fullAt_setFull .., ?_⟩
    simpa [takenRes, ownFeOp] using hawaits
  case trytake =>
    intro s o off own hr hw
    cases hfull : fullAt s s.cur.1 off with
    | true =>
      obtain ⟨t, hfin, hmem, hbits, hawaits⟩ := awaits_of_performFe
        (performFe_trytake_full (s := s.bump) (op := ownFeOp s .trytake off 0 false o.d) rfl hfull) rfl
        (fun _ _ => by rw [ctx_setFull]; rfl) rfl
      refine ⟨t, (exec_trytake_own hr hw).trans hfin, hmem, by rw [hbits]; exact fullAt_setFull .., ?_⟩
      simpa [ownFeOp] using hawaits
    | false =>
      obtain ⟨t, hfin, hmem, hbits, hawaits⟩ := awaits_of_performFe
        (performFe_trytake_empty (s := s.bump) (op := ownFeOp s .trytake off 0 false o.d) rfl hfull) rfl (fun _ _ => rfl) rfl
      exact ⟨t, (exec_trytake_own hr hw).trans hfin, hmem, by rw [hbits]; exact hfull, hawaits⟩
  case feget =>
    intro s o off own hr hw
    obtain ⟨t, hfin, hmem, hbits, hawaits⟩ := awaits_of_performFe
      (performFe_feget (s := s.bump) (op := ownFeOp s .feget off 0 false o.d) rfl) rfl (fun _ _ => rfl) rfl
    exact ⟨t, (exec_feget_own hr hw).trans hfin, hmem, hbits, hawaits⟩

/-- Settles O13: the unit of the own core performs the operation at issue (`awaits_of_performFe`), and its result fills rd and the
pair (`ctx_fillFe`). -/
theorem fullEmptyReads : Obligations.FullEmptyReads := ⟨fullEmptyReadsClaim, fullEmptyResultFills⟩

/-! ### The owner core performs what has been sent to it (R129, R168) -/

/-- A TAKE of a full word that has reached its owner: the word is empty, and the result is the newest operation. -/
theorem exec_feOpAtOwner_take {s : State} {n : Nat} {op : FeOp} (hop : s.feOps[n]? = some op) (hres : op.res = none)
    (hk : op.kind = .take) (hfull : fullAt s op.owner op.off = true) (hheld : heldCore s op.core (op.owner / 256) op.id = false)
    (hown : ownPending s op.core op.ctx (windowOf op.owner + op.off) = false) :
    exec (.feOpAtOwner n) s = .next
      { (setFull { s with feOps := s.feOps.eraseIdx n } op.owner op.off false).bump with
        feOps := s.feOps.eraseIdx n ++ [{ op with res := some (takenRes s op), doneAt := s.serial }] } := by
  have hperf := performFe_take_full (s := { s with feOps := s.feOps.eraseIdx n }) hk hfull
  show execFeOpAtOwner n s = _
  simp only [execFeOpAtOwner, hop, hres, hheld, hown, hperf]
  rfl

section Window
variable {s : State} {r : RemoteOp} {rest : List RemoteOp} {g off : Nat}

/-- A store through a window is performed at its owner (R129), and a guarded owner keeps it (R362). -/
theorem exec_remoteWindowAccess_store {bs : List Byte} (hr : s.remotes = r :: rest) (hd : r.data = none)
    (hp : placeOf s r.addr = .spad g off) (hst : r.store = some bs) (hheld : heldCore s r.core (g / 256) r.stamp = false) :
    exec (.remoteWindowAccess 0) s = .next
      (if r.core / 256 = g / 256 then writeSpad { s with remotes := rest } g off bs
       else keepReplay (writeSpad { s with remotes := rest } g off bs) (g / 256) (.remote r)) := by
  have hvia : storeVia { s with remotes := rest } ⟨r.basin, none⟩ r.addr bs = writeSpad { s with remotes := rest } g off bs := by
    have hp' : placeOf { s with remotes := rest } r.addr = .spad g off := hp
    simp only [storeVia, hp']
  show execRemoteWindowAccess 0 s = _
  simp [execRemoteWindowAccess, hr, ownerOf, hp, hd, hheld, hst, hvia, event]

/-- A load through a window takes the bytes at its owner (R129). -/
theorem exec_remoteWindowAccess_load (hr : s.remotes = r :: rest) (hd : r.data = none) (hp : placeOf s r.addr = .spad g off)
    (hst : r.store = none) (hheld : heldCore s r.core (g / 256) r.stamp = false) :
    exec (.remoteWindowAccess 0) s = .next
      { s.bump with remotes := { r with data := some (readBytes s.mem r.addr r.size), stamp := s.serial } :: rest } := by
  show execRemoteWindowAccess 0 s = _
  simp [execRemoteWindowAccess, hr, ownerOf, hp, hd, hheld, hst, event]

end Window

/-- The end of a park leaves the rest of its context. -/
@[simp] theorem ctx_unpark (s : State) (g k : Nat) : (unpark s g k).ctx g k = { s.ctx g k with park := none } := State.ctx_setCtx ..

theorem exec_takeRetryExpiry {s : State} {g k h o : Nat} (hp : (s.ctx g k).park = some (.takeRetry h o)) :
    exec (.takeRetryExpiry g k) s = .next (unpark s g k) := by
  show execTakeRetryExpiry g k s = _
  simp only [execTakeRetryExpiry, hp]
  rfl

/-- Settles O11: the owner's unit performs the operation or the access as its own core's are performed, and a retry ends the
park. -/
theorem ownerCoreServes : Obligations.OwnerCoreServes := by
  unfold Obligations.OwnerCoreServes
  refine ⟨?take, ?store, ?load, ?retry⟩
  case take =>
    intro s n op hop hres hk hfull hheld hown
    refine ⟨_, exec_feOpAtOwner_take hop hres hk hfull hheld hown, fullAt_setFull { s with feOps := s.feOps.eraseIdx n } .., rfl,
      { op with res := some (takenRes s op), doneAt := s.serial }, by simp, rfl, rfl⟩
  case store =>
    intro s r rest g off bs hr hd hp hst hheld hwf
    refine ⟨_, exec_remoteWindowAccess_store hr hd hp hst hheld, ?_⟩
    have hmem := writeSpad_mem { s with remotes := rest } g off bs
    split
    · exact ⟨writeSpad_remotes .., by rw [hmem]; exact readBytes_writeBytes hwf _ _,
        fun a ha => by rw [hmem]; exact readByte_writeBytes_outside hwf _ _ _ ha, ctx_writeSpad _ _ _ _⟩
    · simp only [keepReplay_remotes, keepReplay_mem, ctx_keepReplay, hmem]
      exact ⟨writeSpad_remotes .., readBytes_writeBytes hwf _ _, fun a ha => readByte_writeBytes_outside hwf _ _ _ ha,
        ctx_writeSpad _ _ _ _⟩
  case load =>
    intro s r rest g off hr hd hp hst hheld
    exact ⟨_, exec_remoteWindowAccess_load hr hd hp hst hheld, rfl, rfl, fun _ _ => rfl⟩
  case retry =>
    intro s g k h o hp
    exact ⟨_, exec_takeRetryExpiry hp, by rw [ctx_unpark], by rw [ctx_unpark], rfl⟩

end Sys2Proof.Machine
end

section
/-! SUPPORT. WAIT, WAITA and WAITNA and their ends (R178, R179), and IRET outside a handler (R35, R181, R255, R300). -/

namespace Sys2Proof.Machine

open Sys2Proof.Safety Sys2Proof.Claims

/-! ### WAIT (R178) -/

/-- WAIT with an event of its mask latched claims those events and goes on. -/
theorem exec_wait_latched {s : State} {o : R2} (h : Ready s o.use) (hit : s.me.evl &&& waitMask (s.g o.a) ≠ 0) :
    exec (.wait o) s = .next ((s.setMe { s.me with evl := s.me.evl &&& ~~~ waitMask (s.g o.a) }).put o.d
      (s.me.evl &&& waitMask (s.g o.a))).next4 := by
  show execWait o s = _
  rw [execWait, gate_ready h]
  dsimp only
  rw [if_neg hit]
  rfl

/-- A latched event of its mask ends the park of a WAIT. -/
theorem exec_waitWake_latched {s : State} {g k : Nat} {m : Word} (hp : (s.ctx g k).park = some (.wait m))
    (hit : (s.ctx g k).evl &&& m ≠ 0) : exec (.waitWake g k) s = .next (unpark s g k) := by
  show execWaitWake g k s = _
  simp only [execWaitWake, hp, if_pos hit]
  rfl

/-! ### WAITA and WAITNA (R179) -/

/-- A wait's read that nothing of the thread or of the core's buffered stores holds back sees the word (R122, R179). -/
theorem waitRead_unhindered {s : State} {w : Where} (hu : Unhindered s w 3) (hown : ownPending s s.cur.1 s.cur.2 w.pa = false)
    (hov : overlaps s s.cur.1 (gctx s.cur.1 s.cur.2) w.pa 8 = false) (k : Word → Eff) :
    waitRead s w k = k (seen64 s s.cur.1 s.cur.2 w.pa) := by
  obtain ⟨hvec, -, hscoped⟩ := hu
  have hscoped : scopedPending s s.cur.1 s.cur.2 = false := hscoped.resolve_left (by decide)
  simp [waitRead, hvec, hown, hscoped, hov]

/-- A wait on an aligned word of a readable place goes on with L1 emptied where its condition holds, and else parks. -/
theorem waitWord_unhindered {s : State} {o : R3} {eq : Bool} {w : Where} (hr : Ready s o.use) (h8 : (s.g o.a).toNat % 8 = 0)
    (ht : translate s s.who (s.g o.a) .load 8 = .ok w) (hu : Unhindered s w 3)
    (hown : ownPending s s.cur.1 s.cur.2 w.pa = false) (hov : overlaps s s.cur.1 (gctx s.cur.1 s.cur.2) w.pa 8 = false) :
    waitWord o eq s = .next (if decide (seen64 s s.cur.1 s.cur.2 w.pa = s.g o.b) = eq
      then ((flashL1 s s.cur.1).put o.d (seen64 s s.cur.1 s.cur.2 w.pa)).next4
      else s.parkMe (.waita w.pa eq (s.g o.b))) := by
  rw [waitWord, gate_ready hr]
  simp only [h8, withPlace, orFault, ht, waitRead_unhindered hu hown hov]
  by_cases hc : decide (seen64 s s.cur.1 s.cur.2 w.pa = s.g o.b) = eq
  · simp only [if_pos hc]; rfl
  · simp only [if_neg hc]; rfl

/-- A condition that has come true ends the park of a WAITA or WAITNA. -/
theorem exec_waitaReread_holds {s : State} {g k a : Nat} {eq : Bool} {v : Word} (hp : (s.ctx g k).park = some (.waita a eq v))
    (hc : decide (seen64 s g k a = v) = eq) : exec (.waitaReread g k) s = .next (unpark s g k) := by
  have hholds : waitaHolds s g k = true := by simp only [waitaHolds, hp, hc, beq_self_eq_true]
  show execWaitaReread g k s = _
  rw [execWaitaReread, if_pos hholds]
  rfl

/-- The half of O14 that speaks of waiting. -/
theorem waitingClaim : WaitingClaim := by
  refine ⟨?wait, ?waita, ?wake, ?reread⟩
  case wait =>
    intro s o hr hit
    refine ⟨_, exec_wait_latched hr hit, ?_, written_put_next4 .., ?_, ?_, rfl⟩
    · rw [State.pc_next4, State.pc_put, State.me_setMe]
    · simp [State.next4, State.me_goto, State.me_put, waitMask]
    · refine rest_of_same_thread (rest_of_keeps (keeps_put_next4 _ _ _)) rfl (by rw [State.me_setMe]) fun g k hn => ?_
      exact State.ctx_setMe_ne _ _ _ _ hn
  case waita =>
    intro s i o eq w hi hr h8 ht hu hown hov
    have hexec : exec i s = waitWord o eq s := by
      obtain ⟨rfl, rfl⟩ | ⟨rfl, rfl⟩ := hi <;> rfl
    refine ⟨_, hexec.trans (waitWord_unhindered hr h8 ht hu hown hov), ?_, fun hc => ?_, fun hc => ?_⟩
    · split <;> rfl
    · rw [if_pos hc]
      exact ⟨by rw [State.pc_next4, State.pc_put, me_flashL1], written_put_next4 ..,
        keeps_of_flashL1 (by simpa using keeps_put_next4 (flashL1 s s.cur.1) o.d _)⟩
    · rw [if_neg hc, State.me_parkMe]
      exact ⟨rfl, rfl, rfl⟩
  case wake =>
    intro s g k m hp hit
    exact ⟨_, exec_waitWake_latched hp hit, ctx_unpark .., rfl⟩
  case reread =>
    intro s g k a eq v hp hc
    exact ⟨_, exec_waitaReread_holds hp hc, ctx_unpark .., rfl⟩

/-! ### IRET outside a handler (R35, R181) -/

/-- A single trap gives up the context's place among those that wait for the tile engine (R255), and enters the handler (R300). -/
theorem takeTrap_single {s : State} {g k : Nat} (h : (s.ctx g k).th = false) (cause : Nat) (tval epc : Word) :
    takeTrap s g k cause tval epc = (leaveTile s g k).setCtx g k ((s.ctx g k).enter (s.core g).tvec cause tval epc) := by
  have hctx : (leaveTile s g k).ctx g k = s.ctx g k := by
    unfold leaveTile
    dsimp only
    split
    · exact ctx_setCore_of_ctxs (by rfl) g k
    · rfl
  have htvec : ((leaveTile s g k).core g).tvec = (s.core g).tvec := by
    unfold leaveTile
    dsimp only
    split
    · rw [State.core_setCore]
    · rfl
  rw [takeTrap, hctx, htvec, h]
  rfl

theorem exec_iret_outside {s : State} (h : s.me.ih = false) :
    exec .iret s = .next (takeTrap s s.cur.1 s.cur.2 causeILL (wordOf .iret) s.me.pc) := by
  show execIret s = _
  rw [execIret, if_pos h]
  rfl

/-- A context that a single trap takes waits for the tile engine no more. -/
theorem not_waiting_takeTrap {s : State} {g k : Nat} (h : (s.ctx g k).th = false) (cause : Nat) (tval epc : Word) :
    k ∉ ((takeTrap s g k cause tval epc).core g).tile.waiters := by
  rw [takeTrap_single h, State.core_setCtx, Core.setCtx_tile]
  unfold leaveTile
  dsimp only
  split
  · simp
  · rename_i hw
    simpa using hw

/-- Where the context does not wait for the tile engine, IRET outside a handler takes ILL and changes nothing else: the clause of
`ArrivalMasking` with the premise that it lacks. -/
theorem exec_iret_ill {s : State} (hi : s.me.ih = false) (hth : s.me.th = false) (hw : s.cur.2 ∉ s.myCore.tile.waiters) :
    exec .iret s = .next (s.setMe (s.me.enter s.myCore.tvec causeILL (wordOf .iret) s.me.pc)) := by
  have hleave : leaveTile s s.cur.1 s.cur.2 = s := if_neg (by simpa [State.myCore] using hw)
  rw [exec_iret_outside hi, takeTrap_single hth, hleave]
  rfl

/-- A context outside a handler that is listed as waiting for the tile engine: context 0 of core 0, in the part as after reset. -/
def waiterOutsideHandler : State :=
  { State.reset.setCore 0 { Core.fresh with tile := { Tile.fresh with waiters := [0] } } with cur := (0, 0) }

/-- Refutes O14: its last clause gives the state after IRET outside a handler, for every state, as one in which the executing
context alone has changed, but a trap also takes the context off the tile engine's list of waiters (`leaveTile`, R255). In
`waiterOutsideHandler` that list is [0] before the trap and empty after it. -/
theorem not_waitingAndMasking : ¬ Obligations.WaitingAndMasking := by
  intro h
  obtain ⟨-, -, -, -, hill⟩ := h
  have hstate := Host.Outcome.next.inj
    ((exec_iret_outside (s := waiterOutsideHandler) rfl).symm.trans (hill waiterOutsideHandler rfl rfl))
  have hgone := not_waiting_takeTrap (s := waiterOutsideHandler) (g := 0) (k := 0) rfl causeILL (wordOf .iret)
    waiterOutsideHandler.me.pc
  have hstays : 0 ∈ ((waiterOutsideHandler.setMe (waiterOutsideHandler.me.enter waiterOutsideHandler.myCore.tvec causeILL
      (wordOf .iret) waiterOutsideHandler.me.pc)).core 0).tile.waiters := List.mem_singleton_self 0
  rw [← hstate] at hstays
  exact hgone hstays

end Sys2Proof.Machine
end
